-- ==== Sys2Proof/Word.lean ====
section
/-! DEFINITION. The word types of the machine (02_notation R38, 04_registers R81, R86, 12_queues R239). -/

namespace Sys2Proof

/-- A 64-bit register, latch or table word (R38, R81). -/
abbrev Word := BitVec 64

/-- A byte of memory (R5). -/
abbrev Byte := BitVec 8

/-- A handle: 128 bits (R239, Table 12.4). -/
abbrev Handle := BitVec 128

/-- A vector register: 2,048 bits (R86). -/
abbrev Vec := BitVec 2048

/-- A tile: 8 KiB, byte `b` in bits `8b+7 : 8b` (R86). -/
abbrev Tile := BitVec 65536

/-- An accumulator: 64 × 64 × 32 bits, element (i, j) at bit `32 (64 i + j)` (R86). -/
abbrev Acc := BitVec 131072

end Sys2Proof
end

