-- ==== Sys2Proof/Config.lean ====
section
/-! DEFINITION. What an implementation fixes and the values the manual leaves open. An `opaque` constant has no body: nothing can
be proved about its value, so a claim that holds, holds for every value. -/

namespace Sys2Proof.Config

/-- The value of a `.y` that the thread has not triggered in the take (R42, R79); the argument is a counter of the state.
DESIGN CHOICE (log 1). -/
opaque freeY : Nat → Word

/-- At an acquisition by a take of the last holder's context, a file register still holds its value (true) or reads zero (R78); the
arguments are a counter of the state and the register. DESIGN CHOICE (log 1). -/
opaque fileKept : Nat → Nat → Bool

/-- At a take's start, a byte of its scratch window still holds the value of an earlier take of the context (true) or is zero (R79, R183);
the arguments are a counter of the state and the offset. DESIGN CHOICE (log 1). -/
opaque scratchKept : Nat → Nat → Bool

/-- The 64-bit MAC of a handle's bits 63:0 under the device secret (R239). DESIGN CHOICE (log 81). -/
opaque handleMac : BitVec 64 → BitVec 64

/-- The value of a byte of format 0 where an instruction needs one: the format gives its bytes no meaning (R103). DEDUCED (log 83). -/
opaque byteValue : Nat → Int

/-- The byte that a conversion into format 0 leaves: source format code, source element (R103, R169). DEDUCED (log 83). -/
opaque byteElem : Nat → Nat → Byte

/-- A peer device's answer to an access: device, address, bytes, write, counter (R360). DESIGN CHOICE (log 34). -/
opaque peerAllows : Nat → Nat → Nat → Bool → Nat → Bool

/-- Some plane of the domain delivers to this device number (R359). DESIGN CHOICE (log 34). -/
opaque peerReached : Nat → Bool

/-- The host's root port completes AtomicOps (R364). DESIGN CHOICE (log 84). -/
opaque hostAtomics : Bool

/-- Cycles until a remote request reaches its home (R190); the argument is its number. DESIGN CHOICE (log 7). -/
opaque requestDelay : Nat → Nat

/-- Cycles more until its answer or acknowledgement reaches the issuer. DESIGN CHOICE (log 7). -/
opaque answerDelay : Nat → Nat

/-- A load that nothing orders behind what its thread did before reads a 16-B granule as it stood at the take's start (R207, R393); the arguments
say whether an engine loads, and give the number of the operation or request and the granule. DESIGN CHOICE (log 120). -/
opaque loadsEarly : Bool → Nat → Nat → Bool

/-- Cycles until a packet is delivered (R261): packets may overtake one another. DESIGN CHOICE (log 7). -/
opaque packetDelay : Nat → Nat

/-- Cycles that an engine operation takes after its start. DESIGN CHOICE (log 7). -/
opaque engineDelay : Nat → Nat

/-- Cycles from a copy request's kick to its start, unless an earlier one holds it up. DESIGN CHOICE (log 7). -/
opaque copyDelay : Nat → Nat

/-- 16-B granules of the 384 GiB of HBM, and of the 96 GiB that each die's two stacks hold (R1). -/
def hbmGranules : Nat := 25769803776

def dieGranules : Nat := 6442450944

/-- Where each granule of HBM physical address lies among the stacks, die after die: some one-to-one placement (R1, R387).
DESIGN CHOICE (log 50). -/
opaque hbmPlace : Equiv.Perm (Fin hbmGranules)

/-- The die whose stacks hold an HBM physical address; each die holds 96 GiB. -/
def hbmDie (pa : Nat) : Nat := if h : pa / 16 < hbmGranules then (hbmPlace ⟨pa / 16, h⟩).val / dieGranules else 0

/-- Bytes of a network copy that its remote end had written when the queue pair failed (R363): a counter of the state, at most as many as
the copy writes. DESIGN CHOICE (log 58). -/
opaque pairBytes : Nat → Nat

/-- The scale, or band scale, of destination elements that a transposing copy between equal formats brings together from places with
different ones (R224); the arguments are those scales. DESIGN CHOICE (log 54). -/
opaque turnedScale : List Nat → BitVec 16

/-- A byte that an RDMA READ brings: pinned-region entry, offset in the remote buffer, counter (R363). DESIGN CHOICE (log 58). -/
opaque netByte : Nat → Nat → Nat → Byte

/-- The integrity key of a slot (R371), which goes with its key pair: no rule says how a slot comes by it. DESIGN CHOICE (log 81). -/
opaque integrityKey : BitVec 512 → BitVec 256

/-- The nonce of a boot (R375); the argument is a counter of the state. DESIGN CHOICE (log 1). -/
opaque bootNonce : Nat → BitVec 256

/-- The device-unique sleep key (R381). DESIGN CHOICE (log 81). -/
opaque sleepKey : BitVec 512

/-- Bytes of memory that read undefined after wake (R380): address, counter. DESIGN CHOICE (log 85). -/
opaque freeByte : Nat → Nat → Byte

end Sys2Proof.Config
end

