-- ==== Sys2Proof/Machine/Sha.lean ====
section
/-! DEFINITION. SHA-256, and the keyed functions built from it: HMAC and HKDF (17_trust R371, R375, R377). The spec names the functions and
does not print them. PRESUMED (log 82): those of FIPS 180-4, FIPS 198-1 and RFC 5869. -/

namespace Sys2Proof.Machine

/-- The 64 round constants. -/
def shaK : List (BitVec 32) := [
  0x428a2f98#32, 0x71374491#32, 0xb5c0fbcf#32, 0xe9b5dba5#32, 0x3956c25b#32, 0x59f111f1#32, 0x923f82a4#32, 0xab1c5ed5#32,
  0xd807aa98#32, 0x12835b01#32, 0x243185be#32, 0x550c7dc3#32, 0x72be5d74#32, 0x80deb1fe#32, 0x9bdc06a7#32, 0xc19bf174#32,
  0xe49b69c1#32, 0xefbe4786#32, 0x0fc19dc6#32, 0x240ca1cc#32, 0x2de92c6f#32, 0x4a7484aa#32, 0x5cb0a9dc#32, 0x76f988da#32,
  0x983e5152#32, 0xa831c66d#32, 0xb00327c8#32, 0xbf597fc7#32, 0xc6e00bf3#32, 0xd5a79147#32, 0x06ca6351#32, 0x14292967#32,
  0x27b70a85#32, 0x2e1b2138#32, 0x4d2c6dfc#32, 0x53380d13#32, 0x650a7354#32, 0x766a0abb#32, 0x81c2c92e#32, 0x92722c85#32,
  0xa2bfe8a1#32, 0xa81a664b#32, 0xc24b8b70#32, 0xc76c51a3#32, 0xd192e819#32, 0xd6990624#32, 0xf40e3585#32, 0x106aa070#32,
  0x19a4c116#32, 0x1e376c08#32, 0x2748774c#32, 0x34b0bcb5#32, 0x391c0cb3#32, 0x4ed8aa4a#32, 0x5b9cca4f#32, 0x682e6ff3#32,
  0x748f82ee#32, 0x78a5636f#32, 0x84c87814#32, 0x8cc70208#32, 0x90befffa#32, 0xa4506ceb#32, 0xbef9a3f7#32, 0xc67178f2#32]

/-- The hash value before the first block. -/
def shaInit : List (BitVec 32) := [
  0x6a09e667#32, 0xbb67ae85#32, 0x3c6ef372#32, 0xa54ff53a#32, 0x510e527f#32, 0x9b05688c#32, 0x1f83d9ab#32, 0x5be0cd19#32]

def shaBig0 (x : BitVec 32) : BitVec 32 := x.rotateRight 2 ^^^ x.rotateRight 13 ^^^ x.rotateRight 22

def shaBig1 (x : BitVec 32) : BitVec 32 := x.rotateRight 6 ^^^ x.rotateRight 11 ^^^ x.rotateRight 25

def shaSmall0 (x : BitVec 32) : BitVec 32 := x.rotateRight 7 ^^^ x.rotateRight 18 ^^^ x >>> 3

def shaSmall1 (x : BitVec 32) : BitVec 32 := x.rotateRight 17 ^^^ x.rotateRight 19 ^^^ x >>> 10

def shaCh (x y z : BitVec 32) : BitVec 32 := (x &&& y) ^^^ (~~~x &&& z)

def shaMaj (x y z : BitVec 32) : BitVec 32 := (x &&& y) ^^^ (x &&& z) ^^^ (y &&& z)

/-- The rounds of one block: `w` is the window of the next 16 schedule words, one constant consumed a round. -/
def shaRounds : List (BitVec 32) → List (BitVec 32) → List (BitVec 32) → List (BitVec 32)
  | k :: ks, w :: ws, [a, b, c, d, e, f, g, h] =>
    let t1 := h + shaBig1 e + shaCh e f g + k + w
    let t2 := shaBig0 a + shaMaj a b c
    let next := shaSmall1 (ws.getD 13 0) + ws.getD 8 0 + shaSmall0 (ws.getD 0 0) + w
    shaRounds ks (ws ++ [next]) [t1 + t2, a, b, c, d + t1, e, f, g]
  | _, _, v => v

/-- One block of 16 big-endian words folded into the hash value. -/
def shaBlock (h : List (BitVec 32)) (w : List (BitVec 32)) : List (BitVec 32) := List.zipWith (· + ·) h (shaRounds shaK w h)

/-- Big-endian 32-bit words of a byte string, four bytes a word. -/
def beWords : List Byte → List (BitVec 32)
  | a :: b :: c :: d :: r => (a ++ b ++ c ++ d) :: beWords r
  | _ => []

/-- The hash value after blocks of 16 words. -/
def shaBlocks : Nat → List (BitVec 32) → List (BitVec 32) → List (BitVec 32)
  | 0, h, _ => h
  | fuel + 1, h, ws => if ws.isEmpty then h else shaBlocks fuel (shaBlock h (ws.take 16)) (ws.drop 16)

/-- The most significant byte first. -/
def beBytes (n v : Nat) : List Byte := (List.range n).reverse.map (fun i => BitVec.ofNat 8 (v / 256 ^ i))

/-- The message followed by the bit 1, zeros to the last 8 bytes of a block, and its length in bits. -/
def shaPad (bs : List Byte) : List Byte := bs ++ 0x80#8 :: List.replicate ((119 - bs.length % 64) % 64) 0 ++ beBytes 8 (8 * bs.length)

/-- SHA-256 of a byte string. -/
def sha256 (bs : List Byte) : List Byte :=
  let ws := beWords (shaPad bs)
  (shaBlocks ws.length shaInit ws).flatMap (fun w => [w.extractLsb' 24 8, w.extractLsb' 16 8, w.extractLsb' 8 8, w.extractLsb' 0 8])

/-- HMAC-SHA-256 under a key of at most 64 bytes. -/
def hmac256 (key msg : List Byte) : List Byte :=
  let k := key ++ List.replicate (64 - key.length) 0
  sha256 (k.map (· ^^^ 0x5C#8) ++ sha256 (k.map (· ^^^ 0x36#8) ++ msg))

/-- HKDF-SHA-256, 32 bytes of output: extract, and the first step of expand. -/
def hkdf256 (key salt info : List Byte) : List Byte := hmac256 (hmac256 salt key) (info ++ [1#8])

/-- Byte strings of 32 bytes are held with their first byte lowest (R5). -/
def digestBytes (x : BitVec 256) : List Byte := (List.range 32).map (fun i => x.extractLsb' (8 * i) 8)

/-- The value held for 32 bytes. -/
def digestOf (bs : List Byte) : BitVec 256 := bs.foldr (fun b acc => acc <<< 8 ||| b.setWidth 256) 0

/-- A measurement register after an extend (R377): SHA-256 of the register and then the digest. -/
def measureExtend (m d : BitVec 256) : BitVec 256 := digestOf (sha256 (digestBytes m ++ digestBytes d))

/-- The bytes of "lv4 message" (R375). -/
def messageInfo : List Byte := [0x6C#8, 0x76#8, 0x34#8, 0x20#8, 0x6D#8, 0x65#8, 0x73#8, 0x73#8, 0x61#8, 0x67#8, 0x65#8]

/-- The message key of a tenant key under the boot's nonce (R375). -/
def messageKey (key nonce : BitVec 256) : BitVec 256 := digestOf (hkdf256 (digestBytes key) (digestBytes nonce) messageInfo)

end Sys2Proof.Machine
end

