-- ==== Sys2Proof/Machine/Cipher.lean ====
section
/-! DEFINITION. AES-256-XTS over a data unit of 256 bytes, and the MAC of a unit (17_trust R371). The spec names the functions and does not print
them. PRESUMED (log 82): those of FIPS 197 and IEEE 1619. -/

namespace Sys2Proof.Machine

/-! ## The field of 256 elements -/

def xtime (a : Byte) : Byte := (a <<< 1) ^^^ (if a.msb then 0x1B#8 else 0)

/-- The product, over the bits of `b` from bit `i` down. -/
def gfMul (a b : Byte) : Nat → Byte
  | 0 => 0
  | i + 1 => xtime (gfMul a b i) ^^^ (if b.getLsbD (7 - i) then a else 0)

def gmul (a b : Byte) : Byte := gfMul a b 8

/-- a^254, the inverse of a nonzero element: a^2 a^4 … a^128. -/
def ginvFrom : Nat → Byte → Byte → Byte
  | 0, _, r => r
  | n + 1, p, r => let q := gmul p p; ginvFrom n q (gmul r q)

def ginv (a : Byte) : Byte := ginvFrom 7 a 1

/-! ## AES-256 -/

def subByte (a : Byte) : Byte :=
  let b := ginv a
  b ^^^ b.rotateLeft 1 ^^^ b.rotateLeft 2 ^^^ b.rotateLeft 3 ^^^ b.rotateLeft 4 ^^^ 0x63#8

def invSubByte (a : Byte) : Byte := ginv (a.rotateLeft 1 ^^^ a.rotateLeft 3 ^^^ a.rotateLeft 6 ^^^ 0x05#8)

def xorBytes (a b : List Byte) : List Byte := List.zipWith (· ^^^ ·) a b

/-- Byte `i` of a block lies in row i mod 4, column i / 4. -/
def permute (b : List Byte) (f : Nat → Nat) : List Byte := (List.range 16).map (fun i => b.getD (f i) 0)

def shiftRows (b : List Byte) : List Byte := permute b (fun i => (i + 4 * (i % 4)) % 16)

def invShiftRows (b : List Byte) : List Byte := permute b (fun i => (i + 12 * (i % 4)) % 16)

/-- Every column times the circulant matrix whose first row is `m`. -/
def mixWith (m : List Byte) (b : List Byte) : List Byte :=
  (List.range 16).map (fun i =>
    (List.range 4).foldl (fun a j => a ^^^ gmul (m.getD ((j + 4 - i % 4) % 4) 0) (b.getD (i / 4 * 4 + j) 0)) 0)

def mixColumns : List Byte → List Byte := mixWith [2, 3, 1, 1]

def invMixColumns : List Byte → List Byte := mixWith [14, 11, 13, 9]

/-- The next word of the key schedule, from the words before it, latest first. -/
def nextKeyWord (i : Nat) (rcon : Byte) (ws : List (List Byte)) : List Byte :=
  let w := ws.getD 0 []
  let t := if i % 8 = 0 then xorBytes ((w.drop 1 ++ w.take 1).map subByte) [rcon, 0, 0, 0] else if i % 8 = 4 then w.map subByte else w
  xorBytes (ws.getD 7 []) t

def expandFrom : Nat → Nat → Byte → List (List Byte) → List (List Byte)
  | 0, _, _, ws => ws
  | n + 1, i, rcon, ws => expandFrom n (i + 1) (if i % 8 = 0 then xtime rcon else rcon) (nextKeyWord i rcon ws :: ws)

/-- The 15 round keys of a 32-byte key. -/
def roundKeys (key : List Byte) : List (List Byte) :=
  let ws := (expandFrom 52 8 1 ((List.range 8).reverse.map (fun i => (key.drop (4 * i)).take 4))).reverse
  (List.range 15).map (fun r => ((ws.drop (4 * r)).take 4).flatten)

def encryptRounds : List (List Byte) → List Byte → List Byte
  | [], b => b
  | [k], b => xorBytes (shiftRows (b.map subByte)) k
  | k :: ks, b => encryptRounds ks (xorBytes (mixColumns (shiftRows (b.map subByte))) k)

def aesEncrypt (keys : List (List Byte)) (b : List Byte) : List Byte :=
  match keys with
  | [] => b
  | k :: ks => encryptRounds ks (xorBytes b k)

/-- The round keys in reverse: the last is added alone. -/
def decryptRounds : List (List Byte) → List Byte → List Byte
  | [], b => b
  | [k], b => xorBytes ((invShiftRows b).map invSubByte) k
  | k :: ks, b => decryptRounds ks (invMixColumns (xorBytes ((invShiftRows b).map invSubByte) k))

def aesDecrypt (keys : List (List Byte)) (b : List Byte) : List Byte :=
  match keys.reverse with
  | [] => b
  | k :: ks => decryptRounds ks (xorBytes b k)

/-! ## XTS -/

/-- `n` bytes of a vector, its first byte lowest. -/
def bytesOf (n v : Nat) : List Byte := (List.range n).map (fun i => BitVec.ofNat 8 (v / 256 ^ i))

def valueOf (bs : List Byte) : Nat := bs.foldr (fun b acc => b.toNat + 256 * acc) 0

/-- The tweak of the next block. -/
def nextTweak (t : BitVec 128) : BitVec 128 := (t <<< 1) ^^^ (if t.msb then 0x87#128 else 0)

/-- `n` blocks, each between two additions of its tweak. -/
def xtsBlocks (f : List Byte → List Byte) : Nat → BitVec 128 → List Byte → List Byte
  | 0, _, _ => []
  | n + 1, t, bs =>
    let tw := bytesOf 16 t.toNat
    xorBytes (f (xorBytes (bs.take 16) tw)) tw ++ xtsBlocks f n (nextTweak t) (bs.drop 16)

/-- The key pair: the data key's 32 bytes lie below the tweak key's. -/
def dataKeys (key : BitVec 512) : List (List Byte) := roundKeys (bytesOf 32 (key.extractLsb' 0 256).toNat)

/-- The unit's first tweak: `j` as a 128-bit little-endian value, enciphered (R371). -/
def firstTweak (key : BitVec 512) (j : Nat) : BitVec 128 :=
  BitVec.ofNat 128 (valueOf (aesEncrypt (roundKeys (bytesOf 32 (key.extractLsb' 256 256).toNat)) (bytesOf 16 j)))

/-- Encryption of a unit under a key pair and tweak (R371). -/
def xtsEncrypt (key : BitVec 512) (j : Nat) (x : BitVec 2048) : BitVec 2048 :=
  let ks := dataKeys key
  BitVec.ofNat 2048 (valueOf (xtsBlocks (aesEncrypt ks) 16 (firstTweak key j) (bytesOf 256 x.toNat)))

/-- Decryption of a unit. -/
def xtsDecrypt (key : BitVec 512) (j : Nat) (x : BitVec 2048) : BitVec 2048 :=
  let ks := dataKeys key
  BitVec.ofNat 2048 (valueOf (xtsBlocks (aesDecrypt ks) 16 (firstTweak key j) (bytesOf 256 x.toNat)))

/-- The MAC of a unit: the first 8 bytes of HMAC-SHA-256 under the slot's integrity key, over `j` and the 256 ciphertext bytes (R371).
DESIGN CHOICE (log 81). -/
def blockMac (key : BitVec 512) (j : Nat) (x : BitVec 2048) : BitVec 64 :=
  BitVec.ofNat 64 (valueOf ((hmac256 (bytesOf 32 (Config.integrityKey key).toNat) (bytesOf 8 j ++ bytesOf 256 x.toNat)).take 8))

end Sys2Proof.Machine
end

