-- ==== Sys2Proof/Syntax.lean ====
section
/-! DEFINITION. The instruction set: one constructor for each row of the opcode table, words and events alike.

Words carry the fields of their encoding (03_encoding Tables 3.2–3.20), read into named operands. Events carry what the spec
leaves to timing or to an outside party: which cell, thread, packet or request, and the data an outside party supplies. -/

namespace Sys2Proof

/-- The guard field of a trigger word (R60, Table 3.12). -/
inductive Guard
  | always
  | ifSet (p : BitVec 3)
  | ifClear (p : BitVec 3)
  deriving DecidableEq, Repr

/-- A source socket (R57, Table 3.9). -/
inductive Src
  | g (n : BitVec 5)
  | m (n : BitVec 3)
  | e (n : BitVec 3)
  | y (u : BitVec 4)
  | imm (v : BitVec 6)
  deriving DecidableEq, Repr

/-- A destination socket (R58, Table 3.10). -/
inductive Dst
  | g (n : BitVec 5)
  | a (u : BitVec 4)
  | p (n : BitVec 3)
  | e (n : BitVec 3)
  | b (u : BitVec 4)
  deriving DecidableEq, Repr

/-- The two integer units with one map (R66). -/
inductive IUnit | ia | ib
  deriving DecidableEq, Repr

/-- Rounding direction of layout fround (Table 3.13). -/
inductive FRound | rne | rtz | rdn | rup
  deriving DecidableEq, Repr

/-- Condition of layout fcmp (Table 3.13). -/
inductive FCond | eq | lt | le | un
  deriving DecidableEq, Repr

/-- Format codes (Table 3.14; 5.2). -/
inductive Fmt
  | byte | i8 | i16 | i32 | i64 | uint8 | f32 | bf16 | f16 | e4m3 | e5m2 | e2m3 | e3m2 | e2m1
  | lbf4 | mx8e4 | mx8e5 | mx6e2 | mx6e3 | mx4 | i4
  deriving DecidableEq, Repr

/-- The spaces of unit `ls` (R67). -/
inductive Space | scr | loc | rem | grv | glb
  deriving DecidableEq, Repr

/-- The spaces of `vx` and `mx` memory operations (Tables 3.18, 3.20). -/
inductive VSpace | scr | loc | grv | glb
  deriving DecidableEq, Repr

/-- Access sizes (layout mem). -/
inductive Size | b | h | w | d | q
  deriving DecidableEq, Repr

/-- Scopes (layout ord). -/
inductive Scope | thr | cel | grv | die | dev | sys
  deriving DecidableEq, Repr

/-- Operations of layout amo. -/
inductive AmoOp | add | and | or | xor | min | max | minu | maxu | fadd
  deriving DecidableEq, Repr

/-- Element types of `vx` (Table 7.1). -/
inductive ElTy | f32 | bf16 | f16 | i32
  deriving DecidableEq, Repr

/-- The part of a vector register that `vld` and `vst` move (layout vmem). -/
inductive Part | all | lo | hi
  deriving DecidableEq, Repr

/-- Conditions of `vcmp` (Table 3.18). -/
inductive VCond | eq | ne | lt | le
  deriving DecidableEq, Repr

/-- Variants of `vamax` (layout vamx). -/
inductive AmaxKind
  | acc (t : ElTy)
  | clr
  | rd
  | nanc
  deriving DecidableEq, Repr

/-- What reaches a home (R190, R360): a request or posted write of this device by its id, or an access of an outside agent.
`key` is a memory key of Machine/Ops.lean. -/
inductive Arrival
  | own (id : Nat)
  | peerWrite (src pa : Nat) (bytes : List Byte)
  | peerAmo (src pa : Nat) (op : AmoOp) (size : Nat) (operand : BitVec 128)
  | peerSwp (src pa size : Nat) (new : BitVec 128)
  | peerCas (src pa size : Nat) (expected new : BitVec 128)
  /-- a reduction packet merged from the packets of several devices (R361) -/
  | merged (srcs : List Nat) (pa : Nat) (op : AmoOp) (size : Nat) (operand : BitVec 128)
  | outsideWrite (key : Nat) (bytes : List Byte)
  deriving DecidableEq, Repr

/-- Who writes a register: Nivar in the management window of a die (R276), or the host's function `f` through its BAR0 (R351). -/
inductive Writer
  | nivar (die : Nat)
  | host (f : Nat)
  deriving DecidableEq, Repr

/-- A write of the host to a function's MSI-X capability or table (R355). -/
inductive MsixWrite
  | unmask (vec : Nat)
  | mask (vec : Nat)
  | entry (vec : Nat) (addr : Word) (data : BitVec 32)
  | control (enable functionMask : Bool)
  deriving DecidableEq, Repr

/-- A read on the host port that can time out (R354, R364). -/
inductive HostRead
  | descriptor (f : Nat)
  | load (id : Nat)
  deriving DecidableEq, Repr

/-- The opcode table: words first, then the events of the device and of the parties outside it. -/
inductive Instr
  /-- PLAIN_MOVE: H16 word that copies one source socket to one destination socket. (R38) -/
  | plainMove (src : Src) (dst : Dst)
  /-- PAIR_WORD: W32 word of two plain moves that read both sources before either write. (R50) -/
  | pairWord (src1 : Src) (dst1 : Dst) (src2 : Src) (dst2 : Dst)
  /-- LDX: Writes a 24-bit immediate into the window of an e register that the quarter selects. (R55) -/
  | ldx (imm : BitVec 24) (q : BitVec 2) (n : BitVec 3)
  /-- LDI: Writes a sign-extended 20-bit immediate to a g register. (R54) -/
  | ldi (imm : BitVec 20) (n : BitVec 5)
  /-- B_CONTROL: Control word that branches by a 22-bit halfword offset. (R56) -/
  | bControl (off : BitVec 22)
  /-- CALL_CONTROL: Control word that calls by a 22-bit halfword offset and writes g31. (R56) -/
  | callControl (off : BitVec 22)
  /-- ADD: Integer add of A and T with 64-bit wrap on ia or ib. (R128) -/
  | add (u : IUnit) (grd : Guard) (src : Src)
  /-- ADDW: 32-bit add, sign-extended. (R128) -/
  | addw (u : IUnit) (grd : Guard) (src : Src)
  /-- SUB: Integer subtract A minus T. (R128) -/
  | sub (u : IUnit) (grd : Guard) (src : Src)
  /-- SUBW: 32-bit subtract, sign-extended. (R128) -/
  | subw (u : IUnit) (grd : Guard) (src : Src)
  /-- AND: Bitwise and of A and T. (R128) -/
  | andi (u : IUnit) (grd : Guard) (src : Src)
  /-- OR: Bitwise or of A and T. (R128) -/
  | ori (u : IUnit) (grd : Guard) (src : Src)
  /-- XOR: Bitwise xor of A and T. (R128) -/
  | xori (u : IUnit) (grd : Guard) (src : Src)
  /-- ANDN: A and not T. (R128) -/
  | andn (u : IUnit) (grd : Guard) (src : Src)
  /-- ORN: A or not T. (R128) -/
  | orn (u : IUnit) (grd : Guard) (src : Src)
  /-- MIN: Signed minimum of A and T. (R128) -/
  | min (u : IUnit) (grd : Guard) (src : Src)
  /-- MAX: Signed maximum of A and T. (R128) -/
  | max (u : IUnit) (grd : Guard) (src : Src)
  /-- MINU: Unsigned minimum of A and T. (R128) -/
  | minu (u : IUnit) (grd : Guard) (src : Src)
  /-- MAXU: Unsigned maximum of A and T. (R128) -/
  | maxu (u : IUnit) (grd : Guard) (src : Src)
  /-- ABS: Absolute value of T. (R128) -/
  | abs (u : IUnit) (grd : Guard) (src : Src)
  /-- PASS: Copies T to Y. (R128) -/
  | pass (u : IUnit) (grd : Guard) (src : Src)
  /-- MUL: Low 64 bits of A times T. (R129) -/
  | mul (grd : Guard) (src : Src)
  /-- MULH: High 64 bits of the signed product. (R129) -/
  | mulh (grd : Guard) (src : Src)
  /-- MULHU: High 64 bits of the unsigned product. (R129) -/
  | mulhu (grd : Guard) (src : Src)
  /-- MULW: 32-bit product, sign-extended. (R129) -/
  | mulw (grd : Guard) (src : Src)
  /-- DIV: Signed division on the shared divider. (R129) -/
  | div (grd : Guard) (src : Src)
  /-- DIVU: Unsigned division. (R129) -/
  | divu (grd : Guard) (src : Src)
  /-- REM: Signed remainder. (R129) -/
  | rem (grd : Guard) (src : Src)
  /-- REMU: Unsigned remainder. (R129) -/
  | remu (grd : Guard) (src : Src)
  /-- SHL: Shift A left by T[5:0]. (R130) -/
  | shl (grd : Guard) (src : Src)
  /-- SHR: Logical shift right. (R130) -/
  | shr (grd : Guard) (src : Src)
  /-- SHA: Arithmetic shift right. (R130) -/
  | sha (grd : Guard) (src : Src)
  /-- ROL: Rotate A left. (R130) -/
  | rol (grd : Guard) (src : Src)
  /-- CLZ: Count leading zeros of T. (R130) -/
  | clz (grd : Guard) (src : Src)
  /-- CTZ: Count trailing zeros of T. (R130) -/
  | ctz (grd : Guard) (src : Src)
  /-- POP: Population count of T. (R130) -/
  | pop (grd : Guard) (src : Src)
  /-- EXT: Extracts a bit field of A described by T. (R130) -/
  | ext (grd : Guard) (src : Src)
  /-- INS: Inserts B into a bit field of A. (R130) -/
  | ins (grd : Guard) (src : Src)
  /-- REV: Reverses the bytes of T. (R130) -/
  | rev (grd : Guard) (src : Src)
  /-- CEQ: Compares A == T into a predicate and Y. (R131) -/
  | ceq (grd : Guard) (src : Src) (p : BitVec 3)
  /-- CNE: Compares A != T. (R131) -/
  | cne (grd : Guard) (src : Src) (p : BitVec 3)
  /-- CLT: Signed A < T. (R131) -/
  | clt (grd : Guard) (src : Src) (p : BitVec 3)
  /-- CLTU: Unsigned A < T. (R131) -/
  | cltu (grd : Guard) (src : Src) (p : BitVec 3)
  /-- CGE: Signed A >= T. (R131) -/
  | cge (grd : Guard) (src : Src) (p : BitVec 3)
  /-- CGEU: Unsigned A >= T. (R131) -/
  | cgeu (grd : Guard) (src : Src) (p : BitVec 3)
  /-- CTST: Tests (A and T) != 0. (R131) -/
  | ctst (grd : Guard) (src : Src) (p : BitVec 3)
  /-- PAND: And of two named predicates. (R131) -/
  | pand (grd : Guard) (src : Src) (p : BitVec 3)
  /-- POR: Or of two named predicates. (R131) -/
  | por (grd : Guard) (src : Src) (p : BitVec 3)
  /-- PNOT: Negation of a named predicate. (R131) -/
  | pnot (grd : Guard) (src : Src) (p : BitVec 3)
  /-- AADD: Adds a byte offset to a fat pointer's address. (R132) -/
  | aadd (grd : Guard) (src : Src)
  /-- ASUB: Subtracts a byte offset from a fat pointer's address. (R132) -/
  | asub (grd : Guard) (src : Src)
  /-- ATAG: Replaces a fat pointer's tag. (R132) -/
  | atag (grd : Guard) (src : Src)
  /-- AGET: Returns a pointer's tag as a number. (R132) -/
  | aget (grd : Guard) (src : Src)
  /-- AIDX: Advances a fat pointer by T elements of its format. (R132) -/
  | aidx (grd : Guard) (src : Src)
  /-- ADIFF: Byte difference of two addresses. (R132) -/
  | adiff (grd : Guard) (src : Src)
  /-- FADD: FP32 add with selected rounding. (R134) -/
  | fadd (grd : Guard) (src : Src) (r : FRound)
  /-- FSUB: FP32 subtract. (R134) -/
  | fsub (grd : Guard) (src : Src) (r : FRound)
  /-- FMUL: FP32 multiply. (R134) -/
  | fmul (grd : Guard) (src : Src) (r : FRound)
  /-- FMA: FP32 fused multiply-add A*B+T. (R134) -/
  | fma (grd : Guard) (src : Src) (r : FRound)
  /-- FMIN: FP32 minimum. (R135) -/
  | fmin (grd : Guard) (src : Src)
  /-- FMAX: FP32 maximum. (R135) -/
  | fmax (grd : Guard) (src : Src)
  /-- FABS: Clears bit 31 of T. (R135) -/
  | fabs (grd : Guard) (src : Src)
  /-- FNEG: Flips bit 31 of T. (R135) -/
  | fneg (grd : Guard) (src : Src)
  /-- FSQRT: FP32 square root on the shared part. (R134) -/
  | fsqrt (grd : Guard) (src : Src) (r : FRound)
  /-- FRCP: FP32 reciprocal. (R134) -/
  | frcp (grd : Guard) (src : Src) (r : FRound)
  /-- FDIV: FP32 divide. (R134) -/
  | fdiv (grd : Guard) (src : Src) (r : FRound)
  /-- FCMP: FP32 compare into a predicate. (R136) -/
  | fcmp (grd : Guard) (src : Src) (c : FCond) (p : BitVec 3)
  /-- FCVT: Converts a scalar between formats. (R137) -/
  | fcvt (grd : Guard) (src : Src) (s d : Fmt) (nan : Bool)
  /-- LD: Loads 1 to 16 bytes from a space. (R195) -/
  | ld (grd : Guard) (src : Src) (z : Size) (sp : Space) (sx : Bool)
  /-- ST: Stores bytes, deferred unless to the scratch window. (R195) -/
  | st (grd : Guard) (src : Src) (z : Size) (sp : Space)
  /-- LDA: Load that acquires at its scope. (R195) -/
  | lda (grd : Guard) (src : Src) (z : Size) (sp : Space) (sc : Scope)
  /-- STL: Store that releases at its scope. (R195) -/
  | stl (grd : Guard) (src : Src) (z : Size) (sp : Space) (sc : Scope)
  /-- CAS: Compare-and-swap, on the view or at the home. (R196) -/
  | cas (grd : Guard) (src : Src) (z : Size) (sp : Space)
  /-- SWP: Atomic swap. (R196) -/
  | swp (grd : Guard) (src : Src) (z : Size) (sp : Space)
  /-- AMO: Atomic read-modify-write with the selected operation. (R196) -/
  | amo (grd : Guard) (src : Src) (op : AmoOp) (z : Size) (sp : Space)
  /-- ARED: Posted reduction to a global reduction window. (R199) -/
  | ared (grd : Guard) (src : Src) (op : AmoOp) (z : Size)
  /-- RBR: Split-phase block read into local memory with a completion message. (R200) -/
  | rbr (grd : Guard) (src : Src) (sp : Space) (c : BitVec 4)
  /-- FENCE: Orders the thread's accesses by kind set and scope. (R211) -/
  | fence (grd : Guard) (src : Src) (kinds : BitVec 4) (sc : Scope)
  /-- B: Branch by a halfword offset in T. (R138) -/
  | br (grd : Guard) (src : Src)
  /-- BI: Indirect branch to the address in T. (R138) -/
  | bi (grd : Guard) (src : Src)
  /-- CALL: Call by offset, writing g31. (R138) -/
  | call (grd : Guard) (src : Src)
  /-- RET: Return to the address in T. (R138) -/
  | ret (grd : Guard) (src : Src)
  /-- LOOP: Sets up a hardware loop counter. (R139) -/
  | loop (grd : Guard) (src : Src) (n : BitVec 1)
  /-- LBRK: Leaves a hardware loop. (R141) -/
  | lbrk (grd : Guard) (src : Src) (n : BitVec 1)
  /-- CHNEW: Creates a channel with a receive end and a send end. (R244) -/
  | chnew (grd : Guard) (src : Src) (hr hs : BitVec 3)
  /-- SND: Sends a message on a send end or stage send end at print. (R245) -/
  | snd (grd : Guard) (src : Src) (n : BitVec 3) (c : BitVec 4)
  /-- SNDH: Sends a message carrying an end in its handle lane. (R245) -/
  | sndh (grd : Guard) (src : Src) (n : BitVec 3) (c : BitVec 4)
  /-- RTRY: Polls and consumes the head of a receive end. (R247) -/
  | rtry (grd : Guard) (src : Src) (p : BitVec 3)
  /-- HMOV: Moves a handle between h registers. (R248) -/
  | hmov (grd : Guard) (src : Src) (h : BitVec 3)
  /-- HDUP: Duplicates a send end with a share of credits. (R248) -/
  | hdup (grd : Guard) (src : Src) (h : BitVec 3)
  /-- HCLR: Clears an h register. (R248) -/
  | hclr (grd : Guard) (src : Src)
  /-- CLOSE: Closes an end at print. (R250) -/
  | close (grd : Guard) (src : Src)
  /-- HKIND: Reports a handle's kind, credits and state. (R248) -/
  | hkind (grd : Guard) (src : Src)
  /-- HSAVE: Writes an h register into the handle store at print. (R249) -/
  | hsave (grd : Guard) (src : Src) (h : BitVec 3)
  /-- HLOAD: Loads a handle-store entry or the message's handle lane. (R249) -/
  | hload (grd : Guard) (src : Src) (h : BitVec 3)
  /-- GSND: Sends a message to every member of a group on the die. (R245) -/
  | gsnd (grd : Guard) (src : Src) (n : BitVec 3) (c : BitVec 4)
  /-- SLATE: Returns the triggering message's slate. (R251) -/
  | slate (grd : Guard) (src : Src)
  /-- FIN: Ends the take; it settles and prints. (R337) -/
  | fin (grd : Guard) (src : Src)
  /-- PIN: Makes the take irrevocable and performs its deferred effects. (R337) -/
  | pin (grd : Guard) (src : Src)
  /-- RETAKE: Cuts the own revocable take without report or hold. (R338) -/
  | retake (grd : Guard) (src : Src)
  /-- BRK: Stops the take with a kind-2 report. (R339) -/
  | brk (grd : Guard) (src : Src)
  /-- TRAP: Places a kind-3 service report at print. (R340) -/
  | trap (grd : Guard) (src : Src)
  /-- GCR: Reads a control register. (R95) -/
  | gcr (grd : Guard) (src : Src)
  /-- SCR: Writes a control register. (R95) -/
  | scr (grd : Guard) (src : Src)
  /-- SIG: Raises an MSI-X vector of the partition at print. (R341) -/
  | sig (grd : Guard) (src : Src)
  /-- HSET: Writes a handler-table entry at print. (R278) -/
  | hset (grd : Guard) (src : Src)
  /-- LNCH: Submits a launch descriptor at print. (R282) -/
  | lnch (grd : Guard) (src : Src)
  /-- VLD: Loads all or half of a vector register. (R148) -/
  | vld (grd : Guard) (src : Src) (sp : VSpace) (part : Part) (v : BitVec 5)
  /-- VST: Stores all or half of a vector register, deferred. (R148) -/
  | vst (grd : Guard) (src : Src) (sp : VSpace) (part : Part) (v : BitVec 5)
  /-- VBCAST: Broadcasts T into every element. (R149) -/
  | vbcast (grd : Guard) (src : Src) (t : ElTy) (v : BitVec 5)
  /-- VPERM: Permutes elements of vA by indices in vT. (R149) -/
  | vperm (grd : Guard) (src : Src) (t : ElTy) (v : BitVec 5)
  /-- VMV: Copies a vector register. (R149) -/
  | vmv (grd : Guard) (src : Src) (v : BitVec 5)
  /-- VADD: Elementwise add. (R150) -/
  | vadd (grd : Guard) (src : Src) (t : ElTy) (v : BitVec 5)
  /-- VSUB: Elementwise subtract. (R150) -/
  | vsub (grd : Guard) (src : Src) (t : ElTy) (v : BitVec 5)
  /-- VMUL: Elementwise multiply. (R150) -/
  | vmul (grd : Guard) (src : Src) (t : ElTy) (v : BitVec 5)
  /-- VFMA: Elementwise fused multiply-add. (R150) -/
  | vfma (grd : Guard) (src : Src) (t : ElTy) (v : BitVec 5)
  /-- VMAX: Elementwise maximum. (R150) -/
  | vmax (grd : Guard) (src : Src) (t : ElTy) (v : BitVec 5)
  /-- VMIN: Elementwise minimum. (R150) -/
  | vmin (grd : Guard) (src : Src) (t : ElTy) (v : BitVec 5)
  /-- VABS: Elementwise absolute value. (R150) -/
  | vabs (grd : Guard) (src : Src) (t : ElTy) (v : BitVec 5)
  /-- VNEG: Elementwise negation. (R150) -/
  | vneg (grd : Guard) (src : Src) (t : ElTy) (v : BitVec 5)
  /-- VEXP2: Elementwise 2^x. (R152) -/
  | vexp2 (grd : Guard) (src : Src) (t : ElTy) (v : BitVec 5)
  /-- VLOG2: Elementwise log2. (R152) -/
  | vlog2 (grd : Guard) (src : Src) (t : ElTy) (v : BitVec 5)
  /-- VRCP: Elementwise reciprocal. (R152) -/
  | vrcp (grd : Guard) (src : Src) (t : ElTy) (v : BitVec 5)
  /-- VRSQ: Elementwise reciprocal square root. (R152) -/
  | vrsq (grd : Guard) (src : Src) (t : ElTy) (v : BitVec 5)
  /-- VAND: Bitwise and of two vectors. (R149) -/
  | vand (grd : Guard) (src : Src) (v : BitVec 5)
  /-- VOR: Bitwise or of two vectors. (R149) -/
  | vor (grd : Guard) (src : Src) (v : BitVec 5)
  /-- VXOR: Bitwise xor of two vectors. (R149) -/
  | vxor (grd : Guard) (src : Src) (v : BitVec 5)
  /-- VSEL: Selects elements of vA or vB by a mask. (R149) -/
  | vsel (grd : Guard) (src : Src) (t : ElTy) (v : BitVec 5)
  /-- VCMP: Elementwise compare into a mask. (R151) -/
  | vcmp (grd : Guard) (src : Src) (c : VCond) (t : ElTy) (v : BitVec 5)
  /-- VAMAX: Accumulates, clears or reads an amax register. (R155) -/
  | vamax (grd : Guard) (src : Src) (k : AmaxKind)
  /-- VREDADD: Fixed-tree sum of a vector's elements. (R156) -/
  | vredadd (grd : Guard) (src : Src) (t : ElTy)
  /-- VREDMAX: Fixed-tree maximum of a vector's elements. (R156) -/
  | vredmax (grd : Guard) (src : Src) (t : ElTy)
  /-- VSCAN: Inclusive prefix sum from a carry. (R157) -/
  | vscan (grd : Guard) (src : Src) (t : ElTy) (v : BitVec 5)
  /-- VMERGE: One step of the slice-ordered merge. (R158) -/
  | vmerge (grd : Guard) (src : Src) (t : ElTy) (v : BitVec 5)
  /-- VRECV: Fills a vector from messages at a receive end. (R159) -/
  | vrecv (grd : Guard) (src : Src) (t : ElTy) (v : BitVec 5)
  /-- VSND: Sends payload words of a vector as messages at print. (R161) -/
  | vsnd (grd : Guard) (src : Src) (c : BitVec 4)
  /-- VCVT: Converts vector elements between formats, with quantisation. (R153) -/
  | vcvt (grd : Guard) (src : Src) (blk : BitVec 2) (k : BitVec 4) (amx sr nan : Bool) (vd : BitVec 4)
  /-- TLD: Loads a tile span from memory. (R169) -/
  | tld (grd : Guard) (src : Src) (sp : VSpace) (t : BitVec 3)
  /-- TST: Stores a tile span, deferred. (R169) -/
  | tst (grd : Guard) (src : Src) (sp : VSpace) (t : BitVec 3)
  /-- TCST: Converts a tile and stores it transposed. (R170) -/
  | tcst (grd : Guard) (src : Src) (sp : VSpace) (amx sr nan : Bool) (t : BitVec 3)
  /-- TZERO: Zeroes a tile. (R171) -/
  | tzero (grd : Guard) (src : Src) (t : BitVec 3)
  /-- TMV: Copies a tile. (R171) -/
  | tmv (grd : Guard) (src : Src) (t : BitVec 3)
  /-- MMA: Adds a tile product into an accumulator. (R172) -/
  | mma (grd : Guard) (src : Src) (ta tb : Bool) (t : BitVec 3) (a : BitVec 2)
  /-- MMSK: Tile product with A sparse along K by a skip list. (R173) -/
  | mmsk (grd : Guard) (src : Src) (sk : BitVec 2) (t : BitVec 3) (a : BitVec 2)
  /-- GMMA: One share of a grove-wide product with broadcast B. (R174) -/
  | gmma (grd : Guard) (src : Src) (ta tb : Bool) (t : BitVec 3) (a : BitVec 2)
  /-- TACC_TILE: Scales and rounds accumulator elements into a tile span. (R176) -/
  | taccTile (grd : Guard) (src : Src) (amx sr : Bool) (t : BitVec 3) (a : BitVec 2)
  /-- TACC_VECTOR: Scales an accumulator row into a vector. (R176) -/
  | taccVector (grd : Guard) (src : Src) (v : BitVec 5) (a : BitVec 2)
  /-- ACLR: Clears an accumulator. (R171) -/
  | aclr (grd : Guard) (src : Src) (a : BitVec 2)
  /-- SKSET: Sets a skip-list register. (R171) -/
  | skset (grd : Guard) (src : Src) (k : BitVec 2)
  /-- CPUSH: Reserves a copy FIFO entry, waiting if none is free; kick at print. (R217) -/
  | cpush (grd : Guard) (src : Src)
  /-- CPUSHN: Reserves a copy FIFO entry or returns busy. (R217) -/
  | cpushn (grd : Guard) (src : Src)
  /-- CPOLL: Returns the copy FIFO state. (R219) -/
  | cpoll (grd : Guard) (src : Src)
  /-- BINIT: Claims, resets or frees a barrier word at print. (R304) -/
  | binit (grd : Guard) (src : Src)
  /-- BARR: Counts an arrival and delivered bytes at a barrier word. (R305) -/
  | barr (grd : Guard) (src : Src)
  /-- BWAIT: Waits for a barrier word's phase parity. (R307) -/
  | bwait (grd : Guard) (src : Src) (ph : BitVec 1)
  /-- BEXP: Adds expected bytes to a barrier word. (R306) -/
  | bexp (grd : Guard) (src : Src)
  /-- HWBAR: Fences and raises the cell's flag on a wired barrier set. (R311) -/
  | hwbar (grd : Guard) (src : Src)
  /-- GSET: Arms a gate with a count and a held message at print. (R316) -/
  | gset (grd : Guard) (src : Src)
  /-- GDEC: Decrements a gate at print. (R317) -/
  | gdec (grd : Guard) (src : Src)
  /-- RINIT: Initialises a reel header, deferred. (R266) -/
  | rinit (grd : Guard) (src : Src)
  /-- RAWAIT: Waits until a reel slot is filled and returns its address. (R267) -/
  | rawait (grd : Guard) (src : Src)
  /-- RREL: Releases a reel slot at print. (R268) -/
  | rrel (grd : Guard) (src : Src)
  /-- RPEEK: Returns a reel's read and write indices. (R269) -/
  | rpeek (grd : Guard) (src : Src)
  /-- MON: Arms a watch entry on a granule. (R272) -/
  | mon (grd : Guard) (src : Src)
  /-- MWAIT: Waits for the thread's armed watch entries. (R273) -/
  | mwait (grd : Guard) (src : Src)
  /-- DISPATCH: A dispatchable message becomes a take on a free permitted thread. (R13) -/
  | dispatch (cell : Nat)
  /-- SWEEP_BLOCK: The sweep re-keys one block. (R378) -/
  | sweepBlock (range : Nat)
  /-- ACKNOWLEDGEMENT: The home's acknowledgement of a posted write, atomic or ared reaches the issuer, releasing held system-scope releases, fences and same-line writes, firing watch entries on peer or host granules and retiring completion items. (R209) -/
  | acknowledgement (id : Nat)
  /-- HOST_FLUSH_READ_COMPLETE: The zero-length read issued to the host after a killed context's last posted write completes, letting die 0 report kill done. (R344) -/
  | hostFlushReadComplete (ctx : Nat)
  /-- ENGINE_FILE_ACQUIRE: A waiting take acquires the cell's engine files, zeroing them on a context change. (R77) -/
  | engineFileAcquire (cell : Nat)
  /-- UNIT_OP_COMPLETE: A unit operation completes and writes its result latch. (R42) -/
  | unitOpComplete (cell th : Nat) (u : BitVec 4)
  /-- VX_OP_START: The vector engine starts the next queued operation and makes its checks. (R144) -/
  | vxOpStart (cell : Nat)
  /-- VX_OP_COMPLETE: A vector operation writes its destinations, amax and result in one step. (R144) -/
  | vxOpComplete (cell : Nat)
  /-- MX_OP_START: The matrix engine starts the next queued operation and makes its checks. (R164) -/
  | mxOpStart (cell : Nat)
  /-- MX_OP_COMPLETE: A matrix operation writes its destinations in one step. (R164) -/
  | mxOpComplete (cell : Nat)
  /-- GMMA_JOIN_COMPLETE: The grove join completes after the 16th entrant and B's read starts. (R175) -/
  | gmmaJoinComplete (grove ctx : Nat)
  /-- PRINT: The take performs its deferred effects in program order, sends last. (R20) -/
  | print (cell th : Nat)
  /-- REMOTE_REQUEST_ARRIVAL: A remote request or posted write reaches its home, is checked and applied. (R190) -/
  | remoteRequestArrival (what : Arrival)
  /-- REMOTE_ANSWER: Data, grant or failure of a remote request arrives and orc decreases. (R190) -/
  | remoteAnswer (id : Nat)
  /-- BUDGET: The take's budget reaches zero and it faults BUDGET. (R320) -/
  | budget (cell th : Nat)
  /-- TLB_WALK_COMPLETE: A page walk ends, installing or failing the translation. (R187) -/
  | tlbWalkComplete (grove ctx : Nat) (va : Word)
  /-- DATA: The channel home accepts a DATA packet in seq order and emits notes. (R256) -/
  | dataPkt (id : Nat)
  /-- NOTE: A note reaches the holder, stub or inbound record. (R257) -/
  | notePkt (id : Nat)
  /-- FWD: A stub forwards a note or return to its successor. (R257) -/
  | fwdPkt (id : Nat)
  /-- FREE: The home frees a slot and sends a credit return. (R256) -/
  | freePkt (id : Nat)
  /-- RETURN: A cut take's note returns to the head at the successor. (R257) -/
  | returnPkt (id : Nat)
  /-- CREDIT: A send end takes the consumed count, letting waiting prints proceed. (R241) -/
  | creditPkt (id : Nat)
  /-- REG: The home registers a new send end and answers with credit. (R256) -/
  | regPkt (id : Nat)
  /-- MOVED: The home records a moved send end's new cell. (R258) -/
  | movedPkt (id : Nat)
  /-- PULL: The previous holder ships its notes and becomes a stub. (R257) -/
  | pullPkt (id : Nat)
  /-- SHIP: The new holder becomes active with the shipped notes. (R257) -/
  | shipPkt (id : Nat)
  /-- MOVE: The home applies a receive-end move in gen order. (R259) -/
  | movePkt (id : Nat)
  /-- END: A stub learns its range end and frees itself when done. (R260) -/
  | endPkt (id : Nat)
  /-- CLOSER: The home discards a closed receive end's queue and sends closures. (R250) -/
  | closerPkt (id : Nat)
  /-- COPY_START: The copy engine takes the oldest kicked entry and validates it. (R226) -/
  | copyStart (cell : Nat)
  /-- COPY_CLAIM: The engine claims reel slots once they are free. (R227) -/
  | copyClaim (cell : Nat)
  /-- COPY_PUBLISH: A request's record is written, the reel published and the entry freed. (R228) -/
  | copyPublish (cell : Nat)
  /-- LANDING_PACKET: A landing packet is placed in its ring as a class-18 message. (R271) -/
  | landingPacket (cell : Nat)
  /-- LAUNCH_PLACEMENT: The launch unit places a launch on a die in five steps. (R283) -/
  | launchPlacement (die ctx : Nat)
  /-- COMPLETION_UP: A counter rising from zero reports UP. (R322) -/
  | completionUp (launch grove : Nat)
  /-- COMPLETION_DOWN: A counter falling to zero reports DOWN, completing the launch at the top. (R322) -/
  | completionDown (launch grove : Nat)
  /-- COMPLETION_CONFIRM: Confirmation of an UP report releases held acknowledgements. (R322) -/
  | completionConfirm (launch grove : Nat)
  /-- BALANCER_SAMPLE: Every 64 cycles each valid stage's fill is accumulated. (R290) -/
  | balancerSample (die : Nat)
  /-- BALANCING_INTERVAL: At an interval boundary the balancer decides one move. (R290) -/
  | balancingInterval (die : Nat)
  /-- CELL_RETARGET: A moved cell writes idstage and places a class-19 message. (R291) -/
  | cellRetarget (cell ctx : Nat)
  /-- BWAIT_TIMEOUT: A bwait's timeout passes. (R307) -/
  | bwaitTimeout (cell th : Nat)
  /-- WIRED_COMPLETION_DELIVERY: The completion reaches participants and hwbar returns. (R312) -/
  | wiredCompletionDelivery (die set : Nat)
  /-- HWBAR_TIMEOUT: An hwbar timeout lowers the flag and faults TIMEOUT. (R311) -/
  | hwbarTimeout (cell th : Nat)
  /-- MWAIT_TIMEOUT: An mwait timeout passes. (R273) -/
  | mwaitTimeout (cell th : Nat)
  /-- VRECV_TIMEOUT: A vrecv timeout passes. (R159) -/
  | vrecvTimeout (cell : Nat)
  /-- PROXY_ATOMIC: A host atomic reaches the proxy cell's lane. (R198) -/
  | proxyAtomic (id : Nat)
  /-- HOST_ATOMIC_COMPLETION: The host completes an AtomicOp or it times out. (R364) -/
  | hostAtomicCompletion (die lane : Nat) (timedOut : Bool)
  /-- REQUEST_LOST: A peer request no plane delivers is refused after 2^22 cycles. (R359) -/
  | requestLost (id : Nat)
  /-- PACKET_LIFETIME_EXPIRY: A held packet whose lifetime ran out is discarded. (R344) -/
  | packetLifetimeExpiry (id : Nat)
  /-- RDMA_ACK: The responder's acknowledgement of a network copy arrives. (R363) -/
  | rdmaAck (cell : Nat)
  /-- SQ_DOORBELL: A doorbell write to sqtail is accepted or ignored. (R353) -/
  | sqDoorbell (f : Nat) (t : BitVec 32)
  /-- HOST_DESCRIPTOR_READ: A submission's descriptor arrives from host memory and is submitted. (R353) -/
  | hostDescriptorRead (f : Nat)
  /-- CQ_HEAD_WRITE: The host consumes records, letting waiting records be written. (R354) -/
  | cqHeadWrite (f : Nat) (v : BitVec 32)
  /-- PARTITION_RESET: Writing rst resets the partition and kills its contexts. (R356) -/
  | partitionReset (f : Nat)
  /-- FUNCTION_LEVEL_RESET: A PCIe function-level reset starts a partition reset. (R356) -/
  | functionLevelReset (f : Nat)
  /-- MSIX_UNMASK: Unmasking a vector sends its pending message once. (R355) -/
  | msixUnmask (f : Nat) (w : MsixWrite)
  /-- PREEMPT_REQUEST: Writing pre stops dispatch of the context on the die. (R342) -/
  | preemptRequest (die ctx : Nat) (pre : Bool)
  /-- KILL_FLOOD: Writing kill starts the flood across the dies. (R343) -/
  | killFlood (die ctx : Nat)
  /-- KILL_AT_CELL: A cell receiving the kill resets the context's state. (R345) -/
  | killAtCell (cell ctx : Nat)
  /-- ROUTER_SWEEP_END: A router's 4,096-cycle discard sweep ends. (R343) -/
  | routerSweepEnd (die ctx : Nat)
  /-- KILL_DONE_REPORT: Done reports climb the tree and confirm the purge. (R343) -/
  | killDoneReport (cell ctx : Nat)
  /-- REPORT_RING_RIDX_WRITE: Nivar's ridx write frees ring room for waiting reports. (R334) -/
  | reportRingRidxWrite (die ctx : Nat) (v : BitVec 32)
  /-- RELEASE_REGISTER_WRITE: A release word releases a held queue. (R335) -/
  | releaseRegisterWrite (cell : Nat) (w : Word)
  /-- STAGE_HOLD_WRITE: Nivar clears a stage's hold bit. (R288) -/
  | stageHoldWrite (die stage : Nat)
  /-- GROUP_TABLE_WRITE: A group entry is written or refused whole. (R292) -/
  | groupTableWrite (die idx : Nat) (entry : BitVec 384)
  /-- WIRED_SET_WRITE: A management write to a wired set, waiting while busy. (R310) -/
  | wiredSetWrite (die set : Nat) (w : Word)
  /-- GATE_WRITE: A management gate write that may discard a held message. (R315) -/
  | gateWrite (grove gate : Nat) (w : Word)
  /-- REDUCTION_WINDOW_WRITE: A window change waits for earlier packets' acknowledgements. (R199) -/
  | reductionWindowWrite (n : Nat) (w : Word)
  /-- PINNED_REGION_WRITE: A pinned-region change waits for requests using it. (R294) -/
  | pinnedRegionWrite (grove idx : Nat) (entry : BitVec 128)
  /-- INVALIDATION: A translation invalidation waits for granted takes and effects. (R189) -/
  | invalidation (ctx : Nat) (va : Word) (level : BitVec 2)
  /-- PERF_SELECTOR_WRITE: Writing a selector clears its count. (R323) -/
  | perfSelectorWrite (cell n : Nat) (w : Word)
  /-- BALANCER_CONTROL_WRITE: Writes the balancer control, ignoring ilog outside 12 to 24. (R289) -/
  | balancerControlWrite (die : Nat) (w : Word)
  /-- MANAGEMENT_REGISTER_WRITE: A write to a table or register that has no row of its own. (R276) -/
  | managementRegisterWrite (by_ : Writer) (off : Nat) (w : Word)
  /-- CREATE: Creates a context's security word. (R368) -/
  | createCmd
  /-- GRANT: Writes one endpoint grant entry. (R293) -/
  | grantCmd
  /-- SESSION: Opens a key session with the tenant's key service. (R375) -/
  | sessionCmd
  /-- KEY_SERVICE_REPLY: The key service's keys or refusal arrive. (R375) -/
  | keyServiceReply (accept : Bool) (volumes : List (BitVec 6 × BitVec 512))  (tenantKey : BitVec 256)
  /-- SESSION_TIMEOUT: The key service is not reached within 2^36 cycles. (R375) -/
  | sessionTimeout
  /-- RANGE: Writes or clears a sealed range. (R370) -/
  | rangeCmd
  /-- SWEEP: Starts a re-encryption sweep. (R378) -/
  | sweepCmd
  /-- READ: Returns a measurement register or slot status. (R367) -/
  | readCmd
  /-- ERASE: Zeroes a key slot. (R376) -/
  | eraseCmd
  /-- SLEEP: Seals state and enters deep sleep. (R381) -/
  | sleepCmd
  /-- EXTEND: Extends a measurement register 8 to 15. (R377) -/
  | extendCmd
  /-- MAILBOX_INVALID_COMMAND: An unlisted code or reserved argument bit returns status 0xFFFF. (R367) -/
  | mailboxInvalidCommand
  /-- WAKE: On wake, the key store is unwrapped and sessions reopened. (R382) -/
  | wake (accepted : List (BitVec 32))
  /-- COLD_BOOT: Cold boot runs the boot steps in order. (R384) -/
  | coldBoot (first second nivar : Option (BitVec 256)) (config nivarConfig : BitVec 256)
  /-- DIE_TEST_COMPLETE: A die test ends, setting die or xdie. (R389) -/
  | dieTestComplete (die : Nat) (ok : Bool) (digest : BitVec 256)
  /-- HBM_TRAINING_COMPLETE: HBM training ends, setting hbm or xhbm. (R389) -/
  | hbmTrainingComplete (die : Nat) (ok : Bool)
  /-- FOUR_BIT_TEST_COMPLETE: The 4-bit path test ends, setting f4 or xf4. (R389) -/
  | fourBitTestComplete (die : Nat) (ok : Bool)
  /-- CLOCK_THROTTLE: Near a limit, a die lowers its clock one step and sets thr. (R390) -/
  | clockThrottle (die : Nat)
  /-- CLOCK_RESTORE: When the condition passes, a die raises its clock. (R390) -/
  | clockRestore (die : Nat)
  /-- ILLEGAL_WORD: A thread presents for issue a word pattern that is no instruction (pair bits [3:2] nonzero, trigger bit 2 set, unassigned opcode, nonzero ldi bits [31:29], control op 10 or 11) and faults ILLEGAL. (R75) -/
  | illegalWord
  /-- PLANE_LOSS: A Shuzifel plane fails and the packets in flight on it are resent on another plane. (R359) -/
  | planeLoss (plane : Nat)
  /-- HOST_COMPLETION_TIMEOUT: A read on the host port, such as a launch descriptor read or a host load, reaches its completion timeout and fails. (R354) -/
  | hostCompletionTimeout (what : HostRead)
  /-- QUEUE_PAIR_ERROR: A queue pair goes into error or exhausts its retry budget, and the network copy posts error 7 with the bytes written so far. (R363) -/
  | queuePairError (cell : Nat)
  /-- UNSUPPORTED_RDMA_ARRIVAL: A SEND, immediate-data or atomic RDMA operation arriving at an Ethernet port is answered with the standard's remote-operation error. (R362) -/
  | unsupportedRdmaArrival (port : Nat)
  /-- BRINGUP_CLOCK_RAISE: Bring-up first raises a die from the 1.5 GHz of reduced service to 3.0 GHz, setting fclk and lifting that rule of reduced service. (R387) -/
  | bringupClockRaise (die : Nat)
  deriving DecidableEq, Repr

end Sys2Proof
end

