-- ==== Sys2Proof/WellFormed.lean ====
section
/-! DEFINITION. Which instruction terms the encoding admits: the reserved values and forbidden combinations of 03_encoding
(R45, R46, R53, R63–R70, R137), as one decidable check. An event carries no encoding and is always well formed. -/

namespace Sys2Proof

/-- `?p0` has no encoding: guard 0b0000 means "always" (R60, Table 3.12). -/
def Guard.wf : Guard → Bool
  | .ifSet p => p != 0#3
  | _ => true

/-- Equal destinations fault ILLEGAL, except two g0 or two p0 (R45, R50). -/
def Dst.pairOk (d1 d2 : Dst) : Bool :=
  d1 != d2 || d1 == .g 0#5 || d1 == .p 0#3

/-- The codes `fcvt` accepts, 1–13 and 20 (R66, R137). -/
def Fmt.scalar : Fmt → Bool
  | .byte | .lbf4 | .mx8e4 | .mx8e5 | .mx6e2 | .mx6e3 | .mx4 => false
  | _ => true

/-- Formats that hold a NaN, the only destinations of `.nan` (R111, R137). -/
def Fmt.hasNan : Fmt → Bool
  | .f32 | .bf16 | .f16 | .e4m3 | .e5m2 => true
  | _ => false

/-- Spaces that Table 3.16 allows for every access but a store, an `amo` or an `rbr`. -/
def Space.notRem (sp : Space) : Bool := sp != .rem

/-- Sizes of `cas` and `swp` (layout atom). -/
def Size.atom : Size → Bool
  | .w | .d | .q => true
  | _ => false

/-- Sizes that an `amo` operation allows (layout amo). -/
def AmoOp.sizeOk : AmoOp → Size → Bool
  | .fadd, z => z == .w || z == .h
  | _, z => z == .w || z == .d

/-- Spaces of `rbr` (Table 3.16). -/
def Space.rbrOk : Space → Bool
  | .rem | .grv | .glb => true
  | _ => false

/-- FP32 or BF16, the types of `vexp2`, `vlog2`, `vrcp` and `vrsq` (R69). -/
def ElTy.transOk (t : ElTy) : Bool := t == .f32 || t == .bf16

/-- FP32 or INT32, the types of `vmerge` (R69). -/
def ElTy.mergeOk (t : ElTy) : Bool := t == .f32 || t == .i32

/-- Table 3.19: the list F of `vcvt`. -/
def vcvtF (k : BitVec 4) : Fmt :=
  match k.toNat with
  | 0 => .f32 | 1 => .bf16 | 2 => .f16 | 3 => .e4m3 | 4 => .e5m2 | 5 => .e2m3 | 6 => .e3m2 | 7 => .e2m1
  | 8 => .lbf4 | 9 => .mx8e4 | 10 => .mx8e5 | 11 => .mx6e2 | 12 => .mx6e3 | 13 => .mx4 | 14 => .i8 | _ => .i32

/-- The source format of a `vcvt` (R70). -/
def vcvtSrc (blk : BitVec 2) (k : BitVec 4) : Fmt :=
  match blk.toNat with
  | 0 => .f32 | 1 => .bf16 | 2 => .f16 | _ => vcvtF k

/-- The destination format of a `vcvt` (R70). -/
def vcvtDst (blk : BitVec 2) (k : BitVec 4) : Fmt :=
  if blk = 3#2 then .f32 else vcvtF k

/-- A `vcvt` of block 1 or 2 to FP32 or INT32, and block 3, fill two registers (Table 7.7). -/
def vcvtTwo (blk : BitVec 2) (k : BitVec 4) : Bool :=
  blk = 3#2 || (blk != 0#2 && (k = 0#4 || k = 15#4))

/-- Which `vcvt` fields are instructions (R70, R153). -/
def vcvtOk (blk : BitVec 2) (k : BitVec 4) (sr nan : Bool) (vd : BitVec 4) : Bool :=
  let ident := blk != 3#2 && k.toNat == blk.toNat
  let held := blk = 3#2 && k.toNat < 3
  let toF32 := vcvtDst blk k == .f32 && (sr || nan)
  let toInt := (vcvtDst blk k == .i8 || vcvtDst blk k == .i32) && sr
  let noNan := nan && (match vcvtDst blk k with | .e2m3 | .e3m2 | .e2m1 | .i8 | .i32 => true | _ => false)
  !(ident || held || toF32 || toInt || noNan || (vcvtTwo blk k && vd = 15#4))

/-- Layout vamx: INT32 is no type of `vamax` (Table 3.13). -/
def AmaxKind.wf : AmaxKind → Bool
  | .acc t => t != .i32
  | _ => true

/-- The conditions on the fields beyond the guard. -/
def Instr.fieldsOk : Instr → Bool
  | .pairWord _ d1 _ d2 => Dst.pairOk d1 d2
  | .fcvt _ _ s d nan => s.scalar && d.scalar && s != d && (!nan || d.hasNan)
  | .ld _ _ z sp sx => sp.notRem && !(sx && z == .q)
  | .lda _ _ _ sp _ => sp.notRem
  | .cas _ _ z sp => z.atom && sp.notRem
  | .swp _ _ z sp => z.atom && sp.notRem
  | .amo _ _ op z _ => op.sizeOk z
  | .ared _ _ op z => op.sizeOk z
  | .rbr _ _ sp _ => sp.rbrOk
  | .fence _ _ kinds _ => kinds != 0#4
  | .chnew _ _ hr hs => hr != hs
  | .vexp2 _ _ t _ => t.transOk
  | .vlog2 _ _ t _ => t.transOk
  | .vrcp _ _ t _ => t.transOk
  | .vrsq _ _ t _ => t.transOk
  | .vmerge _ _ t _ => t.mergeOk
  | .vamax _ _ k => k.wf
  | .vcvt _ _ blk k _ sr nan vd => vcvtOk blk k sr nan vd
  | _ => true

/-- The guard and the source of a trigger word (Table 3.4). -/
def Instr.trigger? : Instr → Option (Guard × Src)
  | .add _ g s => some (g, s)
  | .addw _ g s => some (g, s)
  | .sub _ g s => some (g, s)
  | .subw _ g s => some (g, s)
  | .andi _ g s => some (g, s)
  | .ori _ g s => some (g, s)
  | .xori _ g s => some (g, s)
  | .andn _ g s => some (g, s)
  | .orn _ g s => some (g, s)
  | .min _ g s => some (g, s)
  | .max _ g s => some (g, s)
  | .minu _ g s => some (g, s)
  | .maxu _ g s => some (g, s)
  | .abs _ g s => some (g, s)
  | .pass _ g s => some (g, s)
  | .mul g s => some (g, s)
  | .mulh g s => some (g, s)
  | .mulhu g s => some (g, s)
  | .mulw g s => some (g, s)
  | .div g s => some (g, s)
  | .divu g s => some (g, s)
  | .rem g s => some (g, s)
  | .remu g s => some (g, s)
  | .shl g s => some (g, s)
  | .shr g s => some (g, s)
  | .sha g s => some (g, s)
  | .rol g s => some (g, s)
  | .clz g s => some (g, s)
  | .ctz g s => some (g, s)
  | .pop g s => some (g, s)
  | .ext g s => some (g, s)
  | .ins g s => some (g, s)
  | .rev g s => some (g, s)
  | .ceq g s _ => some (g, s)
  | .cne g s _ => some (g, s)
  | .clt g s _ => some (g, s)
  | .cltu g s _ => some (g, s)
  | .cge g s _ => some (g, s)
  | .cgeu g s _ => some (g, s)
  | .ctst g s _ => some (g, s)
  | .pand g s _ => some (g, s)
  | .por g s _ => some (g, s)
  | .pnot g s _ => some (g, s)
  | .aadd g s => some (g, s)
  | .asub g s => some (g, s)
  | .atag g s => some (g, s)
  | .aget g s => some (g, s)
  | .aidx g s => some (g, s)
  | .adiff g s => some (g, s)
  | .fadd g s _ => some (g, s)
  | .fsub g s _ => some (g, s)
  | .fmul g s _ => some (g, s)
  | .fma g s _ => some (g, s)
  | .fmin g s => some (g, s)
  | .fmax g s => some (g, s)
  | .fabs g s => some (g, s)
  | .fneg g s => some (g, s)
  | .fsqrt g s _ => some (g, s)
  | .frcp g s _ => some (g, s)
  | .fdiv g s _ => some (g, s)
  | .fcmp g s _ _ => some (g, s)
  | .fcvt g s _ _ _ => some (g, s)
  | .ld g s _ _ _ => some (g, s)
  | .st g s _ _ => some (g, s)
  | .lda g s _ _ _ => some (g, s)
  | .stl g s _ _ _ => some (g, s)
  | .cas g s _ _ => some (g, s)
  | .swp g s _ _ => some (g, s)
  | .amo g s _ _ _ => some (g, s)
  | .ared g s _ _ => some (g, s)
  | .rbr g s _ _ => some (g, s)
  | .fence g s _ _ => some (g, s)
  | .br g s => some (g, s)
  | .bi g s => some (g, s)
  | .call g s => some (g, s)
  | .ret g s => some (g, s)
  | .loop g s _ => some (g, s)
  | .lbrk g s _ => some (g, s)
  | .chnew g s _ _ => some (g, s)
  | .snd g s _ _ => some (g, s)
  | .sndh g s _ _ => some (g, s)
  | .rtry g s _ => some (g, s)
  | .hmov g s _ => some (g, s)
  | .hdup g s _ => some (g, s)
  | .hclr g s => some (g, s)
  | .close g s => some (g, s)
  | .hkind g s => some (g, s)
  | .hsave g s _ => some (g, s)
  | .hload g s _ => some (g, s)
  | .gsnd g s _ _ => some (g, s)
  | .slate g s => some (g, s)
  | .fin g s => some (g, s)
  | .pin g s => some (g, s)
  | .retake g s => some (g, s)
  | .brk g s => some (g, s)
  | .trap g s => some (g, s)
  | .gcr g s => some (g, s)
  | .scr g s => some (g, s)
  | .sig g s => some (g, s)
  | .hset g s => some (g, s)
  | .lnch g s => some (g, s)
  | .vld g s _ _ _ => some (g, s)
  | .vst g s _ _ _ => some (g, s)
  | .vbcast g s _ _ => some (g, s)
  | .vperm g s _ _ => some (g, s)
  | .vmv g s _ => some (g, s)
  | .vadd g s _ _ => some (g, s)
  | .vsub g s _ _ => some (g, s)
  | .vmul g s _ _ => some (g, s)
  | .vfma g s _ _ => some (g, s)
  | .vmax g s _ _ => some (g, s)
  | .vmin g s _ _ => some (g, s)
  | .vabs g s _ _ => some (g, s)
  | .vneg g s _ _ => some (g, s)
  | .vexp2 g s _ _ => some (g, s)
  | .vlog2 g s _ _ => some (g, s)
  | .vrcp g s _ _ => some (g, s)
  | .vrsq g s _ _ => some (g, s)
  | .vand g s _ => some (g, s)
  | .vor g s _ => some (g, s)
  | .vxor g s _ => some (g, s)
  | .vsel g s _ _ => some (g, s)
  | .vcmp g s _ _ _ => some (g, s)
  | .vamax g s _ => some (g, s)
  | .vredadd g s _ => some (g, s)
  | .vredmax g s _ => some (g, s)
  | .vscan g s _ _ => some (g, s)
  | .vmerge g s _ _ => some (g, s)
  | .vrecv g s _ _ => some (g, s)
  | .vsnd g s _ => some (g, s)
  | .vcvt g s _ _ _ _ _ _ => some (g, s)
  | .tld g s _ _ => some (g, s)
  | .tst g s _ _ => some (g, s)
  | .tcst g s _ _ _ _ _ => some (g, s)
  | .tzero g s _ => some (g, s)
  | .tmv g s _ => some (g, s)
  | .mma g s _ _ _ _ => some (g, s)
  | .mmsk g s _ _ _ => some (g, s)
  | .gmma g s _ _ _ _ => some (g, s)
  | .taccTile g s _ _ _ _ => some (g, s)
  | .taccVector g s _ _ => some (g, s)
  | .aclr g s _ => some (g, s)
  | .skset g s _ => some (g, s)
  | .cpush g s => some (g, s)
  | .cpushn g s => some (g, s)
  | .cpoll g s => some (g, s)
  | .binit g s => some (g, s)
  | .barr g s => some (g, s)
  | .bwait g s _ => some (g, s)
  | .bexp g s => some (g, s)
  | .hwbar g s => some (g, s)
  | .gset g s => some (g, s)
  | .gdec g s => some (g, s)
  | .rinit g s => some (g, s)
  | .rawait g s => some (g, s)
  | .rrel g s => some (g, s)
  | .rpeek g s => some (g, s)
  | .mon g s => some (g, s)
  | .mwait g s => some (g, s)
  | _ => none

/-- The guard of a trigger word, and none elsewhere (R46). -/
def Instr.guard? (i : Instr) : Option Guard := i.trigger?.map (·.1)

/-- The encoding admits this instruction term (R63). -/
def Instr.wf (i : Instr) : Bool :=
  i.fieldsOk && match i.guard? with
    | some g => g.wf
    | none => true

end Sys2Proof
end

