-- ==== Sys2Proof/Decode.lean ====
section
/-! DEFINITION. The decoder, total on any halfwords, and the encoder beside it (03_encoding R51–R75). -/

namespace Sys2Proof

/-- Why a pattern is no instruction: the rows of Table 3.22. -/
inductive DecodeError
  /-- a 32-bit word whose second halfword is missing -/
  | short
  /-- a destination field 0x50–0x7F -/
  | reservedDestination
  /-- pair bits [3:2] nonzero -/
  | pairBits
  /-- trigger bit 2 set -/
  | triggerBit
  /-- an opcode the unit's table does not assign -/
  | unassignedOpcode
  /-- a modifier bit outside the layout, or a reserved field value -/
  | modifier
  /-- nonzero ldi bits [31:29] -/
  | ldiBits
  /-- control op 0b10 or 0b11, or bits [31:28] nonzero -/
  | control
  /-- a combination the row forbids (Instr.wf) -/
  | combination
  deriving DecidableEq, Repr

/-! ## Field codes -/

def Guard.toBits : Guard → BitVec 4
  | .always => 0#4
  | .ifSet p => 0#1 ++ p
  | .ifClear p => 1#1 ++ p

/-- Table 3.12: every value is defined. -/
def Guard.ofBits (b : BitVec 4) : Guard :=
  if b.extractLsb' 3 1 = 1#1 then .ifClear (b.extractLsb' 0 3)
  else if b.extractLsb' 0 3 = 0#3 then .always else .ifSet (b.extractLsb' 0 3)

def Src.toBits : Src → BitVec 7
  | .g n => 0#2 ++ n
  | .m n => 4#4 ++ n
  | .e n => 5#4 ++ n
  | .y u => 3#3 ++ u
  | .imm v => 1#1 ++ v

/-- Table 3.9: every value is a socket. -/
def Src.ofBits (b : BitVec 7) : Src :=
  if b.extractLsb' 6 1 = 1#1 then .imm (b.extractLsb' 0 6)
  else if b.extractLsb' 5 1 = 0#1 then .g (b.extractLsb' 0 5)
  else if b.extractLsb' 4 1 = 1#1 then .y (b.extractLsb' 0 4)
  else if b.extractLsb' 3 1 = 1#1 then .e (b.extractLsb' 0 3) else .m (b.extractLsb' 0 3)

def Dst.toBits : Dst → BitVec 7
  | .g n => 0#2 ++ n
  | .a u => 2#3 ++ u
  | .p n => 6#4 ++ n
  | .e n => 7#4 ++ n
  | .b u => 4#3 ++ u

/-- Table 3.10: 0x50–0x7F are reserved. -/
def Dst.ofBits? (b : BitVec 7) : Option Dst :=
  match (b.extractLsb' 4 3).toNat with
  | 0 => some (.g (b.extractLsb' 0 5))
  | 1 => some (.g (b.extractLsb' 0 5))
  | 2 => some (.a (b.extractLsb' 0 4))
  | 3 => if b.extractLsb' 3 1 = 1#1 then some (.e (b.extractLsb' 0 3)) else some (.p (b.extractLsb' 0 3))
  | 4 => some (.b (b.extractLsb' 0 4))
  | _ => none

def IUnit.toBits : IUnit → BitVec 4
  | .ia => 0#4
  | .ib => 1#4

def FRound.toBits : FRound → BitVec 2
  | .rne => 0#2 | .rtz => 1#2 | .rdn => 2#2 | .rup => 3#2

def FRound.ofBits (b : BitVec 2) : FRound :=
  match b.toNat with
  | 0 => .rne | 1 => .rtz | 2 => .rdn | _ => .rup

def FCond.toBits : FCond → BitVec 2
  | .eq => 0#2 | .lt => 1#2 | .le => 2#2 | .un => 3#2

def FCond.ofBits (b : BitVec 2) : FCond :=
  match b.toNat with
  | 0 => .eq | 1 => .lt | 2 => .le | _ => .un

/-- The code of a format (Tables 3.14, 5.2). -/
def Fmt.code : Fmt → Nat
  | .byte => 0 | .i8 => 1 | .i16 => 2 | .i32 => 3 | .i64 => 4 | .uint8 => 5 | .f32 => 6 | .bf16 => 7 | .f16 => 8
  | .e4m3 => 9 | .e5m2 => 10 | .e2m3 => 11 | .e3m2 => 12 | .e2m1 => 13 | .lbf4 => 14 | .mx8e4 => 15 | .mx8e5 => 16
  | .mx6e2 => 17 | .mx6e3 => 18 | .mx4 => 19 | .i4 => 20

def Fmt.toBits (f : Fmt) : BitVec 5 := BitVec.ofNat 5 f.code

/-- Codes 21–31 are reserved (R100). -/
def Fmt.ofNat? (n : Nat) : Option Fmt :=
  match n with
  | 0 => some .byte | 1 => some .i8 | 2 => some .i16 | 3 => some .i32 | 4 => some .i64 | 5 => some .uint8
  | 6 => some .f32 | 7 => some .bf16 | 8 => some .f16 | 9 => some .e4m3 | 10 => some .e5m2 | 11 => some .e2m3
  | 12 => some .e3m2 | 13 => some .e2m1 | 14 => some .lbf4 | 15 => some .mx8e4 | 16 => some .mx8e5
  | 17 => some .mx6e2 | 18 => some .mx6e3 | 19 => some .mx4 | 20 => some .i4 | _ => none

def Space.toBits : Space → BitVec 3
  | .scr => 0#3 | .loc => 1#3 | .rem => 2#3 | .grv => 3#3 | .glb => 4#3

def Space.ofBits? (b : BitVec 3) : Option Space :=
  match b.toNat with
  | 0 => some .scr | 1 => some .loc | 2 => some .rem | 3 => some .grv | 4 => some .glb | _ => none

def VSpace.toBits : VSpace → BitVec 2
  | .scr => 0#2 | .loc => 1#2 | .grv => 2#2 | .glb => 3#2

def VSpace.ofBits (b : BitVec 2) : VSpace :=
  match b.toNat with
  | 0 => .scr | 1 => .loc | 2 => .grv | _ => .glb

def Size.toBits : Size → BitVec 3
  | .b => 0#3 | .h => 1#3 | .w => 2#3 | .d => 3#3 | .q => 4#3

def Size.ofBits? (b : BitVec 3) : Option Size :=
  match b.toNat with
  | 0 => some .b | 1 => some .h | 2 => some .w | 3 => some .d | 4 => some .q | _ => none

def Scope.toBits : Scope → BitVec 3
  | .thr => 0#3 | .cel => 1#3 | .grv => 2#3 | .die => 3#3 | .dev => 4#3 | .sys => 5#3

def Scope.ofBits? (b : BitVec 3) : Option Scope :=
  match b.toNat with
  | 0 => some .thr | 1 => some .cel | 2 => some .grv | 3 => some .die | 4 => some .dev | 5 => some .sys | _ => none

def AmoOp.toBits : AmoOp → BitVec 4
  | .add => 0#4 | .and => 1#4 | .or => 2#4 | .xor => 3#4 | .min => 4#4 | .max => 5#4 | .minu => 6#4 | .maxu => 7#4
  | .fadd => 8#4

def AmoOp.ofBits? (b : BitVec 4) : Option AmoOp :=
  match b.toNat with
  | 0 => some .add | 1 => some .and | 2 => some .or | 3 => some .xor | 4 => some .min | 5 => some .max
  | 6 => some .minu | 7 => some .maxu | 8 => some .fadd | _ => none

def ElTy.toBits : ElTy → BitVec 2
  | .f32 => 0#2 | .bf16 => 1#2 | .f16 => 2#2 | .i32 => 3#2

def ElTy.ofBits (b : BitVec 2) : ElTy :=
  match b.toNat with
  | 0 => .f32 | 1 => .bf16 | 2 => .f16 | _ => .i32

def Part.toBits : Part → BitVec 2
  | .all => 0#2 | .lo => 1#2 | .hi => 2#2

def Part.ofBits? (b : BitVec 2) : Option Part :=
  match b.toNat with
  | 0 => some .all | 1 => some .lo | 2 => some .hi | _ => none

def VCond.toBits : VCond → BitVec 2
  | .eq => 0#2 | .ne => 1#2 | .lt => 2#2 | .le => 3#2

def VCond.ofBits (b : BitVec 2) : VCond :=
  match b.toNat with
  | 0 => .eq | 1 => .ne | 2 => .lt | _ => .le

def AmaxKind.toBits : AmaxKind → BitVec 7
  | .acc t => 0#3 ++ t.toBits ++ 0#2
  | .clr => 1#7
  | .rd => 2#7
  | .nanc => 3#7

/-- Layout vamx: bits above [3:0] are 0, and [3:2] are 0 but for variant 00. -/
def AmaxKind.ofBits? (m : BitVec 7) : Option AmaxKind :=
  if m.extractLsb' 4 3 != 0#3 then none
  else match (m.extractLsb' 0 2).toNat with
    | 0 => some (.acc (ElTy.ofBits (m.extractLsb' 2 2)))
    | k => if m.extractLsb' 2 2 != 0#2 then none
           else if k = 1 then some .clr else if k = 2 then some .rd else some .nanc

/-! ## Modifier layouts -/

abbrev DecodeResult := Except DecodeError Instr

/-- Layout none. -/
def modNone (m : BitVec 7) (i : Instr) : DecodeResult :=
  if m = 0#7 then .ok i else .error .modifier

/-- A layout that uses bits [2:0] only (pred, hreg, tile). -/
def mod3 (m : BitVec 7) (k : BitVec 3 → Instr) : DecodeResult :=
  if m.extractLsb' 3 4 = 0#4 then .ok (k (m.extractLsb' 0 3)) else .error .modifier

/-- A layout that uses bits [1:0] only (fround, acc, skr). -/
def mod2 (m : BitVec 7) (k : BitVec 2 → Instr) : DecodeResult :=
  if m.extractLsb' 2 5 = 0#5 then .ok (k (m.extractLsb' 0 2)) else .error .modifier

/-- A layout that uses bit 0 only (lc, parity). -/
def mod1 (m : BitVec 7) (k : BitVec 1 → Instr) : DecodeResult :=
  if m.extractLsb' 1 6 = 0#6 then .ok (k (m.extractLsb' 0 1)) else .error .modifier

/-- Layout class. -/
def modClass (m : BitVec 7) (k : BitVec 4 → Instr) : DecodeResult :=
  if m.extractLsb' 4 3 = 0#3 then .ok (k (m.extractLsb' 0 4)) else .error .modifier

/-- Layout vreg. -/
def modVreg (m : BitVec 7) (k : BitVec 5 → Instr) : DecodeResult :=
  if m.extractLsb' 5 2 = 0#2 then .ok (k (m.extractLsb' 0 5)) else .error .modifier

/-- Layout vtyp. -/
def modVtyp (m : BitVec 7) (k : ElTy → BitVec 5 → Instr) : DecodeResult :=
  .ok (k (ElTy.ofBits (m.extractLsb' 5 2)) (m.extractLsb' 0 5))

/-- Layout vtype: the element type alone. -/
def modVtype (m : BitVec 7) (k : ElTy → Instr) : DecodeResult :=
  if m.extractLsb' 0 5 = 0#5 then .ok (k (ElTy.ofBits (m.extractLsb' 5 2))) else .error .modifier

/-- Layout vmem. -/
def modVmem (m : BitVec 7) (k : Part → BitVec 5 → Instr) : DecodeResult :=
  match Part.ofBits? (m.extractLsb' 5 2) with
  | some p => .ok (k p (m.extractLsb' 0 5))
  | none => .error .modifier

/-- Layout send. -/
def modSend (m : BitVec 7) (k : BitVec 3 → BitVec 4 → Instr) : DecodeResult :=
  .ok (k (m.extractLsb' 4 3) (m.extractLsb' 0 4))

/-- Layouts mem (stores) and atom: the size alone. -/
def modSize (m : BitVec 7) (k : Size → Instr) : DecodeResult :=
  match Size.ofBits? (m.extractLsb' 0 3) with
  | some z => if m.extractLsb' 3 4 = 0#4 then .ok (k z) else .error .modifier
  | none => .error .modifier

/-- Layout mem of a load. -/
def modLoad (m : BitVec 7) (k : Size → Bool → Instr) : DecodeResult :=
  match Size.ofBits? (m.extractLsb' 0 3) with
  | some z => if m.extractLsb' 4 3 = 0#3 then .ok (k z (m.extractLsb' 3 1 == 1#1)) else .error .modifier
  | none => .error .modifier

/-- Layout ord. -/
def modOrd (m : BitVec 7) (k : Size → Scope → Instr) : DecodeResult :=
  match Size.ofBits? (m.extractLsb' 0 3), Scope.ofBits? (m.extractLsb' 3 3) with
  | some z, some sc => if m.extractLsb' 6 1 = 0#1 then .ok (k z sc) else .error .modifier
  | _, _ => .error .modifier

/-- Layout amo. -/
def modAmo (m : BitVec 7) (k : AmoOp → Size → Instr) : DecodeResult :=
  match AmoOp.ofBits? (m.extractLsb' 3 4), Size.ofBits? (m.extractLsb' 0 3) with
  | some op, some z => .ok (k op z)
  | _, _ => .error .modifier

/-- Layout fence. -/
def modFence (m : BitVec 7) (k : BitVec 4 → Scope → Instr) : DecodeResult :=
  match Scope.ofBits? (m.extractLsb' 0 3) with
  | some sc => .ok (k (m.extractLsb' 3 4) sc)
  | none => .error .modifier

/-! ## The opcode map -/

/-- `ia` and `ib` (Table 3.15). -/
def decodeI (u : IUnit) (g : Guard) (s : Src) (op : Nat) (m : BitVec 7) : DecodeResult :=
  match op with
  | 0 => modNone m (.add u g s) | 1 => modNone m (.addw u g s) | 2 => modNone m (.sub u g s)
  | 3 => modNone m (.subw u g s) | 4 => modNone m (.andi u g s) | 5 => modNone m (.ori u g s)
  | 6 => modNone m (.xori u g s) | 7 => modNone m (.andn u g s) | 8 => modNone m (.orn u g s)
  | 9 => modNone m (.min u g s) | 10 => modNone m (.max u g s) | 11 => modNone m (.minu u g s)
  | 12 => modNone m (.maxu u g s) | 13 => modNone m (.abs u g s) | 14 => modNone m (.pass u g s)
  | _ => .error .unassignedOpcode

/-- `im` (Table 3.15). -/
def decodeIm (g : Guard) (s : Src) (op : Nat) (m : BitVec 7) : DecodeResult :=
  match op with
  | 0 => modNone m (.mul g s) | 1 => modNone m (.mulh g s) | 2 => modNone m (.mulhu g s) | 3 => modNone m (.mulw g s)
  | 4 => modNone m (.div g s) | 5 => modNone m (.divu g s) | 6 => modNone m (.rem g s) | 7 => modNone m (.remu g s)
  | _ => .error .unassignedOpcode

/-- `bs` (Table 3.15). -/
def decodeBs (g : Guard) (s : Src) (op : Nat) (m : BitVec 7) : DecodeResult :=
  match op with
  | 0 => modNone m (.shl g s) | 1 => modNone m (.shr g s) | 2 => modNone m (.sha g s) | 3 => modNone m (.rol g s)
  | 4 => modNone m (.clz g s) | 5 => modNone m (.ctz g s) | 6 => modNone m (.pop g s) | 7 => modNone m (.ext g s)
  | 8 => modNone m (.ins g s) | 9 => modNone m (.rev g s)
  | _ => .error .unassignedOpcode

/-- `cm` (Table 3.15). -/
def decodeCm (g : Guard) (s : Src) (op : Nat) (m : BitVec 7) : DecodeResult :=
  match op with
  | 0 => mod3 m (.ceq g s) | 1 => mod3 m (.cne g s) | 2 => mod3 m (.clt g s) | 3 => mod3 m (.cltu g s)
  | 4 => mod3 m (.cge g s) | 5 => mod3 m (.cgeu g s) | 6 => mod3 m (.ctst g s) | 7 => mod3 m (.pand g s)
  | 8 => mod3 m (.por g s) | 9 => mod3 m (.pnot g s)
  | _ => .error .unassignedOpcode

/-- `ad` (Table 3.15). -/
def decodeAd (g : Guard) (s : Src) (op : Nat) (m : BitVec 7) : DecodeResult :=
  match op with
  | 0 => modNone m (.aadd g s) | 1 => modNone m (.asub g s) | 2 => modNone m (.atag g s) | 3 => modNone m (.aget g s)
  | 4 => modNone m (.aidx g s) | 5 => modNone m (.adiff g s)
  | _ => .error .unassignedOpcode

/-- `fcvt`: opcode 0x20 + source code, m = nan << 5 | destination code (R137). -/
def decodeFcvt (g : Guard) (s : Src) (op : BitVec 7) (m : BitVec 7) : DecodeResult :=
  match Fmt.ofNat? (op.extractLsb' 0 5).toNat, Fmt.ofNat? (m.extractLsb' 0 5).toNat with
  | some f, some d => if m.extractLsb' 6 1 = 0#1 then .ok (.fcvt g s f d (m.extractLsb' 5 1 == 1#1)) else .error .modifier
  | _, _ => .error .modifier

/-- `fp` (Table 3.15). -/
def decodeFp (g : Guard) (s : Src) (op : BitVec 7) (m : BitVec 7) : DecodeResult :=
  if op.extractLsb' 5 2 = 1#2 then decodeFcvt g s op m
  else match op.toNat with
  | 0 => mod2 m fun r => .fadd g s (FRound.ofBits r)
  | 1 => mod2 m fun r => .fsub g s (FRound.ofBits r)
  | 2 => mod2 m fun r => .fmul g s (FRound.ofBits r)
  | 3 => mod2 m fun r => .fma g s (FRound.ofBits r)
  | 4 => modNone m (.fmin g s) | 5 => modNone m (.fmax g s) | 6 => modNone m (.fabs g s) | 7 => modNone m (.fneg g s)
  | 8 => mod2 m fun r => .fsqrt g s (FRound.ofBits r)
  | 9 => mod2 m fun r => .frcp g s (FRound.ofBits r)
  | 10 => mod2 m fun r => .fdiv g s (FRound.ofBits r)
  | 11 => if m.extractLsb' 5 2 = 0#2 then .ok (.fcmp g s (FCond.ofBits (m.extractLsb' 3 2)) (m.extractLsb' 0 3))
          else .error .modifier
  | _ => .error .unassignedOpcode

/-- `ls` (Table 3.16): opcode[6:3] the operation, opcode[2:0] the space. -/
def decodeLs (g : Guard) (s : Src) (op : BitVec 7) (m : BitVec 7) : DecodeResult :=
  match Space.ofBits? (op.extractLsb' 0 3) with
  | none => .error .unassignedOpcode
  | some sp =>
    match (op.extractLsb' 3 4).toNat with
    | 0 => modLoad m fun z x => .ld g s z sp x
    | 1 => modSize m fun z => .st g s z sp
    | 2 => modOrd m fun z sc => .lda g s z sp sc
    | 3 => modOrd m fun z sc => .stl g s z sp sc
    | 4 => modSize m fun z => .cas g s z sp
    | 5 => modSize m fun z => .swp g s z sp
    | 6 => modAmo m fun o z => .amo g s o z sp
    | 7 => if sp = .glb then modAmo m fun o z => .ared g s o z else .error .unassignedOpcode
    | 8 => modClass m fun c => .rbr g s sp c
    | 9 => if sp = .scr then modFence m fun k sc => .fence g s k sc else .error .unassignedOpcode
    | _ => .error .unassignedOpcode

/-- `br` (Table 3.17). -/
def decodeBr (g : Guard) (s : Src) (op : Nat) (m : BitVec 7) : DecodeResult :=
  match op with
  | 0 => modNone m (.br g s) | 1 => modNone m (.bi g s) | 2 => modNone m (.call g s) | 3 => modNone m (.ret g s)
  | 4 => mod1 m (.loop g s) | 5 => mod1 m (.lbrk g s)
  | _ => .error .unassignedOpcode

/-- `nt` (Table 3.17). -/
def decodeNt (g : Guard) (s : Src) (op : Nat) (m : BitVec 7) : DecodeResult :=
  match op with
  | 0 => if m.extractLsb' 6 1 = 0#1 then .ok (.chnew g s (m.extractLsb' 3 3) (m.extractLsb' 0 3)) else .error .modifier
  | 1 => modSend m (.snd g s) | 2 => modSend m (.sndh g s) | 3 => mod3 m (.rtry g s)
  | 4 => mod3 m (.hmov g s) | 5 => mod3 m (.hdup g s) | 6 => modNone m (.hclr g s) | 7 => modNone m (.close g s)
  | 8 => modNone m (.hkind g s) | 9 => mod3 m (.hsave g s) | 10 => mod3 m (.hload g s) | 11 => modSend m (.gsnd g s)
  | 12 => modNone m (.slate g s)
  | _ => .error .unassignedOpcode

/-- `sy` (Table 3.17). -/
def decodeSy (g : Guard) (s : Src) (op : Nat) (m : BitVec 7) : DecodeResult :=
  match op with
  | 0 => modNone m (.fin g s) | 1 => modNone m (.pin g s) | 2 => modNone m (.retake g s) | 3 => modNone m (.brk g s)
  | 4 => modNone m (.trap g s) | 5 => modNone m (.gcr g s) | 6 => modNone m (.scr g s) | 7 => modNone m (.sig g s)
  | 8 => modNone m (.hset g s) | 9 => modNone m (.lnch g s)
  | _ => .error .unassignedOpcode

/-- `vcvt` (R70): opcode[5:4] the block, opcode[3:0] the list index. -/
def decodeVcvt (g : Guard) (s : Src) (op : BitVec 7) (m : BitVec 7) : DecodeResult :=
  .ok (.vcvt g s (op.extractLsb' 4 2) (op.extractLsb' 0 4) (m.extractLsb' 2 1 == 1#1) (m.extractLsb' 1 1 == 1#1)
    (m.extractLsb' 0 1 == 1#1) (m.extractLsb' 3 4))

/-- `vx` (Table 3.18). -/
def decodeVx (g : Guard) (s : Src) (op : BitVec 7) (m : BitVec 7) : DecodeResult :=
  if op.extractLsb' 6 1 = 1#1 then decodeVcvt g s op m
  else match op.toNat with
  | 0 => modVmem m (.vld g s .scr) | 1 => modVmem m (.vld g s .loc) | 2 => modVmem m (.vld g s .grv)
  | 3 => modVmem m (.vld g s .glb)
  | 4 => modVmem m (.vst g s .scr) | 5 => modVmem m (.vst g s .loc) | 6 => modVmem m (.vst g s .grv)
  | 7 => modVmem m (.vst g s .glb)
  | 8 => modVtyp m (.vbcast g s) | 9 => modVtyp m (.vperm g s) | 10 => modVreg m (.vmv g s)
  | 16 => modVtyp m (.vadd g s) | 17 => modVtyp m (.vsub g s) | 18 => modVtyp m (.vmul g s) | 19 => modVtyp m (.vfma g s)
  | 20 => modVtyp m (.vmax g s) | 21 => modVtyp m (.vmin g s) | 22 => modVtyp m (.vabs g s) | 23 => modVtyp m (.vneg g s)
  | 24 => modVtyp m (.vexp2 g s) | 25 => modVtyp m (.vlog2 g s) | 26 => modVtyp m (.vrcp g s) | 27 => modVtyp m (.vrsq g s)
  | 28 => modVreg m (.vand g s) | 29 => modVreg m (.vor g s) | 30 => modVreg m (.vxor g s) | 31 => modVtyp m (.vsel g s)
  | 32 => modVtyp m (.vcmp g s .eq) | 33 => modVtyp m (.vcmp g s .ne) | 34 => modVtyp m (.vcmp g s .lt)
  | 35 => modVtyp m (.vcmp g s .le)
  | 36 => match AmaxKind.ofBits? m with
          | some k => .ok (.vamax g s k)
          | none => .error .modifier
  | 40 => modVtype m (.vredadd g s) | 41 => modVtype m (.vredmax g s)
  | 42 => modVtyp m (.vscan g s) | 43 => modVtyp m (.vmerge g s) | 44 => modVtyp m (.vrecv g s)
  | 45 => modClass m (.vsnd g s)
  | _ => .error .unassignedOpcode

/-- Layout mma. -/
def modMma (m : BitVec 7) (k : Bool → Bool → BitVec 3 → BitVec 2 → Instr) : DecodeResult :=
  .ok (k (m.extractLsb' 2 1 == 1#1) (m.extractLsb' 3 1 == 1#1) (m.extractLsb' 4 3) (m.extractLsb' 0 2))

/-- Layout tcst. -/
def modTcst (m : BitVec 7) (k : Bool → Bool → Bool → BitVec 3 → Instr) : DecodeResult :=
  if m.extractLsb' 6 1 = 0#1 then
    .ok (k (m.extractLsb' 3 1 == 1#1) (m.extractLsb' 4 1 == 1#1) (m.extractLsb' 5 1 == 1#1) (m.extractLsb' 0 3))
  else .error .modifier

/-- `mx` (Table 3.20). -/
def decodeMx (g : Guard) (s : Src) (op : Nat) (m : BitVec 7) : DecodeResult :=
  match op with
  | 0 => mod3 m (.tld g s .scr) | 1 => mod3 m (.tld g s .loc) | 2 => mod3 m (.tld g s .grv) | 3 => mod3 m (.tld g s .glb)
  | 4 => mod3 m (.tst g s .scr) | 5 => mod3 m (.tst g s .loc) | 6 => mod3 m (.tst g s .grv) | 7 => mod3 m (.tst g s .glb)
  | 8 => modTcst m (.tcst g s .scr) | 9 => modTcst m (.tcst g s .loc) | 10 => modTcst m (.tcst g s .grv)
  | 11 => modTcst m (.tcst g s .glb)
  | 12 => mod3 m (.tzero g s) | 13 => mod3 m (.tmv g s)
  | 16 => modMma m (.mma g s)
  | 17 => .ok (.mmsk g s (m.extractLsb' 2 2) (m.extractLsb' 4 3) (m.extractLsb' 0 2))
  | 18 => modMma m (.gmma g s)
  | 20 => .ok (.taccTile g s (m.extractLsb' 5 1 == 1#1) (m.extractLsb' 6 1 == 1#1) (m.extractLsb' 0 3) (m.extractLsb' 3 2))
  | 21 => .ok (.taccVector g s (m.extractLsb' 0 5) (m.extractLsb' 5 2))
  | 22 => mod2 m (.aclr g s) | 23 => mod2 m (.skset g s)
  | _ => .error .unassignedOpcode

/-- `cp` (Table 3.17). -/
def decodeCp (g : Guard) (s : Src) (op : Nat) (m : BitVec 7) : DecodeResult :=
  match op with
  | 0 => modNone m (.cpush g s) | 1 => modNone m (.cpushn g s) | 2 => modNone m (.cpoll g s)
  | _ => .error .unassignedOpcode

/-- `bk` (Table 3.17). -/
def decodeBk (g : Guard) (s : Src) (op : Nat) (m : BitVec 7) : DecodeResult :=
  match op with
  | 0 => modNone m (.binit g s) | 1 => modNone m (.barr g s) | 2 => mod1 m (.bwait g s) | 3 => modNone m (.bexp g s)
  | 4 => modNone m (.hwbar g s) | 5 => modNone m (.gset g s) | 6 => modNone m (.gdec g s)
  | _ => .error .unassignedOpcode

/-- `rl` (Table 3.17). -/
def decodeRl (g : Guard) (s : Src) (op : Nat) (m : BitVec 7) : DecodeResult :=
  match op with
  | 0 => modNone m (.rinit g s) | 1 => modNone m (.rawait g s) | 2 => modNone m (.rrel g s) | 3 => modNone m (.rpeek g s)
  | 4 => modNone m (.mon g s) | 5 => modNone m (.mwait g s)
  | _ => .error .unassignedOpcode

/-- The opcode and modifier of a trigger word, by unit (Table 3.11). -/
def decodeUnit (g : Guard) (s : Src) (unit : BitVec 4) (op m : BitVec 7) : DecodeResult :=
  match unit.toNat with
  | 0 => decodeI .ia g s op.toNat m
  | 1 => decodeI .ib g s op.toNat m
  | 2 => decodeIm g s op.toNat m
  | 3 => decodeBs g s op.toNat m
  | 4 => decodeCm g s op.toNat m
  | 5 => decodeAd g s op.toNat m
  | 6 => decodeFp g s op m
  | 7 => decodeLs g s op m
  | 8 => decodeBr g s op.toNat m
  | 9 => decodeNt g s op.toNat m
  | 10 => decodeSy g s op.toNat m
  | 11 => decodeVx g s op m
  | 12 => decodeMx g s op.toNat m
  | 13 => decodeCp g s op.toNat m
  | 14 => decodeBk g s op.toNat m
  | _ => decodeRl g s op.toNat m

/-- A W32 trigger word (Table 3.4). -/
def decodeTrigger (w : BitVec 32) : DecodeResult :=
  if w.extractLsb' 2 1 = 1#1 then .error .triggerBit
  else decodeUnit (Guard.ofBits (w.extractLsb' 28 4)) (Src.ofBits (w.extractLsb' 3 7)) (w.extractLsb' 10 4)
    (w.extractLsb' 14 7) (w.extractLsb' 21 7)

/-- A W32 pair word (Table 3.3). -/
def decodePair (w : BitVec 32) : DecodeResult :=
  if w.extractLsb' 2 2 != 0#2 then .error .pairBits
  else match Dst.ofBits? (w.extractLsb' 18 7), Dst.ofBits? (w.extractLsb' 4 7) with
    | some d1, some d2 => .ok (.pairWord (Src.ofBits (w.extractLsb' 25 7)) d1 (Src.ofBits (w.extractLsb' 11 7)) d2)
    | _, _ => .error .reservedDestination

/-- A W32 word whose bits [1:0] are 0b11: ldx, ldi or control (Tables 3.5–3.7). -/
def decodeWide (w : BitVec 32) : DecodeResult :=
  if w.extractLsb' 2 1 = 0#1 then .ok (.ldx (w.extractLsb' 8 24) (w.extractLsb' 6 2) (w.extractLsb' 3 3))
  else if w.extractLsb' 3 1 = 0#1 then
    if w.extractLsb' 29 3 = 0#3 then .ok (.ldi (w.extractLsb' 9 20) (w.extractLsb' 4 5)) else .error .ldiBits
  else if w.extractLsb' 28 4 != 0#4 then .error .control
  else match (w.extractLsb' 4 2).toNat with
    | 0 => .ok (.bControl (w.extractLsb' 6 22))
    | 1 => .ok (.callControl (w.extractLsb' 6 22))
    | _ => .error .control

/-- An H16 word (Table 3.2). -/
def decode16 (h : BitVec 16) : DecodeResult :=
  match Dst.ofBits? (h.extractLsb' 2 7) with
  | some d => .ok (.plainMove (Src.ofBits (h.extractLsb' 9 7)) d)
  | none => .error .reservedDestination

/-- A W32 word, by its bits [1:0] (Table 3.1). -/
def decode32 (w : BitVec 32) : DecodeResult :=
  match (w.extractLsb' 0 2).toNat with
  | 1 => decodeTrigger w
  | 2 => decodePair w
  | _ => decodeWide w

/-- Bits [1:0] of the first halfword decide the length (R51). -/
def isH16 (h : BitVec 16) : Bool := h.extractLsb' 0 2 == 0#2

/-- Check the row's combinations (R63). -/
def checkWf (r : DecodeResult) : DecodeResult :=
  match r with
  | .ok i => if i.wf then .ok i else .error .combination
  | .error e => .error e

/-- Decode the instruction at the head of a list of halfwords, and the halfwords after it. The all-zero word depends on the
address and is the fetch's (R61). -/
def decode : List (BitVec 16) → Except DecodeError (Instr × List (BitVec 16))
  | [] => .error .short
  | h :: rest =>
    if isH16 h then
      match checkWf (decode16 h) with
      | .ok i => .ok (i, rest)
      | .error e => .error e
    else match rest with
      | [] => .error .short
      | h2 :: rest2 =>
        match checkWf (decode32 (h2 ++ h)) with
        | .ok i => .ok (i, rest2)
        | .error e => .error e

/-- The instruction the decoder reads from table bits `w`: bit 0 is the least significant bit of the first halfword. -/
def decodeTableWord (_nbits w : Nat) : Option Instr :=
  match decode [BitVec.ofNat 16 w, BitVec.ofNat 16 (w / 65536)] with
  | .ok (i, _) => some i
  | .error _ => none

/-! ## The encoder -/

/-- The two halfwords of a 32-bit word, low halfword first (R51). -/
def w32 (w : BitVec 32) : List (BitVec 16) := [w.extractLsb' 0 16, w.extractLsb' 16 16]

/-- A W32 trigger word (Table 3.4, R126). -/
def trig (g : Guard) (m op : BitVec 7) (unit : BitVec 4) (s : Src) : List (BitVec 16) :=
  w32 (g.toBits ++ m ++ op ++ unit ++ s.toBits ++ 1#3)

/-- The halfwords of a word instruction, first halfword first (Tables 3.2–3.7, 3.13–3.20); an event has none. -/
def encode : Instr → List (BitVec 16)
  | .plainMove src dst => [src.toBits ++ dst.toBits ++ 0#2]
  | .pairWord s1 d1 s2 d2 => w32 (s1.toBits ++ d1.toBits ++ s2.toBits ++ d2.toBits ++ 2#4)
  | .ldx imm q n => w32 (imm ++ q ++ n ++ 3#3)
  | .ldi imm n => w32 (0#3 ++ imm ++ n ++ 7#4)
  | .bControl off => w32 (0#4 ++ off ++ 15#6)
  | .callControl off => w32 (0#4 ++ off ++ 31#6)
  | .add u grd src => trig grd 0#7 0#7 u.toBits src
  | .addw u grd src => trig grd 0#7 1#7 u.toBits src
  | .sub u grd src => trig grd 0#7 2#7 u.toBits src
  | .subw u grd src => trig grd 0#7 3#7 u.toBits src
  | .andi u grd src => trig grd 0#7 4#7 u.toBits src
  | .ori u grd src => trig grd 0#7 5#7 u.toBits src
  | .xori u grd src => trig grd 0#7 6#7 u.toBits src
  | .andn u grd src => trig grd 0#7 7#7 u.toBits src
  | .orn u grd src => trig grd 0#7 8#7 u.toBits src
  | .min u grd src => trig grd 0#7 9#7 u.toBits src
  | .max u grd src => trig grd 0#7 10#7 u.toBits src
  | .minu u grd src => trig grd 0#7 11#7 u.toBits src
  | .maxu u grd src => trig grd 0#7 12#7 u.toBits src
  | .abs u grd src => trig grd 0#7 13#7 u.toBits src
  | .pass u grd src => trig grd 0#7 14#7 u.toBits src
  | .mul grd src => trig grd 0#7 0#7 2#4 src
  | .mulh grd src => trig grd 0#7 1#7 2#4 src
  | .mulhu grd src => trig grd 0#7 2#7 2#4 src
  | .mulw grd src => trig grd 0#7 3#7 2#4 src
  | .div grd src => trig grd 0#7 4#7 2#4 src
  | .divu grd src => trig grd 0#7 5#7 2#4 src
  | .rem grd src => trig grd 0#7 6#7 2#4 src
  | .remu grd src => trig grd 0#7 7#7 2#4 src
  | .shl grd src => trig grd 0#7 0#7 3#4 src
  | .shr grd src => trig grd 0#7 1#7 3#4 src
  | .sha grd src => trig grd 0#7 2#7 3#4 src
  | .rol grd src => trig grd 0#7 3#7 3#4 src
  | .clz grd src => trig grd 0#7 4#7 3#4 src
  | .ctz grd src => trig grd 0#7 5#7 3#4 src
  | .pop grd src => trig grd 0#7 6#7 3#4 src
  | .ext grd src => trig grd 0#7 7#7 3#4 src
  | .ins grd src => trig grd 0#7 8#7 3#4 src
  | .rev grd src => trig grd 0#7 9#7 3#4 src
  | .ceq grd src p => trig grd (0#4 ++ p) 0#7 4#4 src
  | .cne grd src p => trig grd (0#4 ++ p) 1#7 4#4 src
  | .clt grd src p => trig grd (0#4 ++ p) 2#7 4#4 src
  | .cltu grd src p => trig grd (0#4 ++ p) 3#7 4#4 src
  | .cge grd src p => trig grd (0#4 ++ p) 4#7 4#4 src
  | .cgeu grd src p => trig grd (0#4 ++ p) 5#7 4#4 src
  | .ctst grd src p => trig grd (0#4 ++ p) 6#7 4#4 src
  | .pand grd src p => trig grd (0#4 ++ p) 7#7 4#4 src
  | .por grd src p => trig grd (0#4 ++ p) 8#7 4#4 src
  | .pnot grd src p => trig grd (0#4 ++ p) 9#7 4#4 src
  | .aadd grd src => trig grd 0#7 0#7 5#4 src
  | .asub grd src => trig grd 0#7 1#7 5#4 src
  | .atag grd src => trig grd 0#7 2#7 5#4 src
  | .aget grd src => trig grd 0#7 3#7 5#4 src
  | .aidx grd src => trig grd 0#7 4#7 5#4 src
  | .adiff grd src => trig grd 0#7 5#7 5#4 src
  | .fadd grd src r => trig grd (0#5 ++ r.toBits) 0#7 6#4 src
  | .fsub grd src r => trig grd (0#5 ++ r.toBits) 1#7 6#4 src
  | .fmul grd src r => trig grd (0#5 ++ r.toBits) 2#7 6#4 src
  | .fma grd src r => trig grd (0#5 ++ r.toBits) 3#7 6#4 src
  | .fmin grd src => trig grd 0#7 4#7 6#4 src
  | .fmax grd src => trig grd 0#7 5#7 6#4 src
  | .fabs grd src => trig grd 0#7 6#7 6#4 src
  | .fneg grd src => trig grd 0#7 7#7 6#4 src
  | .fsqrt grd src r => trig grd (0#5 ++ r.toBits) 8#7 6#4 src
  | .frcp grd src r => trig grd (0#5 ++ r.toBits) 9#7 6#4 src
  | .fdiv grd src r => trig grd (0#5 ++ r.toBits) 10#7 6#4 src
  | .fcmp grd src c p => trig grd (0#2 ++ c.toBits ++ p) 11#7 6#4 src
  | .fcvt grd src s d nan => trig grd (0#1 ++ BitVec.ofBool nan ++ d.toBits) (1#2 ++ s.toBits) 6#4 src
  | .ld grd src z sp sx => trig grd (0#3 ++ BitVec.ofBool sx ++ z.toBits) (0#4 ++ sp.toBits) 7#4 src
  | .st grd src z sp => trig grd (0#4 ++ z.toBits) (1#4 ++ sp.toBits) 7#4 src
  | .lda grd src z sp sc => trig grd (0#1 ++ sc.toBits ++ z.toBits) (2#4 ++ sp.toBits) 7#4 src
  | .stl grd src z sp sc => trig grd (0#1 ++ sc.toBits ++ z.toBits) (3#4 ++ sp.toBits) 7#4 src
  | .cas grd src z sp => trig grd (0#4 ++ z.toBits) (4#4 ++ sp.toBits) 7#4 src
  | .swp grd src z sp => trig grd (0#4 ++ z.toBits) (5#4 ++ sp.toBits) 7#4 src
  | .amo grd src op z sp => trig grd (op.toBits ++ z.toBits) (6#4 ++ sp.toBits) 7#4 src
  | .ared grd src op z => trig grd (op.toBits ++ z.toBits) 60#7 7#4 src
  | .rbr grd src sp c => trig grd (0#3 ++ c) (8#4 ++ sp.toBits) 7#4 src
  | .fence grd src kinds sc => trig grd (kinds ++ sc.toBits) 72#7 7#4 src
  | .br grd src => trig grd 0#7 0#7 8#4 src
  | .bi grd src => trig grd 0#7 1#7 8#4 src
  | .call grd src => trig grd 0#7 2#7 8#4 src
  | .ret grd src => trig grd 0#7 3#7 8#4 src
  | .loop grd src n => trig grd (0#6 ++ n) 4#7 8#4 src
  | .lbrk grd src n => trig grd (0#6 ++ n) 5#7 8#4 src
  | .chnew grd src hr hs => trig grd (0#1 ++ hr ++ hs) 0#7 9#4 src
  | .snd grd src n c => trig grd (n ++ c) 1#7 9#4 src
  | .sndh grd src n c => trig grd (n ++ c) 2#7 9#4 src
  | .rtry grd src p => trig grd (0#4 ++ p) 3#7 9#4 src
  | .hmov grd src h => trig grd (0#4 ++ h) 4#7 9#4 src
  | .hdup grd src h => trig grd (0#4 ++ h) 5#7 9#4 src
  | .hclr grd src => trig grd 0#7 6#7 9#4 src
  | .close grd src => trig grd 0#7 7#7 9#4 src
  | .hkind grd src => trig grd 0#7 8#7 9#4 src
  | .hsave grd src h => trig grd (0#4 ++ h) 9#7 9#4 src
  | .hload grd src h => trig grd (0#4 ++ h) 10#7 9#4 src
  | .gsnd grd src n c => trig grd (n ++ c) 11#7 9#4 src
  | .slate grd src => trig grd 0#7 12#7 9#4 src
  | .fin grd src => trig grd 0#7 0#7 10#4 src
  | .pin grd src => trig grd 0#7 1#7 10#4 src
  | .retake grd src => trig grd 0#7 2#7 10#4 src
  | .brk grd src => trig grd 0#7 3#7 10#4 src
  | .trap grd src => trig grd 0#7 4#7 10#4 src
  | .gcr grd src => trig grd 0#7 5#7 10#4 src
  | .scr grd src => trig grd 0#7 6#7 10#4 src
  | .sig grd src => trig grd 0#7 7#7 10#4 src
  | .hset grd src => trig grd 0#7 8#7 10#4 src
  | .lnch grd src => trig grd 0#7 9#7 10#4 src
  | .vld grd src sp part v => trig grd (part.toBits ++ v) (0#5 ++ sp.toBits) 11#4 src
  | .vst grd src sp part v => trig grd (part.toBits ++ v) (1#5 ++ sp.toBits) 11#4 src
  | .vbcast grd src t v => trig grd (t.toBits ++ v) 8#7 11#4 src
  | .vperm grd src t v => trig grd (t.toBits ++ v) 9#7 11#4 src
  | .vmv grd src v => trig grd (0#2 ++ v) 10#7 11#4 src
  | .vadd grd src t v => trig grd (t.toBits ++ v) 16#7 11#4 src
  | .vsub grd src t v => trig grd (t.toBits ++ v) 17#7 11#4 src
  | .vmul grd src t v => trig grd (t.toBits ++ v) 18#7 11#4 src
  | .vfma grd src t v => trig grd (t.toBits ++ v) 19#7 11#4 src
  | .vmax grd src t v => trig grd (t.toBits ++ v) 20#7 11#4 src
  | .vmin grd src t v => trig grd (t.toBits ++ v) 21#7 11#4 src
  | .vabs grd src t v => trig grd (t.toBits ++ v) 22#7 11#4 src
  | .vneg grd src t v => trig grd (t.toBits ++ v) 23#7 11#4 src
  | .vexp2 grd src t v => trig grd (t.toBits ++ v) 24#7 11#4 src
  | .vlog2 grd src t v => trig grd (t.toBits ++ v) 25#7 11#4 src
  | .vrcp grd src t v => trig grd (t.toBits ++ v) 26#7 11#4 src
  | .vrsq grd src t v => trig grd (t.toBits ++ v) 27#7 11#4 src
  | .vand grd src v => trig grd (0#2 ++ v) 28#7 11#4 src
  | .vor grd src v => trig grd (0#2 ++ v) 29#7 11#4 src
  | .vxor grd src v => trig grd (0#2 ++ v) 30#7 11#4 src
  | .vsel grd src t v => trig grd (t.toBits ++ v) 31#7 11#4 src
  | .vcmp grd src c t v => trig grd (t.toBits ++ v) (8#5 ++ c.toBits) 11#4 src
  | .vamax grd src k => trig grd (k.toBits) 36#7 11#4 src
  | .vredadd grd src t => trig grd (t.toBits ++ 0#5) 40#7 11#4 src
  | .vredmax grd src t => trig grd (t.toBits ++ 0#5) 41#7 11#4 src
  | .vscan grd src t v => trig grd (t.toBits ++ v) 42#7 11#4 src
  | .vmerge grd src t v => trig grd (t.toBits ++ v) 43#7 11#4 src
  | .vrecv grd src t v => trig grd (t.toBits ++ v) 44#7 11#4 src
  | .vsnd grd src c => trig grd (0#3 ++ c) 45#7 11#4 src
  | .vcvt grd src blk k amx sr nan vd => trig grd (vd ++ BitVec.ofBool amx ++ BitVec.ofBool sr ++ BitVec.ofBool nan) (1#1 ++ blk ++ k) 11#4 src
  | .tld grd src sp t => trig grd (0#4 ++ t) (0#5 ++ sp.toBits) 12#4 src
  | .tst grd src sp t => trig grd (0#4 ++ t) (1#5 ++ sp.toBits) 12#4 src
  | .tcst grd src sp amx sr nan t => trig grd (0#1 ++ BitVec.ofBool nan ++ BitVec.ofBool sr ++ BitVec.ofBool amx ++ t) (2#5 ++ sp.toBits) 12#4 src
  | .tzero grd src t => trig grd (0#4 ++ t) 12#7 12#4 src
  | .tmv grd src t => trig grd (0#4 ++ t) 13#7 12#4 src
  | .mma grd src ta tb t a => trig grd (t ++ BitVec.ofBool tb ++ BitVec.ofBool ta ++ a) 16#7 12#4 src
  | .mmsk grd src sk t a => trig grd (t ++ sk ++ a) 17#7 12#4 src
  | .gmma grd src ta tb t a => trig grd (t ++ BitVec.ofBool tb ++ BitVec.ofBool ta ++ a) 18#7 12#4 src
  | .taccTile grd src amx sr t a => trig grd (BitVec.ofBool sr ++ BitVec.ofBool amx ++ a ++ t) 20#7 12#4 src
  | .taccVector grd src v a => trig grd (a ++ v) 21#7 12#4 src
  | .aclr grd src a => trig grd (0#5 ++ a) 22#7 12#4 src
  | .skset grd src k => trig grd (0#5 ++ k) 23#7 12#4 src
  | .cpush grd src => trig grd 0#7 0#7 13#4 src
  | .cpushn grd src => trig grd 0#7 1#7 13#4 src
  | .cpoll grd src => trig grd 0#7 2#7 13#4 src
  | .binit grd src => trig grd 0#7 0#7 14#4 src
  | .barr grd src => trig grd 0#7 1#7 14#4 src
  | .bwait grd src ph => trig grd (0#6 ++ ph) 2#7 14#4 src
  | .bexp grd src => trig grd 0#7 3#7 14#4 src
  | .hwbar grd src => trig grd 0#7 4#7 14#4 src
  | .gset grd src => trig grd 0#7 5#7 14#4 src
  | .gdec grd src => trig grd 0#7 6#7 14#4 src
  | .rinit grd src => trig grd 0#7 0#7 15#4 src
  | .rawait grd src => trig grd 0#7 1#7 15#4 src
  | .rrel grd src => trig grd 0#7 2#7 15#4 src
  | .rpeek grd src => trig grd 0#7 3#7 15#4 src
  | .mon grd src => trig grd 0#7 4#7 15#4 src
  | .mwait grd src => trig grd 0#7 5#7 15#4 src
  | .dispatch _ => []
  | .engineFileAcquire _ => []
  | .unitOpComplete _ _ _ => []
  | .vxOpStart _ => []
  | .vxOpComplete _ => []
  | .mxOpStart _ => []
  | .mxOpComplete _ => []
  | .gmmaJoinComplete _ _ => []
  | .print _ _ => []
  | .remoteRequestArrival _ => []
  | .remoteAnswer _ => []
  | .budget _ _ => []
  | .tlbWalkComplete _ _ _ => []
  | .dataPkt _ => []
  | .notePkt _ => []
  | .fwdPkt _ => []
  | .freePkt _ => []
  | .returnPkt _ => []
  | .creditPkt _ => []
  | .regPkt _ => []
  | .movedPkt _ => []
  | .pullPkt _ => []
  | .shipPkt _ => []
  | .movePkt _ => []
  | .endPkt _ => []
  | .closerPkt _ => []
  | .copyStart _ => []
  | .copyClaim _ => []
  | .copyPublish _ => []
  | .landingPacket _ => []
  | .launchPlacement _ _ => []
  | .completionUp _ _ => []
  | .completionDown _ _ => []
  | .completionConfirm _ _ => []
  | .balancerSample _ => []
  | .balancingInterval _ => []
  | .cellRetarget _ _ => []
  | .bwaitTimeout _ _ => []
  | .wiredCompletionDelivery _ _ => []
  | .hwbarTimeout _ _ => []
  | .mwaitTimeout _ _ => []
  | .vrecvTimeout _ => []
  | .proxyAtomic _ => []
  | .hostAtomicCompletion _ _ _ => []
  | .requestLost _ => []
  | .packetLifetimeExpiry _ => []
  | .rdmaAck _ => []
  | .sqDoorbell _ _ => []
  | .hostDescriptorRead _ => []
  | .cqHeadWrite _ _ => []
  | .partitionReset _ => []
  | .functionLevelReset _ => []
  | .msixUnmask _ _ => []
  | .preemptRequest _ _ _ => []
  | .killFlood _ _ => []
  | .killAtCell _ _ => []
  | .routerSweepEnd _ _ => []
  | .killDoneReport _ _ => []
  | .reportRingRidxWrite _ _ _ => []
  | .releaseRegisterWrite _ _ => []
  | .stageHoldWrite _ _ => []
  | .groupTableWrite _ _ _ => []
  | .wiredSetWrite _ _ _ => []
  | .gateWrite _ _ _ => []
  | .reductionWindowWrite _ _ => []
  | .pinnedRegionWrite _ _ _ => []
  | .invalidation _ _ _ => []
  | .perfSelectorWrite _ _ _ => []
  | .balancerControlWrite _ _ => []
  | .managementRegisterWrite _ _ _ => []
  | .createCmd => []
  | .grantCmd => []
  | .sessionCmd => []
  | .keyServiceReply _ _ _ => []
  | .sessionTimeout => []
  | .rangeCmd => []
  | .sweepCmd => []
  | .sweepBlock _ => []
  | .readCmd => []
  | .eraseCmd => []
  | .sleepCmd => []
  | .extendCmd => []
  | .mailboxInvalidCommand => []
  | .wake _ => []
  | .coldBoot _ _ _ _ _ => []
  | .dieTestComplete _ _ _ => []
  | .hbmTrainingComplete _ _ => []
  | .fourBitTestComplete _ _ => []
  | .clockThrottle _ => []
  | .clockRestore _ => []
  | .illegalWord => []
  | .acknowledgement _ => []
  | .planeLoss _ => []
  | .hostCompletionTimeout _ => []
  | .queuePairError _ => []
  | .unsupportedRdmaArrival _ => []
  | .bringupClockRaise _ => []
  | .hostFlushReadComplete _ => []

end Sys2Proof
end

