-- ==== Sys2Proof/Machine/State.lean ====
section
/-! DEFINITION. The state of one LV4-A1 device: every register, latch, queue, table and counter the spec names, as plain data.

Cells, groves, dies and long tables are sparse: a list of (index, value) pairs, an unlisted index holding the reset value.
Memory is one list of (key, byte) pairs; Machine/Ops.lean maps every home of memory to a key. -/

namespace Sys2Proof.Machine

/-- What stops the model itself. -/
inductive Fault
  /-- Raised by the meaning of every instruction word: no take runs on the acting thread, so no word can issue there.
  Safe: the hardware issues no word on a free thread either. -/
  | noTake
  deriving DecidableEq, Repr

/-- Why an instruction has no meaning. -/
inductive Refusal
  /-- Raised by an arm of `exec` whose instruction is not modelled yet. Safe: the run stops. -/
  | notModelled (mnemonic : String)
  deriving DecidableEq, Repr

/-- A register file indexed by a `k`-bit number. -/
abbrev RegFile (k : Nat) (α : Type) := Vector α (2 ^ k)

/-- A sparse table: (index, value) pairs, indices rising; an unlisted index holds the table's reset value. -/
abbrev Tab (α : Type) := List (Nat × α)

/-! ## Messages and ends (12_queues) -/

/-- A send end's record (R254, Table 12.9). -/
structure SendEnd where
  eid : Nat
  ctx : Nat
  home : Nat
  chan : Nat
  ns : Nat
  w : Nat
  ck : Nat
  mv : Nat
  /-- the channel's receive end is closed (R253) -/
  orphan : Bool
  /-- the context's protection domain for R373 is looked up by `ctx` -/
  registered : Bool
  deriving DecidableEq, Repr

/-- A note: one queued message of a channel, named to the holder (R255). -/
structure Note where
  ai : Nat
  slot : Nat
  sid : Nat
  seq : Nat
  deriving DecidableEq, Repr

/-- The state of a holder record (Table 12.9). -/
inductive HoldState
  | active
  | frozen
  | inbound
  /-- inbound, and moved on by a `sndh` before its SHIP arrived (R257, Table 12.11) -/
  | leaving
  deriving DecidableEq, Repr

/-- The record at the holder of a receive end (Table 12.9). -/
structure RecvEnd where
  eid : Nat
  ctx : Nat
  home : Nat
  gen : Nat
  notes : List Note
  b : Nat
  running : Nat
  st : HoldState
  /-- held after a fault cut (R21) -/
  held : Bool
  depth : Nat
  pri : Nat
  /-- the class of the head for which an UNBOUND report was sent (R279) -/
  reported : Option Nat
  /-- notes returned or whose take was cut, waiting at the head (R21, R257) -/
  returned : List Note
  /-- a PULL waiting until the record is no longer inbound (R257) -/
  pull : Option Nat
  /-- the record is frozen by a close (R250) -/
  closing : Bool
  /-- the cycle in which the head became dispatchable (R296) -/
  since : Option Word
  /-- the cycle in which a note was last queued here, and the indices of the notes queued in it: none is popped in that cycle (R235) -/
  news : Nat × List Nat
  deriving DecidableEq, Repr

/-- An end carried in a handle lane (R252, R258). -/
inductive EndRec
  | send (e : SendEnd)
  | recv (eid home gen depth pri : Nat) (holder : Nat)
  /-- installed where the carrying message was queued (R252) -/
  | installed (h : Handle)
  deriving DecidableEq, Repr

/-- A message: slate, payload words, handle lane (R238), and the launch it belongs to (R321; 0: none). -/
structure Msg where
  slate : Word
  payload : List Word
  lane : Option EndRec
  launch : Nat
  deriving DecidableEq, Repr

/-- One slot of a channel at its home (Table 12.9). -/
structure ChanSlot where
  sid : Nat
  seq : Nat
  early : Bool
  isClose : Bool
  /-- the place of a gated message that was discarded (R315): it is passed over in sequence -/
  void : Bool
  msg : Msg
  deriving DecidableEq, Repr

/-- The home's record of one send end (Table 12.9). -/
structure Sender where
  sid : Nat
  loc : Nat
  mv : Nat
  nx : Nat
  cnsm : Nat
  deriving DecidableEq, Repr

/-- A MOVE waiting at the home for the ones below it (R259). -/
structure PendingMove where
  frm : Nat
  dest : Nat
  gen : Nat
  deriving DecidableEq, Repr

/-- The home's record of a channel (Table 12.9). -/
structure Home where
  chan : Nat
  ctx : Nat
  depth : Nat
  pri : Nat
  slots : Tab ChanSlot
  senders : List Sender
  holder : Nat
  gen : Nat
  ai : Nat
  closed : Bool
  moves : List PendingMove
  deriving DecidableEq, Repr

/-- A former holder's forwarding stub (Table 12.9). -/
structure Stub where
  chan : Nat
  ctx : Nat
  home : Nat
  successor : Nat
  /-- b_X, and the acceptance indices of the notes that were shipped or forwarded -/
  start : Nat
  passed : List Nat
  limit : Option Nat
  running : Nat
  /-- gen of its tenure: stubs of a channel are freed in its order (R260, R261) -/
  gen : Nat
  deriving DecidableEq, Repr

/-- The queue a take's message came from (R21). -/
inductive Origin
  | channel (eid : Nat) (note : Note) (home : Nat)
  | completion
  | stage (idx : Nat) (index : BitVec 32) (lid : Nat)
  | landing (ring : Nat) (size : Nat)
  deriving DecidableEq, Repr

/-! ## Effects and requests (01_machine R16, 09_memories R190) -/

/-- An address within a space, own grove and own cell made explicit. -/
inductive Target
  | loc (cell off : Nat)
  | grv (grove off : Nat)
  | glb (va : Nat)
  deriving DecidableEq, Repr

/-- One contiguous run of bytes to store. -/
structure Piece where
  tgt : Target
  bytes : List Byte
  deriving DecidableEq, Repr

/-- A read-modify-write at one location (R196). -/
inductive Rmw
  | cas (expected new : BitVec 128)
  | swp (new : BitVec 128)
  | amo (op : AmoOp) (operand : BitVec 128)
  deriving DecidableEq, Repr

/-- A channel, stage or group message to send (R245). -/
inductive SendKind
  | chan (eid : Nat)
  | stage (idx lid : Nat)
  /-- a stage message whose slot is claimed: the reel header's key and the claimed index (R264) -/
  | claimed (idx lid key : Nat) (start : BitVec 32)
  | move (eid : Nat) (h : BitVec 3) (moved : Nat) (recv : Bool)
  /-- a group message, to the members from cell number `start` on -/
  | group (g : Nat) (start : Nat)
  | closeSend (eid : Nat) (h : BitVec 3)
  | closeStage (h : BitVec 3)
  | closeRecv (eid : Nat) (h : BitVec 3)
  | gate (grove gate : Nat) (count : BitVec 32) (eid : Nat)
  | trap (code : BitVec 16) (a b : Word)
  | register (eid : Nat)
  /-- the place of a `vsnd`'s messages until the engine operation `op` fills it (R147) -/
  | vsnd (op : Nat)
  deriving DecidableEq, Repr

/-- A deferred effect, in program order (R16). -/
inductive Effect
  /-- a store; `op` names the engine operation that fills it, `keys` the granted home keys of every byte, `insn` its word -/
  | store (pieces : List Piece) (entries : Nat) (op : Option Nat) (keys : Option (List Nat)) (sysRelease : Bool) (insn : Nat)
  /-- an atomic; `view` is the value the take's view of the location has after it, once known -/
  | rmw (tgt : Target) (size : Nat) (what : Rmw) (keys : Option (List Nat)) (ared : Bool) (view : Option (BitVec 128)) (insn : Nat)
  | marker
  | hsave (idx : BitVec 6) (h : Handle)
  | hset (idx : BitVec 5) (v : Word)
  | lnch (off : Nat)
  | sig (vec : BitVec 11)
  /-- the place of a copy request: the `cp` operation that reserves its entry, and the entry once reserved (R215, R217) -/
  | kick (op : Nat) (entry : Option (BitVec 4))
  /-- a block read; `keys` the granted home keys of its source, `insn` its word -/
  | rbr (src : Target) (dst n : Nat) (cls : BitVec 4) (t : Word) (keys : Option (List Nat)) (insn : Nat)
  | rinit (hdr : Target) (v : BitVec 128)
  | rrel (hdr : Target) (i : BitVec 32)
  | binit (b : BitVec 9) (exp : BitVec 16)
  | bexp (b : BitVec 9) (n : Nat)
  | barr (cell : Nat) (b : BitVec 9) (bytes : BitVec 16)
  | gdec (gate : BitVec 7)
  | send (k : SendKind) (cls : BitVec 5) (sub : BitVec 4) (payload : List Word) (entries : Nat)
  deriving DecidableEq, Repr

/-- Why a home refuses a request (Table 9.7). -/
inductive Reason | notMapped | permission | copyOnWrite | unreachable | unsupported | outsideWindows
  deriving DecidableEq, Repr

/-- The answer of a home: data, or a refusal with its reason (R190). -/
inductive Answer
  | data (v : BitVec 128)
  | refused (r : Reason)
  /-- the header read is none that the instruction accepts (R263, R268) -/
  | format
  deriving DecidableEq, Repr

/-- What a header or granule read is for: an access check alone, `rawait`, `rrel` of an index, `rpeek`, `mon` (R266–R272). -/
inductive HeaderUse
  | access
  /-- the source of the block read of word `insn` (R200) -/
  | block (insn : Nat)
  | wait
  | release (i : BitVec 32)
  | peek
  | watch
  deriving DecidableEq, Repr

/-- What a remote request asks (R190). -/
inductive ReqKind
  /-- a load of `n` bytes whose view overlays the first `neff` held effects; `acquire`: the scope of an `lda` -/
  | load (tgt : Target) (n : Nat) (signed : Bool) (acquire : Option Scope) (neff : Nat)
  /-- the check of the `idx`-th held effect -/
  | check (tgt : Target) (n : Nat) (rmw : Option Rmw) (insn : Nat) (neff : Nat)
  /-- an atomic performed at its home by an irrevocable take -/
  | atomic (tgt : Target) (size : Nat) (what : Rmw)
  /-- the check of a remote barrier arrival -/
  | barr (cell : Nat) (b : BitVec 9)
  /-- a header or granule access, or the source check of a block read -/
  | header (tgt : Target) (n : Nat) (write : Bool) (use : HeaderUse)
  /-- an engine operation's memory operand -/
  | engine (op : Nat)
  /-- a block read issued at print, through the keys its check was granted -/
  | block (src : Target) (keys : List Nat) (dst : Nat) (cls : BitVec 4) (t : Word)
  /-- a posted write, atomic or ared to system scope -/
  | posted (keys : List Nat) (bytes : List Byte) (rmw : Option (Nat × Rmw))
  deriving DecidableEq, Repr

/-- How far a request has come. -/
inductive ReqStage
  | sent
  /-- a host atomic standing in a proxy lane (R198) -/
  | lane
  | answered (r : Answer)
  /-- an uncorrectable error on the read (R190) -/
  | ecc
  /-- a posted access done with at its home, not yet acknowledged -/
  | applied
  /-- a posted access whose home is unreachable: it is never acknowledged (Table 10.5) -/
  | lost
  /-- its packet's lifetime ran out (R344) -/
  | expired
  deriving DecidableEq, Repr

/-- A TLB entry (R187): context, level of the leaf (1, 2, 3), page number at that level, and the leaf. -/
structure TlbEntry where
  ctx : Nat
  level : Nat
  page : Nat
  pte : Word
  deriving DecidableEq, Repr

/-- A remote request in flight (R190), or a posted write (R209). -/
structure Req where
  id : Nat
  cell : Nat
  th : Nat
  ctx : Nat
  launch : Nat
  seq : BitVec 16
  /-- the thread's count of issued words when the request's word issued: later words mean the thread moved on -/
  word : Nat
  pc : Word
  kind : ReqKind
  stage : ReqStage
  /-- marked discarded by a trap entry (R328) -/
  discarded : Bool
  /-- translations that walks have answered for it (R187) -/
  leaves : List TlbEntry
  /-- the cycle in which it was issued (R344, R359) -/
  born : Nat
  /-- the thread's count of takes when it was issued -/
  take : Nat
  /-- keys beyond the device that it has written: watch entries on them fire when its answer or acknowledgement comes (R272) -/
  fires : List Nat
  /-- the dies whose stacks of HBM were up when it was issued (R388) -/
  up : BitVec 4
  deriving DecidableEq, Repr

/-! ## Threads (04_registers Table 4.3) -/

/-- What a not-ready latch waits for (R42). -/
inductive Pending
  /-- `seen`: the slot stood filled at the end of a cycle, so that the wait ends in the next (R235, Table 12.16) -/
  | rawait (hdr : Target) (hdrAddr : Word) (idx : BitVec 32) (seen : Bool)
  | mwait (start : Nat) (timeout : BitVec 32)
  | bwait (b : BitVec 9) (ph : Bool) (start : Nat) (timeout : BitVec 32)
  /-- a `bwait` that an evaluation has woken, with gen after the completion: it returns with ph as it then stands (R307) -/
  | woken (b : BitVec 9) (gen : BitVec 16)
  | hwbar (set : BitVec 2) (start : Nat) (timeout : BitVec 32)
  | request (id : Nat)
  | engine
  deriving DecidableEq, Repr

/-- A result latch: untriggered, an operation computing its result, an operation that waits, or ready (R42). -/
inductive YLatch
  | untriggered
  | busy (v : Word)
  | pending (p : Pending)
  | ready (v : Word)
  deriving DecidableEq, Repr

/-- A hardware loop counter (Table 4.6), with the start address no register reads (R139). -/
structure LoopCtr where
  cnt : BitVec 32
  bnd : BitVec 32
  stp : BitVec 32
  act : Bool
  fin : BitVec 56
  beg : BitVec 56
  deriving DecidableEq, Repr

/-- DESIGN CHOICE (log 3). -/
def LoopCtr.reset : LoopCtr := ⟨0, 0, 0, false, 0, 0⟩

/-- The take states of Table 1.3; `reporting` is Cut or Aborted with a report still waiting for ring room (R334). -/
inductive Phase | idle | revocable | irrevocable | settling | printing | reporting
  deriving DecidableEq, Repr

/-- What a cut undoes (R330 step 2). -/
inductive Undo
  | chnew (recvEid sendEid : Nat)
  | hdup (srcEid newEid credits : Nat)
  deriving DecidableEq, Repr

/-- A message consumed by `rtry` or `vrecv` (R160). -/
structure Consumed where
  eid : Nat
  note : Note
  home : Nat
  deriving DecidableEq, Repr

/-- A report waiting to be placed, as the 64 words of its entry (R333). -/
structure Report where
  ctx : Nat
  words : List Word
  /-- the thread that waits for the report, if one does -/
  th : Option Nat
  deriving DecidableEq, Repr

/-- A load of global memory whose address comes from no load: an engine operation's or a request's, and the rank of the widest scope at which its
thread acquired or fenced before it: what lies in that scope is read in the load's turn (R207). -/
structure EarlyLoad where
  engine : Bool
  id : Nat
  rank : Nat
  deriving DecidableEq, Repr

/-- What the take's loads may read early (R207, R393); the model's own (log 120): memory as it stood at the take's start, the rank of the widest
scope of an acquire or a fence since, the g and e registers whose value a load may have given, the runs of global memory loaded, and the loads. -/
structure Past where
  mem : Option (List Host.Cell)
  rank : Nat
  g : BitVec 32
  e : BitVec 8
  runs : List (Nat × Nat)
  loads : List EarlyLoad
  deriving DecidableEq, Repr

structure Thread where
  g : RegFile 5 Word
  p : RegFile 3 Bool
  e : RegFile 3 Word
  h : RegFile 3 Handle
  m : RegFile 3 Word
  slate : Word
  pc : Word
  la : RegFile 4 Word
  lb : RegFile 4 Word
  y : RegFile 4 YLatch
  amax : RegFile 2 Word
  sk : RegFile 2 Word
  lc : RegFile 1 LoopCtr
  fpst : Word
  vxst : Word
  mxst : Word
  orc : Nat
  reqseq : BitVec 16
  bdgt : Nat
  ctx : BitVec 12
  cls : BitVec 5
  frame : RegFile 6 Word
  /-- the take's state, its message and where it came from -/
  phase : Phase
  /-- a settling or printing take was irrevocable -/
  pinned : Bool
  msg : Msg
  origin : Origin
  effects : List Effect
  undo : List Undo
  consumed : List Consumed
  /-- words issued by the take -/
  words : Nat
  /-- takes started on the thread -/
  takes : Nat
  /-- the sequence number under which each word's effect was granted (R190) -/
  grants : List (Nat × BitVec 16)
  /-- global addresses and lengths for which the take was granted a check: it holds the pages until it is in a final state (R189) -/
  pages : List (Nat × Nat)
  /-- the take acts as `pin` (R337): it waits for its engines and orc while revocable, then performs its held effects -/
  pinning : Bool
  /-- the cycle in which its print, or an effect of an irrevocable take, began to wait (R235) -/
  waits : Option Nat
  /-- in an irrevocable take, the send of the word that waits for a credit, a slot or room (R22, R235) -/
  wants : Option Effect
  /-- which of its loads need not be performed in their turn, the model's own (log 120) -/
  past : Past
  deriving DecidableEq, Repr

/-! ## Engines and the copy engine -/

/-- An operation in a trigger queue: its word as an instruction, and the operands sampled at the trigger (R144, R164). -/
structure EngOp where
  id : Nat
  th : Nat
  insn : Instr
  word : BitVec 32
  a : Word
  b : Word
  t : Word
  e : RegFile 3 Word
  h : Handle
  tcfgA : Word
  tcfgB : Word
  /-- effects of the take held when the operation was triggered -/
  neff : Nat
  /-- the cycle of its trigger: an element is not popped in the cycle in which it was pushed (R43, R235) -/
  pushed : Nat
  /-- the remote request of the operation, once started, and its sequence number -/
  req : Option Nat
  seq : BitVec 16
  /-- entered a grove join (R175) -/
  joined : Bool
  /-- the cycle of its start, for a timeout (R159) -/
  start : Nat
  /-- the PC of its word and the thread's count of issued words after it (R145, R190, R217) -/
  pc : Word
  words : Nat
  /-- the runs of memory it touches, and their home keys once granted, in order -/
  runs : List (Target × Nat)
  keys : Option (List Nat)
  /-- the bytes it has read: those of its runs, read as it started or at their homes, the skip list of an `mmsk`, and B of a `gmma`, once its
  join has read it (R144, R164, R175) -/
  data : Option (List Byte)
  /-- the amax register that `vamax` reads, as it stood at the start (R144) -/
  amax : Word
  /-- what `vrecv` has appended, or how many messages `vsnd` has sent (R159, R161) -/
  part : Vec
  cnt : Nat
  deriving DecidableEq, Repr

/-- A copy FIFO entry's state (R215). -/
inductive FifoState
  | free
  | reserved (th : Nat)
  /-- kicked, with the order and the cycle of its kick -/
  | kicked (order : Nat) (at_ : Nat)
  deriving DecidableEq, Repr

/-- A copy FIFO entry (R215): the request words w0 to w3. -/
structure FifoEntry where
  st : FifoState
  /-- the first cycle in which a `cpush` that waited can reserve it, once it is free (R233) -/
  since : Nat
  ctx : Nat
  launch : Nat
  w0 : Word
  w1 : Word
  w2 : Word
  w3 : Word
  deriving DecidableEq, Repr

/-- One dimension of a tensor descriptor (Table 11.4). -/
structure Dim where
  size : Nat
  org : Nat
  ext : Nat
  sst : Int
  dst : Int
  deriving DecidableEq, Repr

/-- A tensor descriptor (Table 11.4). -/
structure Desc where
  sfmt : Nat
  dfmt : Nat
  fill : Nat
  seed : BitVec 32
  band : Nat
  slice : BitVec 16
  boff : Int
  dims : List Dim
  deriving DecidableEq, Repr

/-- A request the copy engine works on (R226). -/
structure CopyJob where
  entry : BitVec 4
  order : Nat
  ctx : Nat
  launch : Nat
  w0 : Word
  w1 : Word
  w2 : Word
  w3 : Word
  err : Nat
  /-- claimed start index and slots, once claimed -/
  claim : Option (BitVec 32 × Nat)
  /-- landing packets still to place: payload bytes, and their place (m1, m2, m3) -/
  packets : List (List Byte × Word × Word)
  /-- a network copy waits for its acknowledgement (R363) -/
  network : Bool
  bytes : Nat
  amax : Word
  moved : Bool
  /-- its context was killed: it publishes without a record (R233, R264) -/
  dead : Bool
  /-- the cycle in which it began to wait, for slots of its reel or for room in a landing ring (R235) -/
  waits : Option Nat
  /-- the descriptor as it was read and validated at the start (R222, R226) -/
  desc : Desc
  deriving DecidableEq, Repr

/-! ## Cells -/

/-- A producer that waits for a slot of a completion queue (R234, R235): a print, a block read, a closure event, a moved cell. -/
inductive Waiter
  | print (cell th : Nat)
  | block (req : Nat)
  | closure (sid : Nat)
  | retarget
  deriving DecidableEq, Repr

/-- One entry of the watch table (R272). -/
structure Watch where
  th : Nat
  key : Nat
  ctx : Nat
  fired : Bool
  evicted : Bool
  deriving DecidableEq, Repr

/-- A decided move whose launch's share has ended: old stage, new stage, intn, and whether the cell's idstage has been written for it (R291). -/
structure EndedMove where
  old : Nat
  new : Nat
  intn : BitVec 32
  written : Bool
  deriving DecidableEq, Repr

/-- What a resident context owns at a cell: its tables (13_tables), identity registers (R88), handle store and completion
queue (R236), and its stage allotment. -/
structure Position where
  ctx : Option Nat
  regions : RegFile 4 Word
  scratch : Word
  handlers : Tab Word
  grants : Tab Word
  hstore : Tab Handle
  idstage : Word
  idslice : Word
  idorg : RegFile 2 Word
  idext : RegFile 2 Word
  cq : List Msg
  cqHeld : Bool
  cqReported : Option Nat
  cqSince : Option Word
  /-- the stage-table entry the cell serves -/
  stage : Option Nat
  stageReported : Option Nat
  /-- moves decided and not yet carried out, oldest first: old stage, new stage, intn (R291) -/
  retarget : List (Nat × Nat × BitVec 32)
  /-- moves decided before the share of their launch ended, whose message is still to be placed, oldest first (R291) -/
  moved : List EndedMove
  /-- landing packets in placement order: ring offset, message, and the bytes it takes in the ring (R271) -/
  landings : List (Nat × Msg × Nat)
  landReported : Option Nat
  /-- the cycle in which the stage's head, and the landing ring's, became dispatchable (R296) -/
  stageSince : Option Word
  landSince : Option Word
  /-- per class, the first cycle after the last write of its handler entry (R279), and after the last management write (Table 13.10) -/
  boundAt : Tab Word
  mgmtAt : Tab Word
  /-- producers that wait for a slot of the completion queue, in the order in which they began to wait (R235) -/
  cqWait : List Waiter
  deriving DecidableEq, Repr

structure Cell where
  threads : RegFile 3 Thread
  v : RegFile 5 Vec
  t : RegFile 3 Tile
  tcfg : RegFile 3 Word
  acc : RegFile 2 Acc
  /-- the thread that holds the engine files, the context of the last holder, and the threads that wait (R77, R78) -/
  efOwner : Option Nat
  efCtx : Option Nat
  efWait : List Nat
  /-- the cycle from which the holder has the use of the files: they are zeroed first where the context changed (R78) -/
  efReady : Nat
  /-- the context of the last take that had the scratch window of each thread; none once tables of the cell changed (R79, R183) -/
  scrCtx : RegFile 3 (Option Nat)
  vxq : List EngOp
  vxf : Option EngOp
  mxq : List EngOp
  mxf : Option EngOp
  cpq : List EngOp
  /-- threads that wait for a full trigger queue, as (unit, thread), in the order in which they began to wait (R43, R235) -/
  qWait : List (Nat × Nat)
  /-- the cycle in which entries of trigger queues were last freed, and the unit of each entry freed in it (R43, R163) -/
  qFreed : Nat × List Nat
  /-- the cycle after the one in which each engine last started an operation (R144, R164) -/
  vxPop : Nat
  mxPop : Nat
  fifo : RegFile 4 FifoEntry
  jobs : List CopyJob
  pos : RegFile 2 Position
  sends : List SendEnd
  recvs : List RecvEnd
  homes : List Home
  stubs : List Stub
  msgCtr : Nat
  watch : List Watch
  slots : Word
  rr : BitVec 3
  /-- the cycle after the one in which the cell last issued a word -/
  issuedAt : Nat
  perfSel : RegFile 3 Word
  perfCnt : RegFile 3 (BitVec 48)
  reports : List Report
  /-- the cycle of the last dispatch: a cell dispatches at most one take per cycle (R296) -/
  dispatched : Option Word
  deriving DecidableEq, Repr

/-! ## Groves and dies -/

/-- The message a gate holds, with the identity its DATA packet will carry (R316, R318). -/
structure GateMsg where
  chan : Nat
  ctx : Nat
  home : Nat
  sid : Nat
  seq : Nat
  mv : Nat
  msg : Msg
  deriving DecidableEq, Repr

/-- A gate and the message it holds (R314). -/
structure Gate where
  word : Word
  held : Option GateMsg
  deriving DecidableEq, Repr

/-- A grove join of one context (R175). -/
structure Join where
  ctx : Nat
  t : Word
  a : Word
  tb : Bool
  k : Nat
  fmtClass : Nat
  cells : List Nat
  deriving DecidableEq, Repr

structure Grove where
  windows : Tab Word
  pinned : Tab (BitVec 128)
  gates : Tab Gate
  joins : List Join
  /-- most recently used first -/
  tlb : List TlbEntry
  /-- the sealing engine's record counter (R371) -/
  records : Nat
  deriving DecidableEq, Repr

/-- A stage-table entry (Table 13.4), with the popped and returned masks (R287) and the balancer's accumulator (R290). -/
structure Stage where
  v : Bool
  hold : Bool
  ctx : BitVec 12
  cls : BitVec 5
  k : BitVec 4
  min : BitVec 9
  max : BitVec 9
  cur : BitVec 9
  grove : BitVec 4
  lid : BitVec 8
  hdr : BitVec 24
  pidx : BitVec 32
  popped : List (BitVec 32)
  returned : List (BitVec 32)
  launch : Nat
  acc : Nat
  /-- the launch that each entry written by a send belongs to, by index; others belong to the stage's own (R321) -/
  tags : List (BitVec 32 × Nat)
  /-- the first cycle in which an entry that returned can be popped, and widx as it stood at the end of the last cycle (R235) -/
  backAt : Nat
  seen : BitVec 32
  deriving DecidableEq, Repr

/-- A context record (Table 15.2). -/
structure CtxRec where
  ridx : BitVec 32
  widx : BitVec 32
  k : BitVec 4
  base : BitVec 32
  pre : Bool
  kill : Bool
  deriving DecidableEq, Repr

/-- Who submitted a launch (R282, R353). -/
inductive Submitter
  | take (cell ctx : Nat)
  | host (f : Nat) (index : BitVec 32) (vec : BitVec 11) (irq : Bool)
  deriving DecidableEq, Repr

/-- A launch's placement on one die (R283): its launch number there, stage entries in descriptor order, cells allotted, the group entries it
replaced, and the cells at which identity registers and handles have still to be written (R91, R284). -/
structure Placement where
  die : Nat
  lid : Nat
  stages : List Nat
  cells : List Nat
  groups : Tab (BitVec 384)
  todo : List Nat
  deriving DecidableEq, Repr

/-- A launch: its descriptor bytes, its placement, its completion counters (R280–R286, R321, R322). -/
structure Launch where
  id : Nat
  ctx : Nat
  by_ : Submitter
  desc : List Byte
  /-- dies still to place on -/
  waiting : List Nat
  placed : List Placement
  /-- groves that reported UP, and those whose report is confirmed -/
  up : List Nat
  confirmed : List Nat
  /-- dies whose placement item is retired -/
  armed : List Nat
  status : Nat
  /-- it has ended with `status`, and its slot of the done reel is claimed at an index (R264, R286) -/
  claim : Option (BitVec 32)
  /-- the cycle in which its record began to wait for a slot of the done reel, and the key of that reel's header (R235) -/
  waits : Option (Nat × Nat)
  deriving DecidableEq, Repr

/-- A kill flood (R343, R344): its context, the cycle of its start, the cells that performed the kill, the dies whose routers have
ended their sweep, the cells that reported done, and whether the host has answered the flush read. -/
structure Kill where
  ctx : Nat
  start : Nat
  swept : List Nat
  routers : List Nat
  done : List Nat
  flushed : Bool
  deriving DecidableEq, Repr

/-- One atomic standing in a proxy lane (R198, R364). -/
structure LaneEntry where
  req : Nat
  issued : Bool
  /-- the home keys under which it entered the lane -/
  keys : List Nat
  deriving DecidableEq, Repr

/-- A completion of a wired set on its way: its cycle, the cells that took part, gen as it left it, and the context of the set then (R312). -/
structure Delivery where
  at_ : Nat
  cells : List Nat
  gen : BitVec 16
  ctx : Nat
  deriving DecidableEq, Repr

structure Die where
  stages : RegFile 5 Stage
  balancer : Word
  groups : Tab (BitVec 384)
  wired : RegFile 2 Word
  /-- a management write waiting for busy = 0, per set -/
  wiredWrites : List (Nat × Word)
  /-- completions of each set still to be delivered, oldest first: the cycle, the cells that took part, and gen as it left it (R312) -/
  wiredAt : RegFile 2 (List Delivery)
  ctxRecs : Tab CtxRec
  roots : Tab Word
  seedCtr : Nat
  nextLid : BitVec 8
  lanes : Tab (List LaneEntry)
  /-- the bring-up step of the die (R384): 0 before the test, 1 tested, 2 HBM done, 3 finished -/
  bringup : Nat
  /-- the rule of reduced speed was lifted once (R387) -/
  raised : Bool
  deriving DecidableEq, Repr

/-! ## Splice packets (Table 12.10) -/

inductive Packet
  | data (chan ctx home : Nat) (sid seq mv : Nat) (isClose : Bool) (msg : Msg)
  | note (chan ctx : Nat) (n : Note)
  /-- a forwarded NOTE, or a forwarded RETURN with its hold -/
  | fwd (chan ctx : Nat) (ret : Option Bool) (n : Note)
  | free (chan ctx home : Nat) (slot : Nat) (sid : Nat)
  /-- `hold`: the take was cut by a fault, so the hold follows the end (R335) -/
  | ret (chan ctx : Nat) (n : Note) (hold : Bool)
  | credit (ctx sid cnsm : Nat)
  | reg (chan ctx : Nat) (sid cell mv : Nat)
  | moved (chan ctx : Nat) (sid cell mv : Nat)
  | pull (chan ctx : Nat) (newHolder : Nat)
  | ship (chan ctx home : Nat) (gen b : Nat) (notes returned : List Note) (running : Nat) (held : Bool)
  | move (chan ctx : Nat) (prev new gen : Nat)
  | fin (chan ctx : Nat) (a : Nat)
  | closer (chan ctx : Nat)
  /-- the sequence number of a gated message that was discarded (R315) -/
  | skip (chan ctx sid seq : Nat)
  /-- the home's closure event for a send end, on its way to the cell that holds it (R253) -/
  | closure (ctx sid : Nat)
  deriving DecidableEq, Repr

/-- A packet in flight: its id, its destination cell. -/
structure Flight where
  id : Nat
  dst : Nat
  pkt : Packet
  /-- the cycle in which it was sent -/
  born : Nat
  deriving DecidableEq, Repr

/-! ## Host, peers, security core -/

/-- A partition's control word and queue registers (Tables 16.1, 16.2), its MSI-X capability and table, and records that wait (R354). -/
structure Partition where
  ctl : Word
  sqbase : Word
  sqk : Word
  sqtail : BitVec 32
  sqhead : BitVec 32
  cqbase : Word
  cqk : Word
  cqtail : BitVec 32
  cqhead : BitVec 32
  /-- records waiting for room: word 0 less index and phase, word 1, and the interrupt -/
  records : List (Word × Word × Option Nat)
  /-- MSI-X enable, function mask, and per vector its message address and data (R355) -/
  msixOn : Bool
  msixMask : Bool
  msixTable : Tab (Word × BitVec 32)
  unmasked : List Nat
  pend : List Nat
  /-- MSI-X messages sent, oldest first: vector, address, data -/
  msix : List (Nat × Word × BitVec 32)
  /-- a submission entry taken and its descriptor read in flight: index, entry word 0, descriptor address -/
  reading : Option (BitVec 32 × Word × Word)
  /-- the cycle of the last doorbell write that was accepted (Table 16.6) -/
  rang : Option (Word × BitVec 32)
  deriving DecidableEq, Repr

/-- The mailbox (Table 17.1). -/
structure Mailbox where
  go : Bool
  cmd : BitVec 16
  done : Bool
  st : BitVec 16
  args : RegFile 3 Word
  ievt : BitVec 32
  /-- a SESSION waits for the key service: tenant id, tenant slot, the cycle of its start (R375) -/
  session : Option (BitVec 32 × BitVec 6 × Nat)
  /-- a GRANT is written and waits for these takes: cell, thread (R293) -/
  granting : Option (List (Nat × Nat))
  deriving DecidableEq, Repr

/-- A key-store slot (Table 17.4); the key is read by no command. -/
structure KeySlot where
  v : Bool
  kind : BitVec 2
  susp : Bool
  tenant : BitVec 32
  gen : BitVec 16
  key : BitVec 512
  /-- the message key derived from a tenant key (R375) -/
  msgKey : BitVec 256
  deriving DecidableEq, Repr

/-- A sealed range (Table 17.5). -/
structure SealedRange where
  v : Bool
  sw : Bool
  slot : BitVec 6
  nslot : BitVec 6
  hlt : Bool
  sptr : BitVec 32
  macbase : BitVec 48
  len : BitVec 48
  base : BitVec 48
  deriving DecidableEq, Repr

/-! ## The device -/

structure State where
  cyc : Word
  mem : List Host.Cell
  cells : Tab Cell
  groves : Tab Grove
  dies : RegFile 2 Die
  parts : RegFile 4 Partition
  domain : Word
  inbound : Tab (BitVec 128)
  windows : RegFile 3 Word
  /-- reduction-window changes waiting for acknowledgements (R199) -/
  windowWrites : List (Nat × Word)
  /-- pinned-region changes waiting for the requests that use the entry (R294) -/
  pinnedWrites : List (Nat × Nat × BitVec 128)
  /-- invalidations waiting for granted takes and their effects (R189): context, address, level -/
  invalidations : List (Nat × Word × BitVec 2)
  mailbox : Mailbox
  secWords : Tab Word
  keys : RegFile 6 KeySlot
  ranges : RegFile 6 SealedRange
  measure : RegFile 4 (BitVec 256)
  /-- the nonce of this boot (R375) -/
  nonce : BitVec 256
  /-- the MACs of blocks that the copy engine sealed under a pinned-region entry's key for a protected context, by block address: the range's own
  MAC array holds the grove engine's (R230, R371). DESIGN CHOICE (log 56) -/
  innerMacs : Tab (BitVec 64)
  cap : Word
  /-- step 3 of bring-up is under way: the digest of Nivar's own configuration, extended when it ends (R384) -/
  step3 : Option (BitVec 256)
  /-- Nivar has set the domain register in this boot (R384) -/
  domainSet : Bool
  launches : List Launch
  nextLaunch : Nat
  reqs : List Req
  nextReq : Nat
  flights : List Flight
  nextFlight : Nat
  nextOp : Nat
  nextKick : Nat
  /-- the deep-sleep save area, while asleep (R381): base, and the contexts suspended -/
  asleep : Option (Nat × Nat)
  /-- partition whose submission is taken next (R353) -/
  sqNext : BitVec 4
  /-- kill floods not yet confirmed (R343) -/
  kills : List Kill
  /-- claimed reel slots whose producer is gone, by header key and index (R264) -/
  claims : List (Nat × BitVec 32)
  /-- counter of free values; the model's own, DESIGN CHOICE (log 1) -/
  fresh : Nat
  /-- the cell and thread whose word issues; the model's own (log 9) -/
  cur : Nat × BitVec 3
  /-- cells that have still to issue in this cycle; the model's own (log 9) -/
  todo : List Nat
  /-- requests, and copy requests by the order of their kick, on whose read a home reports an uncorrectable error (R188); an input, the
  model's own, DESIGN CHOICE (log 86) -/
  reqErrors : List Nat
  copyErrors : List Nat
  opErrors : List Nat
  /-- what happens next from outside, oldest first; the model's own, DESIGN CHOICE (log 10) -/
  agenda : List Instr
  deriving DecidableEq, Repr

/-! ## Reset -/

def Msg.none : Msg := ⟨0, [], Option.none, 0⟩

def Past.reset : Past := ⟨none, 0, 0, 0, [], []⟩

/-- DESIGN CHOICE (log 3). -/
def Thread.reset : Thread where
  g := Vector.replicate 32 0
  p := (Vector.replicate 8 false).set 0 true
  e := Vector.replicate 8 0
  h := Vector.replicate 8 0
  m := Vector.replicate 8 0
  slate := 0
  pc := 0
  la := Vector.replicate 16 0
  lb := Vector.replicate 16 0
  y := Vector.replicate 16 .untriggered
  amax := Vector.replicate 4 0
  sk := Vector.replicate 4 0
  lc := Vector.replicate 2 LoopCtr.reset
  fpst := 0
  vxst := 0
  mxst := 0
  orc := 0
  reqseq := 0
  bdgt := 0
  ctx := 0
  cls := 0
  frame := Vector.replicate 64 0
  phase := .idle
  pinned := false
  msg := Msg.none
  origin := .completion
  effects := []
  undo := []
  consumed := []
  words := 0
  takes := 0
  grants := []
  pages := []
  pinning := false
  waits := none
  wants := none
  past := Past.reset

def FifoEntry.reset : FifoEntry := ⟨.free, 0, 0, 0, 0, 0, 0, 0⟩

def Position.reset : Position where
  ctx := none
  regions := Vector.replicate 16 0
  scratch := 0
  handlers := []
  grants := []
  hstore := []
  idstage := 0
  idslice := 0
  idorg := Vector.replicate 4 0
  idext := Vector.replicate 4 0
  cq := []
  cqHeld := false
  cqReported := none
  cqSince := none
  stage := none
  stageReported := none
  retarget := []
  moved := []
  landings := []
  landReported := none
  stageSince := none
  landSince := none
  boundAt := []
  mgmtAt := []
  cqWait := []

/-- DESIGN CHOICE (log 3). -/
def Cell.reset : Cell where
  threads := Vector.replicate 8 Thread.reset
  v := Vector.replicate 32 0
  t := Vector.replicate 8 0
  tcfg := Vector.replicate 8 0
  acc := Vector.replicate 4 0
  efOwner := none
  efCtx := none
  efWait := []
  efReady := 0
  scrCtx := Vector.replicate 8 none
  vxq := []
  vxf := none
  mxq := []
  mxf := none
  cpq := []
  qWait := []
  qFreed := (0, [])
  vxPop := 0
  mxPop := 0
  fifo := Vector.replicate 16 FifoEntry.reset
  jobs := []
  pos := Vector.replicate 4 Position.reset
  sends := []
  recvs := []
  homes := []
  stubs := []
  msgCtr := 0
  watch := []
  slots := 0
  rr := 0
  issuedAt := 0
  perfSel := Vector.replicate 8 0
  perfCnt := Vector.replicate 8 0
  reports := []
  dispatched := none

/-- DESIGN CHOICE (log 3). -/
def Grove.reset : Grove := ⟨[], [], [], [], [], 0⟩

def Stage.reset : Stage := ⟨false, false, 0, 0, 0, 0, 0, 0, 0, 0, 0, 0, [], [], 0, 0, [], 0, 0⟩

def CtxRec.reset : CtxRec := ⟨0, 0, 0, 0, false, false⟩

/-- The balancer's reset: en 1, ilog 16, intn 0 (Table 13.5). DESIGN CHOICE (log 3). -/
def Die.reset : Die where
  stages := Vector.replicate 32 Stage.reset
  balancer := 0x8000001000000000#64
  groups := []
  wired := Vector.replicate 4 0
  wiredWrites := []
  wiredAt := Vector.replicate 4 []
  ctxRecs := []
  roots := []
  seedCtr := 0
  nextLid := 0
  lanes := []
  bringup := 0
  raised := false

/-- PRESUMED (log 66). -/
def Partition.reset : Partition := ⟨0, 0, 0, 0, 0, 0, 0, 0, 0, [], false, false, [], [], [], [], none, none⟩

def Mailbox.reset : Mailbox := ⟨false, 0, false, 0, Vector.replicate 8 0, 0, none, none⟩

def KeySlot.reset : KeySlot := ⟨false, 0, false, 0, 0, 0, 0⟩

def SealedRange.reset : SealedRange := ⟨false, false, 0, 0, false, 0, 0, 0, 0⟩

/-- The device right after reset: every register at the spec's reset value; the log names each value the spec does not give.
DESIGN CHOICE (log 3, 4). -/
def State.reset : State where
  cyc := 0
  mem := []
  cells := []
  groves := []
  dies := Vector.replicate 4 Die.reset
  parts := Vector.replicate 16 Partition.reset
  domain := 0
  inbound := []
  windows := Vector.replicate 8 0
  windowWrites := []
  pinnedWrites := []
  invalidations := []
  mailbox := Mailbox.reset
  secWords := []
  keys := Vector.replicate 64 KeySlot.reset
  ranges := Vector.replicate 64 SealedRange.reset
  measure := Vector.replicate 16 0
  nonce := 0
  innerMacs := []
  cap := 0
  step3 := none
  domainSet := false
  launches := []
  nextLaunch := 1
  reqs := []
  nextReq := 1
  flights := []
  nextFlight := 1
  nextOp := 1
  nextKick := 1
  asleep := none
  sqNext := 0
  kills := []
  claims := []
  fresh := 0
  cur := (0, 0)
  todo := []
  reqErrors := []
  copyErrors := []
  opErrors := []
  agenda := []

end Sys2Proof.Machine
end

