-- ==== Sys2Proof/Machine/Float.lean ====
section
/-! DEFINITION. Element formats as exact values, and arithmetic and conversion rounded once (05_formats R102–R114, 06_scalar_ops R133–R137). -/

namespace Sys2Proof.Machine

/-- An exact value: NaN, an infinity, or a signed dyadic number m × 2^e. -/
inductive FV
  | nan
  | inf (neg : Bool)
  | fin (neg : Bool) (m : Nat) (e : Int)
  deriving DecidableEq, Repr

/-- A floating-point format: exponent and mantissa bits, bias, the code of the largest finite magnitude, whether the next code is an
infinity, and the canonical NaN where there is one (Table 5.2, R104). -/
structure FSpec where
  ebits : Nat
  mbits : Nat
  bias : Nat
  maxCode : Nat
  hasInf : Bool
  nan : Option Nat
  deriving DecidableEq, Repr

def specF32 : FSpec := ⟨8, 23, 127, 0x7F7FFFFF, true, some 0x7FC00000⟩
def specBf16 : FSpec := ⟨8, 7, 127, 0x7F7F, true, some 0x7FC0⟩
def specF16 : FSpec := ⟨5, 10, 15, 0x7BFF, true, some 0x7E00⟩
def specE4m3 : FSpec := ⟨4, 3, 7, 0x7E, false, some 0x7F⟩
def specE5m2 : FSpec := ⟨5, 2, 15, 0x7B, true, some 0x7E⟩
def specE2m3 : FSpec := ⟨2, 3, 1, 0x1F, false, none⟩
def specE3m2 : FSpec := ⟨3, 2, 3, 0x1F, false, none⟩
def specE2m1 : FSpec := ⟨2, 1, 1, 7, false, none⟩

/-- The spec of a format whose elements are floating point; a block format's elements have their element format (R107, R108). -/
def fspec : Fmt → Option FSpec
  | .f32 => some specF32
  | .bf16 => some specBf16
  | .f16 => some specF16
  | .e4m3 => some specE4m3
  | .e5m2 => some specE5m2
  | .e2m3 => some specE2m3
  | .e3m2 => some specE3m2
  | .e2m1 => some specE2m1
  | .lbf4 => some specE2m1
  | .mx8e4 => some specE4m3
  | .mx8e5 => some specE5m2
  | .mx6e2 => some specE2m3
  | .mx6e3 => some specE3m2
  | .mx4 => some specE2m1
  | .byte => none
  | .i8 => none
  | .i16 => none
  | .i32 => none
  | .i64 => none
  | .uint8 => none
  | .i4 => none

/-- Element width in bits (Table 6.5). -/
def fmtWidth : Fmt → Nat
  | .byte => 8 | .i8 => 8 | .uint8 => 8 | .e4m3 => 8 | .e5m2 => 8 | .mx8e4 => 8 | .mx8e5 => 8
  | .i16 => 16 | .bf16 => 16 | .f16 => 16
  | .i32 => 32 | .f32 => 32
  | .i64 => 64
  | .e2m3 => 6 | .e3m2 => 6 | .mx6e2 => 6 | .mx6e3 => 6
  | .e2m1 => 4 | .lbf4 => 4 | .mx4 => 4 | .i4 => 4

/-- Signed integer formats (R103). -/
def isSignedInt : Fmt → Bool
  | .i8 => true | .i16 => true | .i32 => true | .i64 => true | .i4 => true | _ => false

def isIntFmt (f : Fmt) : Bool := isSignedInt f || f == .uint8

/-- Block length of a block format, 0 for others (R107, R108). -/
def blockLen : Fmt → Nat
  | .lbf4 => 8
  | .mx8e4 => 32 | .mx8e5 => 32 | .mx6e2 => 32 | .mx6e3 => 32 | .mx4 => 32
  | _ => 0

/-- The blk field a tag of this format must hold (R100). -/
def fmtBlk (f : Fmt) : Nat := if blockLen f = 8 then 3 else if blockLen f = 32 then 5 else 0

/-- The format of a code; none for 21 to 31 (Table 3.14). -/
def fmtOfCode (n : Nat) : Option Fmt := Fmt.ofNat? n

/-! ## Decoding -/

def decodeFp (f : FSpec) (bits : Nat) : FV :=
  let neg := decide (1 ≤ bits / 2 ^ (f.ebits + f.mbits) % 2)
  let k := bits % 2 ^ (f.ebits + f.mbits)
  if f.maxCode < k then
    if f.hasInf && k == f.maxCode + 1 then .inf neg else .nan
  else
    let e := k / 2 ^ f.mbits
    let m := k % 2 ^ f.mbits
    if e = 0 then .fin neg m (1 - (f.bias : Int) - f.mbits)
    else .fin neg (2 ^ f.mbits + m) ((e : Int) - f.bias - f.mbits)

def intBits (w : Nat) (signed : Bool) (bits : Nat) : Int :=
  let x := bits % 2 ^ w
  if signed && decide (2 ^ (w - 1) ≤ x) then (x : Int) - 2 ^ w else x

def fvOfInt (i : Int) : FV := .fin (decide (i < 0)) i.natAbs 0

/-- The value of a scalar element (R102, R103). DEDUCED (log 83). -/
def decodeElem (f : Fmt) (bits : Nat) : FV :=
  match fspec f with
  | some sp => decodeFp sp (bits % 2 ^ fmtWidth f)
  | none => if f == .byte then fvOfInt (Config.byteValue (bits % 256)) else fvOfInt (intBits (fmtWidth f) (isSignedInt f) bits)

/-! ## Rounding -/

/-- Rounding directions; a stochastic one carries its draw (R110, R114). -/
inductive RMode
  | rne | rtz | rdn | rup
  | stoch (draw : Nat)
  deriving DecidableEq, Repr

def bitLen (m : Nat) : Nat := if m = 0 then 0 else Nat.log2 m + 1

/-- Whether the magnitude k + (r + sticky)/2^s rounds up. -/
def roundsUp (mode : RMode) (neg : Bool) (k r s : Nat) (sticky : Bool) : Bool :=
  let inexact := r != 0 || sticky
  match mode with
  | .rne => decide (2 ^ s < 2 * r) || (2 * r == 2 ^ s && (sticky || k % 2 == 1)) 
  | .rtz => false
  | .rdn => neg && inexact
  | .rup => !neg && inexact
  | .stoch d => decide (2 ^ 32 ≤ r * 2 ^ 32 / 2 ^ s + d)

/-- A rounded magnitude: its code in the format (past `maxCode` on overflow), inexactness, and tininess after rounding. -/
structure Rounded where
  code : Nat
  inexact : Bool
  tiny : Bool
  deriving DecidableEq, Repr

/-- The magnitude at ulp exponent q: the integer part, and what is left as r / 2^s. -/
def splitAt (m : Nat) (e q : Int) : Nat × Nat × Nat :=
  if q ≤ e then (m * 2 ^ (e - q).toNat, 0, 0)
  else
    let s := (q - e).toNat
    (m / 2 ^ s, m % 2 ^ s, s)

/-- Rounds m × 2^e (plus less than 2^e where sticky) into a format (R110). -/
def roundMag (f : FSpec) (mode : RMode) (neg : Bool) (m : Nat) (e : Int) (sticky : Bool) : Rounded :=
  if m = 0 && !sticky then ⟨0, false, false⟩
  else
    let lead := e + bitLen m - 1
    let emin : Int := 1 - f.bias
    let q := max lead emin - f.mbits
    let (k, r, s) := splitAt m e q
    let k' := if roundsUp mode neg k r s sticky then k + 1 else k
    let code := (q - (emin - f.mbits)).toNat * 2 ^ f.mbits + k'
    let (ku, ru, su) := splitAt m e (lead - f.mbits)
    let up := roundsUp mode neg ku ru su sticky
    let tiny := decide (lead < emin) && !(lead + 1 == emin && up && ku + 1 == 2 ^ (f.mbits + 1))
    ⟨code, r != 0 || sticky, tiny⟩

def signBit (f : FSpec) (neg : Bool) : Nat := if neg then 2 ^ (f.ebits + f.mbits) else 0

/-! ## Scalar and vector arithmetic on FP32-like formats -/

/-- The five exception flags (Table 4.7). -/
structure FFlags where
  nv : Bool
  dz : Bool
  ov : Bool
  uf : Bool
  nx : Bool
  deriving DecidableEq, Repr

def FFlags.none : FFlags := ⟨false, false, false, false, false⟩

def flagBits (f : FFlags) : Nat :=
  (if f.nv then 16 else 0) + (if f.dz then 8 else 0) + (if f.ov then 4 else 0) + (if f.uf then 2 else 0) + (if f.nx then 1 else 0)

/-- The overflow result of IEEE 754 in a direction (R133). -/
def overflowInf (mode : RMode) (neg : Bool) : Bool :=
  match mode with
  | .rne => true
  | .rtz => false
  | .rdn => neg
  | .rup => !neg
  | .stoch _ => false

/-- Packs an exact finite result by IEEE 754 (R133). -/
def packIeee (f : FSpec) (mode : RMode) (neg : Bool) (m : Nat) (e : Int) (sticky : Bool) : Nat × FFlags :=
  let r := roundMag f mode neg m e sticky
  if f.maxCode < r.code then
    (signBit f neg + (if overflowInf mode neg then f.maxCode + 1 else f.maxCode), ⟨false, false, true, false, true⟩)
  else (signBit f neg + r.code, ⟨false, false, false, r.tiny && r.inexact, r.inexact⟩)

def nanOf (f : FSpec) : Nat := f.nan.getD 0

def invalidRes (f : FSpec) : Nat × FFlags := (nanOf f, ⟨true, false, false, false, false⟩)

def infCode (f : FSpec) (neg : Bool) : Nat := signBit f neg + f.maxCode + 1

def negFV : FV → FV
  | .nan => .nan
  | .inf n => .inf (!n)
  | .fin n m e => .fin (!n) m e

/-- The signed integer of a dyadic at exponent `e0` (at most its own). -/
def alignInt (neg : Bool) (m : Nat) (e e0 : Int) : Int :=
  let x : Int := ((m * 2 ^ (e - e0).toNat : Nat) : Int)
  if neg then -x else x

/-- The exact sum of two values; an exact zero sum is +0, under `.rdn` -0, and of two -0 always -0 (R134). DEDUCED (log 98). -/
def addFV (mode : RMode) (a b : FV) : Option FV :=
  match a, b with
  | .nan, _ => some .nan
  | _, .nan => some .nan
  | .inf x, .inf y => if x == y then some (.inf x) else none
  | .inf x, .fin _ _ _ => some (.inf x)
  | .fin _ _ _, .inf y => some (.inf y)
  | .fin n1 m1 e1, .fin n2 m2 e2 =>
    let e := min e1 e2
    let v := alignInt n1 m1 e1 e + alignInt n2 m2 e2 e
    if v = 0 then
      some (.fin ((n1 && n2 && m1 == 0 && m2 == 0) || mode == .rdn) 0 e)
    else some (.fin (decide (v < 0)) v.natAbs e)

/-- The exact product; none where it is invalid (0 × inf). -/
def mulFV (a b : FV) : Option FV :=
  match a, b with
  | .nan, _ => some .nan
  | _, .nan => some .nan
  | .inf x, .inf y => some (.inf (x != y))
  | .inf x, .fin n m _ => if m = 0 then none else some (.inf (x != n))
  | .fin n m _, .inf y => if m = 0 then none else some (.inf (n != y))
  | .fin n1 m1 e1, .fin n2 m2 e2 => some (.fin (n1 != n2) (m1 * m2) (e1 + e2))

def packFV (f : FSpec) (mode : RMode) (v : Option FV) : Nat × FFlags :=
  match v with
  | none => invalidRes f
  | some .nan => (nanOf f, FFlags.none)
  | some (.inf n) => (infCode f n, FFlags.none)
  | some (.fin n m e) => packIeee f mode n m e false

def addFp (f : FSpec) (mode : RMode) (a b : Nat) : Nat × FFlags := packFV f mode (addFV mode (decodeFp f a) (decodeFp f b))

def subFp (f : FSpec) (mode : RMode) (a b : Nat) : Nat × FFlags :=
  packFV f mode (addFV mode (decodeFp f a) (negFV (decodeFp f b)))

def mulFp (f : FSpec) (mode : RMode) (a b : Nat) : Nat × FFlags := packFV f mode (mulFV (decodeFp f a) (decodeFp f b))

/-- a × b + c rounded once, the sum by `sum`; 0 × inf is invalid with any c (R134). -/
def fmaWith (sum : FV → FV → Option FV) (f : FSpec) (mode : RMode) (a b c : Nat) : Nat × FFlags :=
  match decodeFp f a, decodeFp f b with
  | .nan, _ => (nanOf f, FFlags.none)
  | _, .nan => (nanOf f, FFlags.none)
  | x, y =>
    match mulFV x y with
    | none => invalidRes f
    | some p => packFV f mode (sum p (decodeFp f c))

def fmaFp (f : FSpec) (mode : RMode) (a b c : Nat) : Nat × FFlags := fmaWith (addFV mode) f mode a b c

/-- Integer square root, deciding one bit at a time. -/
def isqrtBits (x : Nat) : Nat → Nat → Nat
  | 0, r => r
  | i + 1, r => if (r + 2 ^ i) * (r + 2 ^ i) ≤ x then isqrtBits x i (r + 2 ^ i) else isqrtBits x i r

def isqrt (x : Nat) : Nat := isqrtBits x (bitLen x / 2 + 1) 0

/-- The root of m × 2^e to at least 64 bits, as magnitude, exponent and stickiness. -/
def rootParts (m : Nat) (e : Int) : Nat × Int × Bool :=
  let sh : Nat := 128 + (if (e - 128) % 2 = 0 then 0 else 1)
  let x := m * 2 ^ sh
  let r := isqrt x
  (r, (e - sh) / 2, r * r != x)

def sqrtFp (f : FSpec) (mode : RMode) (a : Nat) : Nat × FFlags :=
  match decodeFp f a with
  | .nan => (nanOf f, FFlags.none)
  | .inf n => if n then invalidRes f else (infCode f false, FFlags.none)
  | .fin n m e =>
    if m = 0 then (signBit f n, FFlags.none)
    else if n then invalidRes f
    else
      let (r, e', st) := rootParts m e
      packIeee f mode false r e' st

/-- The quotient m1 × 2^e1 / (m2 × 2^e2) to at least 64 bits. -/
def quotParts (m1 : Nat) (e1 : Int) (m2 : Nat) (e2 : Int) : Nat × Int × Bool :=
  let sh : Nat := 96 + bitLen m2
  let x := m1 * 2 ^ sh
  (x / m2, e1 - e2 - sh, x % m2 != 0)

def divFp (f : FSpec) (mode : RMode) (a b : Nat) : Nat × FFlags :=
  match decodeFp f a, decodeFp f b with
  | .nan, _ => (nanOf f, FFlags.none)
  | _, .nan => (nanOf f, FFlags.none)
  | .inf _, .inf _ => invalidRes f
  | .inf x, .fin n _ _ => (infCode f (x != n), FFlags.none)
  | .fin n _ _, .inf y => (signBit f (n != y), FFlags.none)
  | .fin n1 m1 e1, .fin n2 m2 e2 =>
    if m2 = 0 then
      if m1 = 0 then invalidRes f else (infCode f (n1 != n2), ⟨false, true, false, false, false⟩)
    else if m1 = 0 then (signBit f (n1 != n2), FFlags.none)
    else
      let (q, e, st) := quotParts m1 e1 m2 e2
      packIeee f mode (n1 != n2) q e st

/-- 1 / a (R134). -/
def rcpFp (f : FSpec) (mode : RMode) (a : Nat) : Nat × FFlags :=
  match decodeFp f a with
  | .nan => (nanOf f, FFlags.none)
  | .inf n => (signBit f n, FFlags.none)
  | .fin n m e =>
    if m = 0 then (infCode f n, ⟨false, true, false, false, false⟩)
    else
      let (q, e', st) := quotParts 1 0 m e
      packIeee f mode n q e' st

/-- The order of two values, none where one is NaN; -0 equals +0. -/
def cmpFV (a b : FV) : Option Ordering :=
  match a, b with
  | .nan, _ => none
  | _, .nan => none
  | .inf x, .inf y => some (if x == y then .eq else if x then .lt else .gt)
  | .inf x, .fin _ _ _ => some (if x then .lt else .gt)
  | .fin _ _ _, .inf y => some (if y then .gt else .lt)
  | .fin n1 m1 e1, .fin n2 m2 e2 =>
    let e := min e1 e2
    some (compare (alignInt n1 m1 e1 e) (alignInt n2 m2 e2 e))

def isNegFV : FV → Bool
  | .nan => false
  | .inf n => n
  | .fin n _ _ => n

/-- The lesser (or greater) operand, -0 below +0, the other of a NaN (R135). -/
def minmaxFp (f : FSpec) (wantMin : Bool) (a b : Nat) : Nat :=
  let x := decodeFp f a
  let y := decodeFp f b
  match cmpFV x y with
  | none => if x = .nan then (if y = .nan then nanOf f else b) else a
  | some .lt => if wantMin then a else b
  | some .gt => if wantMin then b else a
  | some .eq => if isNegFV x == wantMin then a else b

/-- `amo.fadd` (R196): FP32 for 4 bytes, BF16 for 2. -/
def faddBits (size : Nat) (a b : Nat) : Nat := (addFp (if size = 2 then specBf16 else specF32) .rne a b).1

/-! ## Conversion (R110–R114) -/

/-- A converted element: its bits, and what its status flags count. -/
structure Conv where
  bits : Nat
  /-- not the exact value -/
  inexact : Bool
  /-- a finite source rounded above the largest finite value, or an infinity replaced -/
  oflow : Bool
  /-- a result of Table 5.4 that is not the correctly rounded value, or an integer saturated (R111, R112, R154) -/
  sat : Bool
  /-- a NaN that became +0, or an integer result saturated or from NaN -/
  inv : Bool
  deriving DecidableEq, Repr

def isStoch : RMode → Bool
  | .stoch _ => true
  | _ => false

/-- A value into a floating-point format, saturating or propagating (Table 5.4, R111); a stochastic step is followed by the saturating
column (R114). DEDUCED (log 99). -/
def convFp (f : FSpec) (mode : RMode) (nanMode : Bool) (neg : Bool) (m : Nat) (e : Int) (sticky : Bool) : Conv :=
  let r := roundMag f mode neg m e sticky
  if f.maxCode < r.code then
    if nanMode && !isStoch mode then
      if f.hasInf then ⟨infCode f neg, true, true, false, false⟩ else ⟨nanOf f, true, true, true, false⟩
    else ⟨signBit f neg + f.maxCode, true, true, true, false⟩
  else ⟨signBit f neg + r.code, r.inexact, false, false, false⟩

/-- Non-finite sources; an FP32 destination keeps an infinity (Table 5.4, R111). A NaN that becomes +0 counts as invalid and not also as a
saturation. DEDUCED (log 114). -/
def convSpecial (f : FSpec) (nanMode : Bool) : FV → Conv
  | .inf neg =>
    if f.hasInf && (nanMode || f.mbits == 23) then ⟨infCode f neg, false, false, false, false⟩
    else if nanMode then ⟨nanOf f, true, true, true, false⟩
    else ⟨signBit f neg + f.maxCode, true, true, true, false⟩
  | _ => match f.nan with
    | some n => ⟨n, false, false, false, false⟩
    | none => ⟨0, false, false, false, true⟩

/-- Rounds a dyadic to an integer (R112). -/
def roundInt (mode : RMode) (neg : Bool) (m : Nat) (e : Int) : Int × Bool :=
  let (k, r, s) := splitAt m e 0
  let k' := if roundsUp mode neg k r s false then k + 1 else k
  (if neg then -(k' : Int) else k', r != 0)

def intLo (f : Fmt) : Int := if f == .uint8 then 0 else -(2 ^ (fmtWidth f - 1))

def intHi (f : Fmt) : Int := if f == .uint8 then 255 else 2 ^ (fmtWidth f - 1) - 1

def intCode (f : Fmt) (i : Int) : Nat := (i % 2 ^ fmtWidth f).toNat

/-- A value into an integer format (R112). -/
def convInt (f : Fmt) (mode : RMode) : FV → Conv
  | .nan => ⟨0, false, false, false, true⟩
  | .inf neg => ⟨intCode f (if neg then intLo f else intHi f), false, false, true, true⟩
  | .fin neg m e =>
    let (i, nx) := roundInt mode neg m e
    if i < intLo f then ⟨intCode f (intLo f), false, false, true, true⟩
    else if intHi f < i then ⟨intCode f (intHi f), false, false, true, true⟩
    else ⟨intCode f i, nx, false, false, false⟩

/-- Converts an exact value to an element format (R110–R112). With stochastic rounding Table 5.4 applies as in saturating mode, to an infinite
source too, whatever `nanMode` says (R114). DEDUCED (log 99). -/
def convert (d : Fmt) (mode : RMode) (nanMode : Bool) (v : FV) : Conv :=
  match fspec d with
  | none => convInt d mode v
  | some f =>
    match v with
    | .fin neg m e => convFp f mode nanMode neg m e false
    | v => convSpecial f (nanMode && !isStoch mode) v

/-- The draw of one element (R113). -/
def draw (l s i : BitVec 32) : BitVec 32 :=
  let x := l ^^^ (s * 0x9E3779B9#32) ^^^ (i * 0x85EBCA6B#32)
  let x := if x = 0 then 0x6A09E667#32 else x
  let x := x ^^^ (x <<< 13)
  let x := x ^^^ (x >>> 17)
  x ^^^ (x <<< 5)

/-- A slice tag is valid (R121). -/
def sliceTagOk (t : BitVec 16) : Bool :=
  decide ((t.extractLsb' 12 4).toNat ≤ 10) && t.extractLsb' 10 2 == 0 &&
    decide ((t.extractLsb' 0 10).toNat < 2 ^ (t.extractLsb' 12 4).toNat)

/-- The slice index of a tag. -/
def sliceOf (t : BitVec 16) : BitVec 32 := (t.extractLsb' 0 10).setWidth 32

end Sys2Proof.Machine
end

