-- ==== Sys2Proof/Machine/Access.lean ====
section
/-! DEFINITION. Reaching the parts of the state: register files, tables, cells, memory bytes and their homes, the tables that decide
what a context may reach, and translation (04_registers, 09_memories, 17_trust). -/

namespace Sys2Proof.Machine

/-! ## Register files and tables -/

def rget {α : Type} {k : Nat} (f : RegFile k α) (i : BitVec k) : α := f[i.toNat]'i.isLt

def rset {α : Type} {k : Nat} (f : RegFile k α) (i : BitVec k) (v : α) : RegFile k α := f.set i.toNat v i.isLt

def tget {α : Type} : Tab α → Nat → α → α
  | [], _, d => d
  | (j, v) :: r, i, d => if j = i then v else tget r i d

def tput {α : Type} : Tab α → Nat → α → Tab α
  | [], i, v => [(i, v)]
  | (j, w) :: r, i, v =>
    if i < j then (i, v) :: (j, w) :: r else if j = i then (i, v) :: r else (j, w) :: tput r i v

def tdel {α : Type} (t : Tab α) (i : Nat) : Tab α := t.filter (fun e => e.1 ≠ i)

/-! ## Cells, threads, groves, dies -/

def cellAt (s : State) (c : Nat) : Cell := tget s.cells c Cell.reset

def putCell (s : State) (c : Nat) (x : Cell) : State := { s with cells := tput s.cells c x }

def modCell (s : State) (c : Nat) (f : Cell → Cell) : State := putCell s c (f (cellAt s c))

def thr (s : State) (c : Nat) (t : BitVec 3) : Thread := rget (cellAt s c).threads t

def putThr (s : State) (c : Nat) (t : BitVec 3) (x : Thread) : State :=
  modCell s c (fun y => { y with threads := rset y.threads t x })

def modThr (s : State) (c : Nat) (t : BitVec 3) (f : Thread → Thread) : State := putThr s c t (f (thr s c t))

/-- The die of a cell; cell 1,024 + d is die d's proxy cell (R8, R9). -/
def dieOf (c : Nat) : Nat := if c < 1024 then c / 256 else c - 1024

/-- The device grove of a cell (R8). A proxy cell belongs to none; 64 + d names its own translation unit. DESIGN CHOICE (log 75). -/
def groveOf (c : Nat) : Nat :=
  if c < 1024 then c / 256 * 16 + c % 256 / 64 * 4 + c % 16 / 4 else 64 + (c - 1024)

/-- DESIGN CHOICE (log 75). -/
def isProxy (c : Nat) : Bool := decide (1024 ≤ c)

/-- The 16 cells of a device grove, in cell-number order (R8). -/
def cellsOfGrove (g : Nat) : List Nat :=
  let b := g / 16 * 256 + g % 16 / 4 * 64 + g % 4 * 4
  (List.range 16).map (fun i => b + i / 4 * 16 + i % 4)

def groveAt (s : State) (g : Nat) : Grove := tget s.groves g Grove.reset

def modGrove (s : State) (g : Nat) (f : Grove → Grove) : State := { s with groves := tput s.groves g (f (groveAt s g)) }

def dieAt (s : State) (d : Nat) : Die := rget s.dies (BitVec.ofNat 2 d)

def modDie (s : State) (d : Nat) (f : Die → Die) : State :=
  { s with dies := rset s.dies (BitVec.ofNat 2 d) (f (dieAt s d)) }

def ctxRec (s : State) (d ctx : Nat) : CtxRec := tget (dieAt s d).ctxRecs ctx CtxRec.reset

def modCtxRec (s : State) (d ctx : Nat) (f : CtxRec → CtxRec) : State :=
  modDie s d (fun x => { x with ctxRecs := tput x.ctxRecs ctx (f (ctxRec s d ctx)) })

/-- The cells that hold a value different from reset, as listed. -/
def listedCells (s : State) : List Nat := s.cells.map (·.1)

/-! ## Resident positions (R10) -/

def fin4 : List (BitVec 2) := [0, 1, 2, 3]

def allThreads : List (BitVec 3) := [0, 1, 2, 3, 4, 5, 6, 7]

/-- The position that holds context `ctx` at the cell. -/
def posIdx (x : Cell) (ctx : Nat) : Option (BitVec 2) := fin4.find? (fun p => (rget x.pos p).ctx == some ctx)

/-- The context's tables at the cell; the reset tables where it is not resident. -/
def posOf (s : State) (c ctx : Nat) : Position :=
  match posIdx (cellAt s c) ctx with
  | some p => rget (cellAt s c).pos p
  | none => Position.reset

def modPos (s : State) (c ctx : Nat) (f : Position → Position) : State :=
  modCell s c (fun x =>
    match posIdx x ctx with
    | some p => { x with pos := rset x.pos p (f (rget x.pos p)) }
    | none => x)

def resident (s : State) (c ctx : Nat) : Bool := (posIdx (cellAt s c) ctx).isSome

/-! ## Memory: bytes by key -/

/-- DESIGN CHOICE (log 2). -/
def memGet : List Host.Cell → Nat → Byte
  | [], _ => 0
  | (j, v) :: r, k => if j = k then v else memGet r k

/-- A write of the value an unlisted key reads as removes the entry. DESIGN CHOICE (log 2). -/
def memPut (m : List Host.Cell) (k : Nat) (b : Byte) : List Host.Cell :=
  if b = 0 then m.filter (fun e => e.1 ≠ k) else tput m k b

/-- The canonical form: keys strictly rising, no entry equal to what an unlisted key reads as. DESIGN CHOICE (log 2). -/
def Memory.wf (m : List Host.Cell) : Bool :=
  decide (m.Pairwise (fun a b => a.1 < b.1)) && m.all (fun e => e.2 ≠ 0)

def keysFrom (k n : Nat) : List Nat := (List.range n).map (k + ·)

def readKeys (m : List Host.Cell) (ks : List Nat) : List Byte := ks.map (memGet m)

def writeKeys : List Host.Cell → List Nat → List Byte → List Host.Cell
  | m, k :: ks, b :: bs => writeKeys (memPut m k b) ks bs
  | m, _, _ => m

/-- Little-endian value of bytes (R5). -/
def leNat : List Byte → Nat
  | [] => 0
  | b :: r => b.toNat + 256 * leNat r

/-- The `n` little-endian bytes of a value (R5). -/
def leBytes : Nat → Nat → List Byte
  | 0, _ => []
  | n + 1, v => BitVec.ofNat 8 v :: leBytes n (v / 256)

/-- Local memory of cell `c` (R179). -/
def locKey (c off : Nat) : Nat := c * 0x20000 + off

/-- Grove memory of device grove `g` (R184). -/
def grvKey (g off : Nat) : Nat := 2 ^ 32 + g * 2 ^ 24 + off

/-- The key at which the cell's local memory, or the grove memory, of key `k` ends (R1). -/
def memEnd (k : Nat) : Nat := if k < 2 ^ 32 then k / 0x20000 * 0x20000 + 0x18000 else k / 2 ^ 24 * 2 ^ 24 + 2 ^ 24

/-- This device's HBM (home 00). -/
def hbmKey (pa : Nat) : Nat := 2 ^ 60 + pa

/-- Host memory (home 10). -/
def hostKey (pa : Nat) : Nat := 2 ^ 61 + pa

/-- Management memory of a die, where report rings lie (R332). -/
def mgmtKey (d off : Nat) : Nat := 2 ^ 62 + d * 2 ^ 48 + off

/-- A peer device's HBM (home 01). -/
def peerKey (d pa : Nat) : Nat := 2 ^ 64 + d * 2 ^ 56 + pa

/-- A key at system scope: host or peer memory (Table 10.1). -/
def isSystemKey (k : Nat) : Bool := decide (2 ^ 64 ≤ k) || (decide (2 ^ 61 ≤ k) && decide (k < 2 ^ 62))

def isHbmKey (k : Nat) : Bool := decide (2 ^ 60 ≤ k) && decide (k < 2 ^ 61)

def isHostKey (k : Nat) : Bool := decide (2 ^ 61 ≤ k) && decide (k < 2 ^ 62)

def isPeerKey (k : Nat) : Bool := decide (2 ^ 64 ≤ k)

/-- A write that a home applies fires every armed watch entry on a granule it touches; an evicted entry is armed no longer (R272).
DEDUCED (log 91). -/
def fireWatches (s : State) (ks : List Nat) : State :=
  { s with cells := s.cells.map (fun e =>
      (e.1, { e.2 with watch := e.2.watch.map (fun w =>
        if !w.evicted && ks.any (fun k => k / 16 * 16 == w.key) then { w with fired := true } else w) })) }

/-- A home applies a write. Entries on host and peer granules fire at the acknowledgement instead (R272). DEDUCED (log 91). -/
def applyWrite (s : State) (ks : List Nat) (bs : List Byte) : State :=
  fireWatches { s with mem := writeKeys s.mem ks bs } (ks.filter (fun k => !isSystemKey k))

def word64At (s : State) (k : Nat) : Word := BitVec.ofNat 64 (leNat (readKeys s.mem (keysFrom k 8)))

def word128At (s : State) (k : Nat) : BitVec 128 := BitVec.ofNat 128 (leNat (readKeys s.mem (keysFrom k 16)))

/-! ## Causes, reasons and checks -/

/-- Fault causes (Table 15.1). -/
inductive Cause
  | illegal | align | format | perm | notMapped | refused | handle | endpoint
  | budget | barOverflow | gateUnderflow | loop | timeout | unbound | ecc | killed
  deriving DecidableEq, Repr

/-- Cause codes (Table 4.18). -/
def causeCode : Cause → Nat
  | .illegal => 0 | .align => 1 | .format => 2 | .perm => 3
  | .notMapped => 4 | .refused => 5 | .handle => 6 | .endpoint => 7
  | .budget => 8 | .barOverflow => 9 | .gateUnderflow => 10 | .loop => 11
  | .timeout => 12 | .unbound => 13 | .ecc => 14 | .killed => 15

/-- Reason codes of a refusal (Table 9.7). -/
def reasonCode : Reason → Nat
  | .notMapped => 0 | .permission => 1 | .copyOnWrite => 2
  | .unreachable => 3 | .unsupported => 4 | .outsideWindows => 5

/-- The cause of a refusal found before the thread moved on (R190). -/
def reasonCause : Reason → Cause
  | .notMapped => .notMapped
  | .permission => .perm
  | .copyOnWrite => .perm
  | .unreachable => .perm
  | .unsupported => .perm
  | .outsideWindows => .perm

/-- A region entry covers `n` bytes at `a` with the rights asked (R181, R182, Table 9.3). -/
def regionCovers (r : Word) (a n : Nat) (w x : Bool) : Bool :=
  r[63] && (!w || r[62]) && (!x || r[61]) &&
    decide ((r.extractLsb' 0 17).toNat ≤ a) &&
    decide (a + n ≤ (r.extractLsb' 0 17).toNat + (r.extractLsb' 32 17).toNat) && decide (a + n ≤ 0x16000)

/-- One valid region of the context covers the bytes (R182). -/
def localOk (p : Position) (a n : Nat) (w x : Bool) : Bool := p.regions.toList.any (fun r => regionCovers r a n w x)

/-- A grove window entry belongs to the context and covers the bytes (R184, Table 9.4). -/
def windowCovers (e : Word) (ctx a n : Nat) (w : Bool) : Bool :=
  let base := (e.extractLsb' 16 8).toNat * 0x10000
  let len := ((e.extractLsb' 32 8).toNat + 1) * 0x10000
  e[63] && (!w || e[62]) && (e.extractLsb' 48 12).toNat == ctx && decide (base ≤ a) && decide (a + n ≤ base + len)
    && decide (a + n ≤ 0x1000000)

/-- One protection unit must cover the `n` bytes at `a` (R179): `ok a n w` says that one does. Where none does, the first byte outside the
unit of the first byte decides: "not mapped" where nothing covers it, else permission. DEDUCED (log 106). -/
def unitCheck (ok : Nat → Nat → Bool → Bool) (a n : Nat) (w : Bool) : Option Reason :=
  if ok a n w then none
  else if !ok a 1 false then some .notMapped
  else if !ok a 1 w then some .permission
  else
    match (List.range n).find? (fun i => !ok a (i + 1) w) with
    | some i => if ok (a + i) 1 false then some .permission else some .notMapped
    | none => some .permission

/-- The window check of a grove (R184). DEDUCED (log 106). -/
def groveCheck (s : State) (g ctx a n : Nat) (w : Bool) : Option Reason :=
  unitCheck (fun a n w => (groveAt s g).windows.any (fun e => windowCovers e.2 ctx a n w)) a n w

/-- The check at a peer cell (R179, Table 9.7). DEDUCED (log 28, 106). -/
def peerCheck (s : State) (c ctx a n : Nat) (w : Bool) : Option Reason :=
  if 0x16000 < a + n then some .permission
  else if !resident s c ctx then some .notMapped
  else unitCheck (fun a n w => localOk (posOf s c ctx) a n w false) a n w

/-! ## Translation (R185–R188) -/

/-- Reads an 8-byte table entry from HBM. -/
def tableEntry (s : State) (pa : Nat) : Word := word64At s (hbmKey pa)

/-- The entry itself is well formed at its level (R186). -/
def pteOk (lvl : Nat) (e : Word) : Bool :=
  let leaf := e[62]
  let addr := (e.extractLsb' 8 40).toNat * 256
  e[63] && !e[48] && e.extractLsb' 0 8 == 0 && !(leaf && lvl == 0) && (leaf || lvl != 3) &&
    e.extractLsb' 58 2 != 3#2 && (e.extractLsb' 58 2 == 1#2 || e.extractLsb' 49 9 == 0) &&
    (if leaf then
        (if lvl == 1 then addr % 2 ^ 30 == 0 else if lvl == 2 then addr % 2 ^ 21 == 0 else addr % 2 ^ 16 == 0)
      else (if lvl == 0 then addr % 0x10000 == 0 else if lvl == 1 then addr % 0x1000 == 0 else addr % 0x100 == 0))

/-- The table index at a level (Table 9.5). -/
def walkIndex (lvl va : Nat) : Nat :=
  if lvl == 0 then va / 2 ^ 43 % 8192 else if lvl == 1 then va / 2 ^ 30 % 8192
  else if lvl == 2 then va / 2 ^ 21 % 512 else va / 2 ^ 16 % 32

/-- The walk below one table: the leaf's level and entry (R185). -/
def walkFrom (s : State) (va : Nat) : Nat → Nat → Nat → Option (Nat × Word)
  | 0, _, _ => none
  | fuel + 1, lvl, table =>
    let e := tableEntry s (table + 8 * walkIndex lvl va)
    if !pteOk lvl e then none
    else if e[62] then some (lvl, e)
    else walkFrom s va fuel (lvl + 1) ((e.extractLsb' 8 40).toNat * 256)

/-- The walk of a global address in the context's table on a die (R185). DEDUCED (log 49). -/
def walk (s : State) (d ctx va : Nat) : Option (Nat × Word) :=
  let root := tget (dieAt s d).roots ctx 0
  if root[63] then walkFrom s va 4 0 ((root.extractLsb' 16 32).toNat * 0x10000) else none

/-- log2 of the page a leaf at a level maps (Table 9.5). -/
def pageBits (lvl : Nat) : Nat := if lvl == 1 then 30 else if lvl == 2 then 21 else 16

/-- The TLB set of a page (R187). -/
def tlbSet (e : TlbEntry) : Nat := e.page % 512

def tlbHit (s : State) (g ctx va : Nat) : Option TlbEntry :=
  (groveAt s g).tlb.find? (fun e => e.ctx == ctx && va / 2 ^ pageBits e.level == e.page)

/-- A TLB hit becomes its set's most recently used way. -/
def tlbTouch (s : State) (g : Nat) (e : TlbEntry) : State :=
  modGrove s g (fun x => { x with tlb := e :: x.tlb.filter (fun y => y ≠ e) })

/-- Installs a leaf, replacing the least recently used way of a full set (R187). DESIGN CHOICE (log 74). -/
def tlbInstall (s : State) (g : Nat) (e : TlbEntry) : State :=
  modGrove s g (fun x =>
    let inSet := x.tlb.filter (fun y => tlbSet y == tlbSet e)
    let rest := match inSet.getLast? with
      | some v => if 4 ≤ inSet.length then x.tlb.filter (fun y => y ≠ v) else x.tlb
      | none => x.tlb
    { x with tlb := e :: rest })

/-- The home key of a global address under a leaf (R188, Table 9.6). -/
def leafKey (lvl : Nat) (e : Word) (va : Nat) : Nat :=
  let pa := (e.extractLsb' 8 40).toNat * 256 + va % 2 ^ pageBits lvl
  if e.extractLsb' 58 2 == 0#2 then hbmKey pa
  else if e.extractLsb' 58 2 == 1#2 then peerKey (e.extractLsb' 49 9).toNat pa
  else hostKey pa

/-- What a leaf refuses a write (Table 9.6). -/
def leafWrite (e : Word) : Option Reason :=
  if e[60] then some .copyOnWrite else if e[61] then none else some .permission

/-- The runs of an access within 64 KiB units: address and length. -/
def runs64K : Nat → Nat → Nat → List (Nat × Nat)
  | 0, _, _ => []
  | fuel + 1, va, n =>
    if n = 0 then []
    else
      let m := min n (0x10000 - va % 0x10000)
      (va, m) :: runs64K fuel (va + m) (n - m)

def runsOf (va n : Nat) : List (Nat × Nat) := runs64K (n / 0x10000 + 2) va n

/-- The first page of an access that the TLB does not hold. -/
def tlbMissing (s : State) (g ctx va n : Nat) : Option Nat :=
  ((runsOf va n).map (·.1)).find? (fun a => (tlbHit s g ctx a).isNone)

/-! ## Reduced service (R386, R387) -/

/-- Bit `d` of a field of cap whose lowest bit is `lo`. -/
def capBit (s : State) (lo d : Nat) : Bool := s.cap.getLsbD (lo + d)

/-- The die has passed test and runs takes. DEDUCED (log 49). -/
def dieRuns (s : State) (d : Nat) : Bool := capBit s 36 d

/-- The dies whose stacks of HBM are up, one bit for each (R386). -/
def hbmUp (s : State) : BitVec 4 := s.cap.extractLsb' 40 4

/-- Some of the bytes lie in stacks that are not among the trained ones (R387). DEDUCED (log 49); DESIGN CHOICE (log 50). -/
def hbmDown (up : BitVec 4) (pa n : Nat) : Bool :=
  up != 15#4 && (List.range n).any (fun i => !up.getLsbD (Config.hbmDie (pa + i)))

/-- Bytes of HBM physical address beyond the 384 GiB (R1). -/
def pastHbm (pa n : Nat) : Bool := decide (16 * Config.hbmGranules < pa + n)

/-- The die runs, and its paths for formats narrower than 8 bits are not up (R387). DEDUCED (log 49). -/
def f4Down (s : State) (d : Nat) : Bool := dieRuns s d && !capBit s 44 d

/-! ## Sealed ranges (17_trust R370–R372, R379) -/

def secWord (s : State) (ctx : Nat) : Word := tget s.secWords ctx 0

def isSupervisor (s : State) (ctx : Nat) : Bool := (secWord s ctx)[62]

def isProtected (s : State) (ctx : Nat) : Bool := (secWord s ctx)[61]

def tslotOf (s : State) (ctx : Nat) : BitVec 6 := (secWord s ctx).extractLsb' 32 6

def tenantOf (s : State) (ctx : Nat) : BitVec 32 := (rget s.keys (tslotOf s ctx)).tenant

def partOf (s : State) (ctx : Nat) : BitVec 4 := (secWord s ctx).extractLsb' 48 4

/-- The range of the context's tenant that holds every one of the `n` bytes at `pa` (R371). -/
def sealedRange (s : State) (ctx pa n : Nat) : Option SealedRange :=
  s.ranges.toList.find? (fun r =>
    r.v && decide (r.base.toNat ≤ pa) && decide (pa + n ≤ r.base.toNat + r.len.toNat) &&
      (rget s.keys r.slot).v && (rget s.keys r.slot).tenant == tenantOf s ctx)

def bytesToVec (bs : List Byte) : BitVec 2048 := BitVec.ofNat 2048 (leNat bs)

/-- The slot that block `j` of a range stands under (R379). -/
def blockSlot (r : SealedRange) (j : Nat) : BitVec 6 := if r.sw && decide (j < r.sptr.toNat) then r.nslot else r.slot

/-- The block waits for the sweep's step on it (R379). -/
def blockWaits (r : SealedRange) (j : Nat) : Bool := r.sw && !r.hlt && j == r.sptr.toNat

/-- Decrypts block `j` of a range after its MAC check; none on a mismatch or a halted sweep block (R371, R379). DESIGN CHOICE (log 86). -/
def openBlock (s : State) (r : SealedRange) (j : Nat) : Option (List Byte) :=
  if r.sw && r.hlt && j == r.sptr.toNat then none
  else
    let key := (rget s.keys (blockSlot r j)).key
    let c := bytesToVec (readKeys s.mem (keysFrom (hbmKey (r.base.toNat + 256 * j)) 256))
    if blockMac key j c == word64At s (hbmKey (r.macbase.toNat + 8 * j)) then
      some (leBytes 256 (xtsDecrypt key j c).toNat)
    else none

/-- Encrypts block `j` and writes it with its MAC (R371). -/
def sealBlock (s : State) (r : SealedRange) (slot : BitVec 6) (j : Nat) (bs : List Byte) : State :=
  let key := (rget s.keys slot).key
  let c := xtsEncrypt key j (bytesToVec bs)
  let s := applyWrite s (keysFrom (hbmKey (r.base.toNat + 256 * j)) 256) (leBytes 256 c.toNat)
  applyWrite s (keysFrom (hbmKey (r.macbase.toNat + 8 * j)) 8) (leBytes 8 (blockMac key j c).toNat)

/-- The blocks that `n` bytes at `pa` touch. -/
def blocksOf (r : SealedRange) (pa n : Nat) : List Nat :=
  let j := (pa - r.base.toNat) / 256
  (List.range ((pa + n - 1 - r.base.toNat) / 256 - j + 1)).map (j + ·)

/-- A sweep has halted on a block that the bytes touch: every access to it is an uncorrectable error (R379). -/
def haltedAt (s : State) (ctx key n : Nat) : Bool :=
  isProtected s ctx && isHbmKey key && (match sealedRange s ctx (key - 2 ^ 60) n with
    | some r => r.sw && r.hlt && (blocksOf r (key - 2 ^ 60) n).contains r.sptr.toNat
    | none => false)

/-- What a home answers to one access. -/
inductive HomeAns (α : Type)
  | ok (a : α)
  | refused (r : Reason)
  | ecc
  | wait

/-- Reads one run of bytes at its home for a context (R190, R371). -/
def homeRead (s : State) (ctx key n : Nat) : HomeAns (List Byte) :=
  if isProtected s ctx && isSystemKey key then .refused .permission
  else if isProtected s ctx && isHbmKey key then
    match sealedRange s ctx (key - 2 ^ 60) n with
    | none => .refused .permission
    | some r =>
      let js := blocksOf r (key - 2 ^ 60) n
      if js.any (blockWaits r) then .wait
      else
        match js.mapM (openBlock s r) with
        | none => .ecc
        | some bss => .ok ((bss.flatten.drop ((key - 2 ^ 60 - r.base.toNat) % 256)).take n)
  else .ok (readKeys s.mem (keysFrom key n))

/-- Starts a kill flood after an integrity failure that no take's check can receive (R374). DESIGN CHOICE (log 10, 87). -/
def integrityEvent (s : State) (ctx : Nat) : State :=
  { s with mailbox := { s.mailbox with ievt := if s.mailbox.ievt = 0xFFFFFFFF#32 then s.mailbox.ievt else s.mailbox.ievt + 1 },
           agenda := s.agenda ++ [.killFlood 0 ctx] }

/-- Splices `bs` into a block at an offset. -/
def spliceBytes (blk : List Byte) (off : Nat) (bs : List Byte) : List Byte :=
  blk.take off ++ bs ++ blk.drop (off + bs.length)

/-- Writes bytes that lie inside one block of a sealed range: a read-modify-write of the block. None: its MAC does not match, and nothing is written
(R371). -/
def sealedWrite (s : State) (r : SealedRange) (pa : Nat) (bs : List Byte) : Option State :=
  let j := (pa - r.base.toNat) / 256
  (openBlock s r j).map (fun blk => sealBlock s r (blockSlot r j) j (spliceBytes blk ((pa - r.base.toNat) % 256) bs))

/-- Applies one run of bytes (at most one 16-B part) at its home: the state, and whether it was discarded with an integrity failure; none: it waits
for a sweep's step (R371, R374, R379). -/
def partWrite (s : State) (ctx key : Nat) (bs : List Byte) : Option (State × Bool) :=
  if isProtected s ctx && isHbmKey key then
    match sealedRange s ctx (key - 2 ^ 60) bs.length with
    | none => some (s, false)
    | some r =>
      if blockWaits r ((key - 2 ^ 60 - r.base.toNat) / 256) then none
      else
        match sealedWrite s r (key - 2 ^ 60) bs with
        | some s => some (s, false)
        | none => some (integrityEvent s ctx, true)
  else some (applyWrite s (keysFrom key bs.length) bs, false)

/-- A write of one run of bytes at its home, as a whole (R371). -/
def homeWrite (s : State) (ctx key : Nat) (bs : List Byte) : Option State := (partWrite s ctx key bs).map (·.1)

end Sys2Proof.Machine
end

