-- ==== Sys2Proof/Machine/Queue.lean ====
section
/-! DEFINITION. Messages, ends, completion queues, packets and reels: what a take's sends and the end of a take do to them
(12_queues, 13_tables). -/

namespace Sys2Proof.Machine

/-! ## Handles (R239, Table 12.4) -/

def handleBody (kind ctx eid cell : Nat) : Word :=
  BitVec.ofNat 64 (kind % 16 * 2 ^ 60 + ctx % 4096 * 2 ^ 48 + eid % 2 ^ 20 * 2 ^ 28 + cell % 2048 * 2 ^ 13)

def mkHandle (kind ctx eid cell : Nat) : Handle :=
  Config.handleMac (handleBody kind ctx eid cell) ++ handleBody kind ctx eid cell

def hBody (h : Handle) : Word := h.extractLsb' 0 64

def hKind (h : Handle) : Nat := (h.extractLsb' 60 4).toNat

def hCtx (h : Handle) : Nat := (h.extractLsb' 48 12).toNat

def hEid (h : Handle) : Nat := (h.extractLsb' 28 20).toNat

def hCell (h : Handle) : Nat := (h.extractLsb' 13 11).toNat

def macOk (h : Handle) : Bool := h.extractLsb' 64 64 == Config.handleMac (hBody h)

/-- The eid field of a stage send end (R239). -/
def stageEid (die lid idx : Nat) : Nat := die * 2 ^ 18 + lid % 256 * 32 + idx % 32

/-! ## The end table -/

def findSend (x : Cell) (eid : Nat) : Option SendEnd := x.sends.find? (fun e => e.eid == eid)

def findRecv (x : Cell) (eid : Nat) : Option RecvEnd := x.recvs.find? (fun e => e.eid == eid)

def findHome (x : Cell) (chan : Nat) : Option Home := x.homes.find? (fun e => e.chan == chan)

def findStub (x : Cell) (chan : Nat) : Option Stub := x.stubs.find? (fun e => e.chan == chan)

def modSend (s : State) (c eid : Nat) (f : SendEnd → SendEnd) : State :=
  modCell s c (fun x => { x with sends := x.sends.map (fun e => if e.eid == eid then f e else e) })

def modRecv (s : State) (c eid : Nat) (f : RecvEnd → RecvEnd) : State :=
  modCell s c (fun x => { x with recvs := x.recvs.map (fun e => if e.eid == eid then f e else e) })

def modHome (s : State) (c chan : Nat) (f : Home → Home) : State :=
  modCell s c (fun x => { x with homes := x.homes.map (fun e => if e.chan == chan then f e else e) })

def modStub (s : State) (c chan : Nat) (f : Stub → Stub) : State :=
  modCell s c (fun x => { x with stubs := x.stubs.map (fun e => if e.chan == chan then f e else e) })

def delSend (s : State) (c eid : Nat) : State := modCell s c (fun x => { x with sends := x.sends.filter (fun e => e.eid != eid) })

def delRecv (s : State) (c eid : Nat) : State := modCell s c (fun x => { x with recvs := x.recvs.filter (fun e => e.eid != eid) })

/-- Free entries of the 256-entry end table (Table 12.1). -/
def freeEnds (x : Cell) : Nat := 256 - (x.sends.length + x.recvs.length)

/-- Free slots of the channel pool (R236). -/
def freeSlots (x : Cell) : Nat := 192 - (x.homes.map (·.depth)).sum

/-- The eids that a packet names. DESIGN CHOICE (log 37). -/
def packetEids : Packet → List Nat
  | .data chan _ _ sid _ _ _ _ => [chan, sid]
  | .note chan _ n => [chan, n.sid]
  | .fwd chan _ _ n => [chan, n.sid]
  | .free chan _ _ _ sid => [chan, sid]
  | .ret chan _ n _ => [chan, n.sid]
  | .credit _ sid _ => [sid]
  | .reg chan _ sid _ _ => [chan, sid]
  | .moved chan _ sid _ _ => [chan, sid]
  | .pull chan _ _ => [chan]
  | .ship chan _ _ _ _ _ _ _ _ => [chan]
  | .move chan _ _ _ _ => [chan]
  | .fin chan _ _ => [chan]
  | .closer chan _ => [chan]
  | .skip chan _ sid _ => [chan, sid]
  | .closure _ sid => [sid]

/-- The eid of the end that a handle lane carries. -/
def laneEids : Option EndRec → List Nat
  | some (.send e) => [e.eid]
  | some (.recv eid _ _ _ _ _) => [eid]
  | _ => []

/-- The eids that a home's record names: its channel, its senders, and the senders and lanes of the messages in its slots. -/
def homeEids (h : Home) : List Nat :=
  h.chan :: h.senders.map (·.sid) ++ h.slots.flatMap (fun e => e.2.sid :: laneEids e.2.msg.lane)

/-- Eids that no new end may receive: of ends, of records and gates that name them, and of packets on their way (R239).
DESIGN CHOICE (log 37). -/
def eidsInUse (s : State) : List Nat :=
  s.flights.flatMap (fun f => packetEids f.pkt ++ (match f.pkt with | .data _ _ _ _ _ _ _ m => laneEids m.lane | _ => [])) ++
  s.groves.flatMap (fun g => g.2.gates.flatMap (fun e => match e.2.held with | some m => [m.chan, m.sid] | none => [])) ++
  s.cells.flatMap (fun e =>
    e.2.sends.map (·.eid) ++ e.2.recvs.map (·.eid) ++ e.2.stubs.map (·.chan) ++ e.2.homes.flatMap homeEids
      ++ e.2.threads.toList.flatMap (fun x => laneEids x.msg.lane))

/-- The lowest eid of the die, a multiple of `step`, such that it and the `step - 1` next are free. DESIGN CHOICE (log 37). -/
def pickEid (used : List Nat) (die step : Nat) : Nat → Nat → Option Nat
  | 0, _ => none
  | fuel + 1, i =>
    if 2 ^ 18 < i + step then none
    else if (List.range step).any (fun j => used.contains (die * 2 ^ 18 + i + j)) then pickEid used die step fuel (i + step)
    else some (die * 2 ^ 18 + i)

/-- DESIGN CHOICE (log 37). -/
def allocEid (s : State) (die step : Nat) : Option Nat :=
  let used := eidsInUse s
  pickEid used die step (used.length + 1) 0

/-- Credits a send end may spend (R241). -/
def credits (e : SendEnd) : Nat := e.w - (e.ns - e.ck)

/-! ## Slates (Table 12.2) -/

def mkSlate (ctx cls nw : Nat) (hl : Bool) (pri seq sub sid : Nat) : Word :=
  BitVec.ofNat 64 (ctx % 4096 * 2 ^ 52 + cls % 32 * 2 ^ 47 + nw % 16 * 2 ^ 43 + (if hl then 2 ^ 42 else 0)
    + pri % 4 * 2 ^ 40 + seq % 65536 * 2 ^ 24 + sub % 16 * 2 ^ 20 + sid % 2 ^ 20)

def slateCls (w : Word) : Nat := (w.extractLsb' 47 5).toNat

def slateNw (w : Word) : Nat := (w.extractLsb' 43 4).toNat

def slateHl (w : Word) : Bool := w[42]

def slateSeq (w : Word) : Nat := (w.extractLsb' 24 16).toNat

def slateSid (w : Word) : Nat := (w.extractLsb' 0 20).toNat

/-- The receiving end's context and priority, written by its NI. -/
def slateFor (w : Word) (ctx pri : Nat) : Word :=
  BitVec.ofNat 12 ctx ++ w.extractLsb' 42 10 ++ BitVec.ofNat 2 pri ++ w.extractLsb' 0 40

/-- The next value of the cell's message counter (R237). -/
def takeMsgCtr (s : State) (c : Nat) : Nat × State :=
  ((cellAt s c).msgCtr, modCell s c (fun x => { x with msgCtr := (x.msgCtr + 1) % 65536 }))

/-- A message raised by a cell (R237). -/
def raised (s : State) (c ctx cls sub : Nat) (payload : List Word) (launch : Nat) : Msg × State :=
  let (n, s) := takeMsgCtr s c
  (⟨mkSlate ctx cls payload.length false 0 n sub 0xFFFFF, payload, none, launch⟩, s)

/-! ## Completion queues (R236) -/

/-- Takes running on messages of the context's completion queue, whose slots are not free yet. -/
def cqRunning (x : Cell) (ctx : Nat) : Nat :=
  (x.threads.toList.filter (fun t => t.phase != .idle && t.phase != .reporting && t.ctx.toNat == ctx && t.origin == .completion)).length

def cqFull (s : State) (c ctx : Nat) : Bool :=
  decide (16 ≤ (posOf s c ctx).cq.length + cqRunning (cellAt s c) ctx)

def cqPush (s : State) (c ctx : Nat) (m : Msg) : State := modPos s c ctx (fun p => { p with cq := p.cq ++ [m] })

/-- The producer may place a message now: a slot is free, and no other began to wait before it (R235, R236). -/
def cqTurn (s : State) (c ctx : Nat) (w : Waiter) : Bool :=
  !cqFull s c ctx && (match (posOf s c ctx).cqWait with | [] => true | v :: _ => v == w)

/-- The producer places its message and waits no longer. -/
def cqPlace (s : State) (c ctx : Nat) (w : Waiter) (m : Msg) : State :=
  modPos s c ctx (fun p => { p with cq := p.cq ++ [m], cqWait := p.cqWait.filter (· != w) })

/-! ## Packets -/

def sendPkt (s : State) (dst : Nat) (p : Packet) : State :=
  { s with flights := s.flights ++ [⟨s.nextFlight, dst, p, s.cyc.toNat⟩], nextFlight := s.nextFlight + 1 }

def findFlight (s : State) (id : Nat) : Option Flight := s.flights.find? (fun f => f.id == id)

def dropFlight (s : State) (id : Nat) : State := { s with flights := s.flights.filter (fun f => f.id != id) }

/-- A packet on its way to the cell brings back a note of the channel. -/
def returnComing (s : State) (c chan : Nat) : Bool :=
  s.flights.any (fun f => f.dst == c && (match f.pkt with
    | .ret ch _ _ _ => ch == chan
    | .fwd ch _ (some _) _ => ch == chan
    | _ => false))

/-- A stub's range is passed on and its takes are done, and no older stub can still send it a note (R260, R261). DEDUCED (log 43). -/
def stubDone (s : State) (c : Nat) (u : Stub) : Bool :=
  u.running == 0 && (match u.limit with
    | some a => (List.range (a - u.start)).all (fun i => u.passed.contains (u.start + i))
    | none => false) &&
  !s.cells.any (fun e => e.2.stubs.any (fun v => v.chan == u.chan && v.successor == c && decide (v.gen < u.gen))) &&
  !returnComing s c u.chan

/-- A stub that is done frees its record; its successor may then be done too. -/
def freeStubs (chan : Nat) : Nat → Nat → State → State
  | 0, _, s => s
  | fuel + 1, c, s =>
    match findStub (cellAt s c) chan with
    | some u => if stubDone s c u then freeStubs chan fuel u.successor (modCell s c (fun x => { x with stubs := x.stubs.filter (fun v => v.chan != chan) }))
      else s
    | none => s

def tryFreeStub (s : State) (c chan : Nat) : State := freeStubs chan (s.cells.length + 1) c s

/-- The take on note `n` belongs to the stub that the cell's earlier tenure of the end left (R257, R260). -/
def atStub (s : State) (c chan : Nat) (n : Note) : Bool :=
  match findStub (cellAt s c) chan with
  | some u => (findRecv (cellAt s c) chan).isNone || (decide (0 < u.running) && decide (n.ai < u.start))
  | none => false

/-- The slot of a consumed message becomes free at the home (R241, R256); the consumer's record counts one take less. -/
def consumeNote (s : State) (c chan home : Nat) (n : Note) : State :=
  let s := if atStub s c chan n then tryFreeStub (modStub s c chan (fun u => { u with running := u.running - 1 })) c chan
    else match findRecv (cellAt s c) chan with
      | some r =>
        if r.closing && r.running ≤ 1 then delRecv s c chan
        else modRecv s c chan (fun r => { r with running := r.running - 1 })
      | none => s
  sendPkt s home (.free chan 0 home n.slot n.sid)

/-- Note `i` is queued in cycle `cyc`. -/
def queuedNow (cyc i : Nat) (r : RecvEnd) : RecvEnd :=
  { r with news := (cyc, if r.news.1 == cyc then i :: r.news.2 else [i]) }

/-- Inserts a note by acceptance index; notes of several cut takes stand in this order too. DESIGN CHOICE (log 108). -/
def noteInsert (n : Note) : List Note → List Note
  | [] => [n]
  | m :: r => if n.ai < m.ai then n :: m :: r else m :: noteInsert n r

/-- A cut take's note returns to the head of its queue, through the stub where the end has moved (R21, R257). -/
def returnNote (s : State) (c chan home : Nat) (n : Note) (hold : Bool) : State :=
  match findStub (cellAt s c) chan, findRecv (cellAt s c) chan with
  | some u, r =>
    if atStub s c chan n then
      tryFreeStub (modStub (sendPkt s u.successor (.ret chan u.ctx n hold)) c chan (fun u => { u with running := u.running - 1 })) c chan
    else
      match r with
      | some r => backTo r
      | none => s
  | none, some r => backTo r
  | none, none => sendPkt s home (.free chan 0 home n.slot n.sid)
where
  /-- The note stands at the head of the end's record here; a closed end discards it. -/
  backTo (r : RecvEnd) : State :=
    if r.closing then consumeNote s c chan home n
    else modRecv s c chan (fun r =>
      queuedNow s.cyc.toNat n.ai
        { r with running := r.running - 1, returned := noteInsert n r.returned, held := r.held || hold, since := none })

/-- Emits DATA for a send end of the cell, taking its next sequence number and a credit (R246, R256). DESIGN CHOICE (log 87). -/
def emitData (s : State) (c : Nat) (e : SendEnd) (isClose : Bool) (cls nw sub : Nat) (m : Msg) : State :=
  let m := { m with slate := mkSlate 0 cls nw m.lane.isSome 0 e.ns sub e.eid }
  let s := modSend s c e.eid (fun e => { e with ns := e.ns + 1 })
  let s := if isProtected s e.ctx && groveOf c != groveOf e.home then modGrove s (groveOf c) (fun g => { g with records := g.records + 1 })
    else s
  sendPkt s e.home (.data e.chan e.ctx e.home e.eid e.ns e.mv isClose m)

/-- Closes a receive end held at the cell: it is frozen and a CLOSER goes to the home (R250). An end that has moved on, or is closed, is not held
here: its stale close does nothing (R246). -/
def closeRecvEnd (s : State) (c eid : Nat) : State :=
  match findRecv (cellAt s c) eid with
  | none => s
  | some r =>
    if r.st == .frozen || r.st == .leaving || r.closing then s else
    let s := if r.running = 0 then delRecv s c eid
      else modRecv s c eid (fun r => { r with st := .frozen, closing := true, notes := [], returned := [] })
    sendPkt s r.home (.closer eid r.ctx)

/-- Closes a send end held at the cell at once, where a closing DATA needs no waiting: a kill (R345) or a lane closed at print.
The close takes a sequence number; its credit is the channel's last of that end. -/
def closeSendEnd (s : State) (c eid launch : Nat) : State :=
  match findSend (cellAt s c) eid with
  | none => s
  | some e =>
    let s := if e.orphan then s else emitData s c e true 17 1 1 ⟨0, [BitVec.ofNat 64 eid], none, launch⟩
    delSend s c eid

/-- Closes the end that a message's lane carries, wherever it stands (R252). DEDUCED (log 15, 42). -/
def closeLane (s : State) (launch : Nat) : Option EndRec → State
  | none => s
  | some (.installed h) =>
    if hKind h == 1 then closeSendEnd s (hCell h) (hEid h) launch
    else if hKind h == 2 then closeRecvEnd s (hCell h) (hEid h) else s
  | some (.send e) =>
    if e.orphan then s
    else sendPkt s e.home (.data e.chan e.ctx e.home e.eid e.ns e.mv true
      ⟨mkSlate 0 17 1 false 0 e.ns 1 e.eid, [BitVec.ofNat 64 e.eid], none, launch⟩)
  | some (.recv eid home _ _ _ holder) =>
    let s := delRecv s holder eid
    sendPkt s home (.closer eid 0)

/-! ## Reels (R263, Table 12.13) -/

def reelK (h : BitVec 128) : Nat := (h.extractLsb' 96 4).toNat

def reelZ (h : BitVec 128) : Nat := (h.extractLsb' 104 5).toNat

def reelC (h : BitVec 128) : BitVec 32 := h.extractLsb' 64 32

def reelR (h : BitVec 128) : BitVec 32 := h.extractLsb' 32 32

def reelW (h : BitVec 128) : BitVec 32 := h.extractLsb' 0 32

def reelOk (h : BitVec 128) : Bool :=
  decide (reelK h ≤ 12) && decide (4 ≤ reelZ h) && decide (reelZ h ≤ 12) && h.extractLsb' 109 3 == 0 && h.extractLsb' 100 4 == 0

def mkReel (rmask : BitVec 16) (z k : Nat) (cidx r w : BitVec 32) : BitVec 128 :=
  rmask ++ (0#3) ++ BitVec.ofNat 5 z ++ (0#4) ++ BitVec.ofNat 4 k ++ cidx ++ r ++ w

def withW (h : BitVec 128) (w : BitVec 32) : BitVec 128 := h.extractLsb' 32 96 ++ w

def withC (h : BitVec 128) (c : BitVec 32) : BitVec 128 := h.extractLsb' 96 32 ++ c ++ h.extractLsb' 0 64

def withRmaskR (h : BitVec 128) (m : BitVec 16) (r : BitVec 32) : BitVec 128 :=
  m ++ h.extractLsb' 64 48 ++ r ++ h.extractLsb' 0 32

/-- Slot `i` of a reel, from its header (R263). -/
def reelSlot (h : BitVec 128) (i : BitVec 32) : Nat := 16 + i.toNat % 2 ^ reelK h * 2 ^ reelZ h

/-- Claim of `n` slots: none while the reel has no room (R264). -/
def reelRoom (h : BitVec 128) (n : Nat) : Bool :=
  decide ((reelC h + BitVec.ofNat 32 n - reelR h).toNat ≤ 2 ^ reelK h)

/-- The first `n` bytes of slot `i` of the reel at `k`, as far as the reel's memory goes (R1): a slot past its end holds nothing, and a write of it
is lost. DESIGN CHOICE (log 123). -/
def slotKeys (k : Nat) (h : BitVec 128) (i : BitVec 32) (n : Nat) : List Nat :=
  keysFrom (k + reelSlot h i) (min n (memEnd k - (k + reelSlot h i)))

/-- The `j`-th word of slot `i`; 0 past the end of the reel's memory. DESIGN CHOICE (log 123). -/
def slotWord (s : State) (k : Nat) (h : BitVec 128) (i : BitVec 32) (j : Nat) : Word :=
  if k + reelSlot h i + 8 * j + 8 ≤ memEnd k then word64At s (k + reelSlot h i + 8 * j) else 0

def write128 (s : State) (k : Nat) (v : BitVec 128) : State := applyWrite s (keysFrom k 16) (leBytes 16 v.toNat)

def write64 (s : State) (k : Nat) (v : Word) : State := applyWrite s (keysFrom k 8) (leBytes 8 v.toNat)

/-- The release of index `i` (R268). -/
def releaseLoop : Nat → BitVec 16 → BitVec 32 → BitVec 16 × BitVec 32
  | 0, m, r => (m, r)
  | fuel + 1, m, r => if m[0] then releaseLoop fuel (m >>> 1) (r + 1) else (m, r)

def reelRelease (h : BitVec 128) (i : BitVec 32) : BitVec 128 :=
  let d := (i - reelR h).toNat
  if 16 ≤ d then h
  else
    let (m, r) := releaseLoop 17 (h.extractLsb' 112 16 ||| BitVec.ofNat 16 (2 ^ d)) (reelR h)
    withRmaskR h m r

/-- The image of a message in a reel slot (Table 12.3). -/
def msgImage (m : Msg) : List Byte :=
  leBytes 8 m.slate.toNat ++ ((m.payload ++ List.replicate 8 (0 : Word)).take 8).flatMap (fun w => leBytes 8 w.toNat) ++ List.replicate 56 0

/-! ## The stage table (R287, R288) -/

def stageAt (s : State) (d i : Nat) : Stage := rget (dieAt s d).stages (BitVec.ofNat 5 i)

def modStage (s : State) (d i : Nat) (f : Stage → Stage) : State :=
  modDie s d (fun x => { x with stages := rset x.stages (BitVec.ofNat 5 i) (f (rget x.stages (BitVec.ofNat 5 i))) })

/-- The key of a stage reel's header. DEDUCED (log 73). -/
def stageHdr (d : Nat) (g : Stage) : Nat := grvKey (d * 16 + g.grove.toNat) (g.hdr.toNat * 16)

/-- ridx advances over popped indices that have been released (R288). DEDUCED (log 73). -/
def stageAdvance (popped : List (BitVec 32)) (pidx : BitVec 32) : Nat → BitVec 32 → BitVec 32
  | 0, r => r
  | fuel + 1, r => if r == pidx || popped.contains r then r else stageAdvance popped pidx fuel (r + 1)

/-- Release of a popped entry at its consuming take's print (R288). -/
def stageRelease (s : State) (d i : Nat) (ix : BitVec 32) : State :=
  let g := stageAt s d i
  let g' := { g with popped := g.popped.filter (· != ix), tags := g.tags.filter (fun e => e.1 != ix) }
  let s := modStage s d i (fun _ => g')
  let h := word128At s (stageHdr d g')
  if reelOk h then
    write128 s (stageHdr d g') (withRmaskR h (h.extractLsb' 112 16) (stageAdvance g'.popped g'.pidx 257 (reelR h)))
  else s

/-! ## Ends named by a handle (R243, R239) -/

/-- A live end that a handle names at the cell. -/
inductive EndRef
  | send (e : SendEnd)
  | recv (e : RecvEnd)
  | stage (idx lid : Nat)

def lookupEnd (s : State) (c : Nat) (h : Handle) : Option EndRef :=
  if hCell h != c then none
  else if hKind h == 1 then
    (findSend (cellAt s c) (hEid h)).bind (fun e => if e.ctx == hCtx h then some (.send e) else none)
  else if hKind h == 2 then
    (findRecv (cellAt s c) (hEid h)).bind (fun e =>
      if e.ctx == hCtx h && e.st != .frozen && e.st != .leaving && !e.closing then some (.recv e) else none)
  else if hKind h == 3 then
    let i := hEid h % 32
    let lid := hEid h / 32 % 256
    let g := stageAt s (dieOf c) i
    if g.v && g.lid.toNat == lid && g.ctx.toNat == hCtx h && hEid h / 2 ^ 18 == dieOf c then some (.stage i lid) else none
  else none

/-- The check of R243: non-null, a valid MAC, the take's context, held here. -/
def checkEnd (s : State) (c ctx : Nat) (h : Handle) : Option EndRef :=
  if h == 0 || !macOk h || hCtx h != ctx then none else lookupEnd s c h

/-! ## Grants (R293, Table 13.8) -/

def grantsOf (s : State) (c ctx : Nat) : List Word := (posOf s c ctx).grants.map (·.2)

def grantCell (s : State) (c ctx target : Nat) : Bool :=
  target == c || (grantsOf s c ctx).any (fun e =>
    let lo := (e.extractLsb' 0 11).toNat
    e[63] && e.extractLsb' 61 2 == 0#2 && decide (lo ≤ target) && decide (target < lo + (e.extractLsb' 16 11).toNat))

def grantGroup (s : State) (c ctx g : Nat) : Bool :=
  (grantsOf s c ctx).any (fun e => e[63] && e.extractLsb' 61 2 == 1#2 && (e.extractLsb' 0 8).toNat == g)

def grantStage (s : State) (c ctx i : Nat) : Bool :=
  (grantsOf s c ctx).any (fun e =>
    e[63] && e.extractLsb' 61 2 == 2#2 && (e.extractLsb' 0 5).toNat == i && (e.extractLsb' 8 2).toNat == dieOf c)

/-! ## Groups (R292, Table 13.7) -/

def groupAt (s : State) (d i : Nat) : BitVec 384 := tget (dieAt s d).groups i 0

def groupHas (e : BitVec 384) (i : Nat) : Bool := e.getLsbD (128 + i)

/-- DESIGN CHOICE (log 62). -/
def groupFor (e : BitVec 384) (ctx : Nat) : Bool := e[63] && (e.extractLsb' 48 12).toNat == ctx

/-! ## Gates (R314, Table 14.7) -/

def gateAt (s : State) (g i : Nat) : Gate := tget (groveAt s g).gates i ⟨0, none⟩

def modGate (s : State) (g i : Nat) (f : Gate → Gate) : State :=
  modGrove s g (fun x => { x with gates := tput x.gates i (f (tget x.gates i ⟨0, none⟩)) })

def gateMine (w : Word) (ctx : Nat) : Bool := w[63] && (w.extractLsb' 48 12).toNat == ctx

def gateArmed (w : Word) : Bool := w[62]

def gateCount (w : Word) : BitVec 32 := w.extractLsb' 0 32

def withGateCount (w : Word) (n : BitVec 32) : Word := w.extractLsb' 32 32 ++ n

def setBit64 (w : Word) (i : Nat) (b : Bool) : Word :=
  if b then w ||| BitVec.ofNat 64 (2 ^ i) else w &&& ~~~(BitVec.ofNat 64 (2 ^ i))

/-- Fire clears armed and emits the held message to the channel's home; a protected context's message between groves counts as a record of
the gate's grove (R318, R371). DESIGN CHOICE (log 87). -/
def fireGate (s : State) (g i : Nat) : State :=
  let x := gateAt s g i
  let s := modGate s g i (fun x => { word := setBit64 x.word 62 false, held := none })
  match x.held with
  | none => s
  | some m =>
    let s := if isProtected s m.ctx && g != groveOf m.home then modGrove s g (fun x => { x with records := x.records + 1 }) else s
    sendPkt s m.home (.data m.chan m.ctx m.home m.sid m.seq m.mv false m.msg)

/-! ## Barrier words (R300–R302, Table 14.2) -/

def barKey (c b : Nat) : Nat := locKey c (0x16000 + 16 * b)

def barAt (s : State) (c b : Nat) : BitVec 128 := word128At s (barKey c b)

def barV (w : BitVec 128) : Bool := w[115]

def barCtx (w : BitVec 128) : Nat := (w.extractLsb' 116 12).toNat

def barPh (w : BitVec 128) : Bool := w[114]

def barExp (w : BitVec 128) : Nat := (w.extractLsb' 96 16).toNat

def barGen (w : BitVec 128) : BitVec 16 := w.extractLsb' 80 16

def barArv (w : BitVec 128) : Nat := (w.extractLsb' 48 32).toNat

def barPend (w : BitVec 128) : BitVec 32 := w.extractLsb' 0 32

def mkBar (ctx : Nat) (v ph bovf bsat : Bool) (exp : Nat) (gen : BitVec 16) (arv : Nat) (pend : BitVec 32) : BitVec 128 :=
  BitVec.ofNat 12 ctx ++ BitVec.ofBool v ++ BitVec.ofBool ph ++ BitVec.ofBool bovf ++ BitVec.ofBool bsat ++ BitVec.ofNat 16 exp ++ gen
    ++ BitVec.ofNat 32 arv ++ (0#16) ++ pend

/-- A read of a bwait's result (R307). -/
def bwaitY (w : BitVec 128) (freed timedOut : Bool) : Word :=
  BitVec.ofNat 64 ((barGen w).toNat + (if barPh w then 2 ^ 16 else 0) + (if freed then 2 ^ 62 else 0) + (if timedOut then 2 ^ 63 else 0))

/-- What a woken `bwait` returns: gen after the completion that woke it, and ph as the word now has it (R307). -/
def wokenY (w : BitVec 128) (gen : BitVec 16) : Word := BitVec.ofNat 64 (gen.toNat + (if barPh w then 2 ^ 16 else 0))

/-- Wakes the bwaits of the cell's threads on word `b` that name the new parity (R302, R307). -/
def wakeBwait (s : State) (c b : Nat) (w : BitVec 128) : State :=
  modCell s c (fun x => { x with threads := x.threads.map (fun t =>
    match rget t.y 14#4 with
    | .pending (.bwait b' ph _ _) => if b'.toNat == b && ph == barPh w then { t with y := rset t.y 14#4 (.pending (.woken b' (barGen w))) } else t
    | _ => t) })

/-- Evaluate, one phase for each step of the fuel (R302). -/
def barEval : Nat → State → Nat → Nat → BitVec 128 → State
  | 0, s, c, b, w => write128 s (barKey c b) w
  | fuel + 1, s, c, b, w =>
    if barV w && decide (barExp w ≤ barArv w) && barPend w == 0 && decide (0 < barExp w) then
      let w := mkBar (barCtx w) true (!barPh w) w[113] w[112] (barExp w) (barGen w + 1) (barArv w - barExp w) 0
      barEval fuel (wakeBwait s c b w) c b w
    else write128 s (barKey c b) w

/-- Enough fuel for every phase a word can complete. -/
def barFuel (w : BitVec 128) : Nat := barArv w / max 1 (barExp w) + 1

/-- One arrival (R305). -/
def barArrive (s : State) (c b ctx bytes : Nat) : State :=
  let w := barAt s c b
  if !barV w || barCtx w != ctx then s
  else
    let p := (barPend w).toInt - bytes
    let low := decide (p < -(2 ^ 31))
    let w := mkBar ctx true (barPh w) w[113] (w[112] || low) (barExp w) (barGen w) (min (barArv w + 1) (2 ^ 32 - 1))
      (if low then 0x80000000#32 else BitVec.ofInt 32 p)
    barEval (barFuel w) s c b w

/-- Expected bytes (R306). -/
def barExpect (s : State) (c b ctx n : Nat) : State :=
  let w := barAt s c b
  if !barV w || barCtx w != ctx then s
  else if (2 : Int) ^ 31 - 1 < (barPend w).toInt + n then
    write128 s (barKey c b) (w ||| BitVec.ofNat 128 (2 ^ 113))
  else
    let w := mkBar ctx true (barPh w) w[113] w[112] (barExp w) (barGen w) (barArv w) (BitVec.ofInt 32 ((barPend w).toInt + n))
    barEval (barFuel w) s c b w

/-- Claim, reset or free of a word (R304); a freed word returns its waiters with bit 62 (R307, Table 14.11). DEDUCED (log 94). -/
def barInit (s : State) (c b ctx exp : Nat) : State :=
  let w := barAt s c b
  if barV w && barCtx w != ctx then s
  else if exp = 0 then
    let s := write128 s (barKey c b) 0
    modCell s c (fun x => { x with threads := x.threads.map (fun t =>
      match rget t.y 14#4 with
      | .pending (.bwait b' _ _ _) => if b'.toNat == b then { t with y := rset t.y 14#4 (.busy (bwaitY 0 true false)) } else t
      | _ => t) })
  else write128 s (barKey c b) (mkBar ctx true false false false exp 0 0 0)

end Sys2Proof.Machine
end

