-- ==== Sys2Proof/Machine/Ops.lean ====
section
/-! DEFINITION. The operations that instructions share: remote requests, a take's view of memory, performing deferred effects,
reports, and TAKING AN EXCEPTION: trap entry, cut, abort, and the release that returns from a hold (01_machine, 09_memories, 15_traps). -/

namespace Sys2Proof.Machine

/-! ## Performance counters (R323) -/

/-- Counts an event of Table 14.9 at a cell for a context. -/
def perf (s : State) (c ctx code n : Nat) : State :=
  if (cellAt s c).perfSel.toList.all (fun w => !w[63]) then s
  else modCell s c (fun x => { x with perfCnt := Vector.ofFn (fun i : Fin 8 =>
    let w := x.perfSel[i.val]'i.isLt
    let k := x.perfCnt[i.val]'i.isLt
    if w[63] && (w.extractLsb' 0 8).toNat == code && (!w[62] || (w.extractLsb' 48 12).toNat == ctx) then k + BitVec.ofNat 48 n else k) })

/-! ## Targets and the take's view (R16, R195, R196) -/

/-- The identity of a target's first byte: its key where the address alone decides it, else its virtual address. -/
def identOf : Target → Nat
  | .loc c o => locKey c o
  | .grv g o => grvKey g o
  | .glb va => 2 ^ 80 + va

/-- The keys of a target that needs no translation. -/
def directKeys (t : Target) (n : Nat) : Option (List Nat) :=
  match t with
  | .loc c o => some (keysFrom (locKey c o) n)
  | .grv g o => some (keysFrom (grvKey g o) n)
  | .glb _ => none

/-- The bytes an effect puts into the take's view: identity, key where granted, byte. -/
def effCells : Effect → List (Nat × Option Nat × Byte)
  | .store pieces _ _ keys _ _ =>
    let ids := pieces.flatMap (fun p => keysFrom (identOf p.tgt) p.bytes.length)
    let bs := pieces.flatMap (·.bytes)
    let ks := match keys with
      | some ks => ks.map some
      | none => List.replicate bs.length none
    ids.zip (ks.zip bs)
  | .rinit hdr v =>
    (keysFrom (identOf hdr) 16).zip (((directKeys hdr 16).getD []).map some |>.zip (leBytes 16 v.toNat))
  | .rmw tgt size _ keys _ (some v) _ =>
    let ks := match keys with
      | some ks => ks.map some
      | none => List.replicate size none
    (keysFrom (identOf tgt) size).zip (ks.zip (leBytes size v.toNat))
  | _ => []

/-- The latest of the effects' bytes at one place, else the byte given. -/
def overlayByte (cells : List (Nat × Option Nat × Byte)) (id : Nat) (key : Option Nat) (b : Byte) : Byte :=
  cells.foldl (fun b c => if c.1 == id || (key.isSome && c.2.1 == key) then c.2.2 else b) b

/-- Memory bytes overlaid by a take's effects (R16). -/
def overlay (effs : List Effect) (id : Nat) (keys : Option (List Nat)) (bs : List Byte) : List Byte :=
  let cells := effs.flatMap effCells
  if cells.isEmpty then bs
  else
    let ks := match keys with
      | some ks => ks.map some
      | none => List.replicate bs.length none
    ((keysFrom id bs.length).zip (ks.zip bs)).map (fun e => overlayByte cells e.1 e.2.1 e.2.2)

/-- Two byte ranges meet. -/
def meets (a n b m : Nat) : Bool := decide (a < b + m) && decide (b < a + n)

/-- An effect before the load whose view of these bytes is not known yet: an atomic whose old value has not arrived. -/
def viewUnknown (effs : List Effect) (id n : Nat) : Bool :=
  effs.any (fun e => match e with
    | .rmw tgt size _ _ false none _ => meets (identOf tgt) size id n
    | _ => false)

/-- A take's view of local or grove bytes. -/
def viewDirect (s : State) (effs : List Effect) (t : Target) (n : Nat) : List Byte :=
  let ks := (directKeys t n).getD []
  overlay effs (identOf t) (some ks) (readKeys s.mem ks)

/-! ## Atomics (R196) -/

def signedOf (size v : Nat) : Int :=
  let m := 2 ^ (8 * size)
  if m / 2 ≤ v % m then (v % m : Int) - m else (v % m : Int)

def amoNew (op : AmoOp) (size old a : Nat) : Nat :=
  let m := 2 ^ (8 * size)
  let x := old % m
  let y := a % m
  match op with
  | .add => (x + y) % m
  | .and => x &&& y
  | .or => x ||| y
  | .xor => x ^^^ y
  | .min => if signedOf size x ≤ signedOf size y then x else y
  | .max => if signedOf size x ≤ signedOf size y then y else x
  | .minu => min x y
  | .maxu => max x y
  | .fadd => faddBits size x y

/-- The value a read-modify-write leaves, or none where a `cas` does not match and writes nothing. -/
def rmwNew (what : Rmw) (size old : Nat) : Option Nat :=
  match what with
  | .cas e n => if old % 2 ^ (8 * size) == e.toNat % 2 ^ (8 * size) then some (n.toNat % 2 ^ (8 * size)) else none
  | .swp n => some (n.toNat % 2 ^ (8 * size))
  | .amo op a => some (amoNew op size old a.toNat)

/-! ## Remote requests (R190, R319) -/

/-- The thread may issue a request: fewer than 64 outstanding, and no discarded request with the next sequence number (R328). -/
def canRequest (s : State) (c : Nat) (t : BitVec 3) : Bool :=
  decide ((thr s c t).orc < 64) &&
    !(s.reqs.any (fun r => r.cell == c && r.th == t.toNat && r.discarded && r.seq == (thr s c t).reqseq + 1))

/-- Issues a request of the thread: orc and reqseq grow by 1. -/
def addRequest (s : State) (c : Nat) (t : BitVec 3) (pc : Word) (word : Nat) (kind : ReqKind) : State × Nat :=
  let x := thr s c t
  let r : Req := ⟨s.nextReq, c, t.toNat, x.ctx.toNat, x.msg.launch, x.reqseq + 1, word, pc, kind, .sent, false, [], s.cyc.toNat, x.takes, [], hbmUp s⟩
  let s := modThr s c t (fun x => { x with orc := x.orc + 1, reqseq := x.reqseq + 1 })
  let s := perf s c x.ctx.toNat 0x0D 1
  ({ s with reqs := s.reqs ++ [r], nextReq := s.nextReq + 1 }, r.id)

/-- The sequence number of the request that granted the effect of a word. -/
def grantSeq (x : Thread) (insn : Nat) : BitVec 16 := ((x.grants.find? (fun g => g.1 == insn)).map (·.2)).getD 0

/-- A request that counts in no orc: a posted access or a block read issued at print, under the number of its word's grant (R190). -/
def addSilent (s : State) (c : Nat) (t : BitVec 3) (insn : Nat) (kind : ReqKind) : State :=
  let x := thr s c t
  let r : Req :=
    ⟨s.nextReq, c, t.toNat, x.ctx.toNat, x.msg.launch, grantSeq x insn, insn, x.pc, kind, .sent, false, [], s.cyc.toNat, x.takes, [], hbmUp s⟩
  { s with reqs := s.reqs ++ [r], nextReq := s.nextReq + 1 }

def findReq (s : State) (id : Nat) : Option Req := s.reqs.find? (fun r => r.id == id)

def modReq (s : State) (id : Nat) (f : Req → Req) : State :=
  { s with reqs := s.reqs.map (fun r => if r.id == id then f r else r) }

def dropReq (s : State) (id : Nat) : State := { s with reqs := s.reqs.filter (fun r => r.id != id) }

/-! ## Translating a request (R185–R188) -/

/-- The translation that serves a request at `va`: a TLB hit, or a leaf that a walk answered. -/
def leafFor (s : State) (g ctx : Nat) (leaves : List TlbEntry) (va : Nat) : Option TlbEntry :=
  (tlbHit s g ctx va).or (leaves.find? (fun e => e.ctx == ctx && va / 2 ^ pageBits e.level == e.page))

/-- The operation an engine's request belongs to. -/
def engineOp (s : State) (c id : Nat) : Option (Bool × EngOp) :=
  match (cellAt s c).vxf.filter (fun o => o.id == id), (cellAt s c).mxf.filter (fun o => o.id == id) with
  | some o, _ => some (true, o)
  | none, some o => some (false, o)
  | none, none => none

/-- The global runs that a request touches. -/
def globalRuns (s : State) (r : Req) : List (Nat × Nat) :=
  let one : Target → Nat → List (Nat × Nat) := fun t n => match t with | .glb va => runsOf va n | _ => []
  match r.kind with
  | .load t n _ _ _ => one t n
  | .check t n _ _ _ => one t n
  | .atomic t n _ => one t n
  | .header t n _ _ => one t n
  | .engine id =>
    match engineOp s r.cell id with
    | some (_, o) => o.runs.flatMap (fun e => one e.1 e.2)
    | none => []
  | _ => []

/-- The first address of a request that no translation serves yet. -/
def missing (s : State) (r : Req) : Option Nat :=
  ((globalRuns s r).map (·.1)).find? (fun va => (leafFor s (groveOf r.cell) r.ctx r.leaves va).isNone)

/-- The request still wants its translation: a discarded one too where it is an atomic that its irrevocable take has executed (R196). -/
def wantsWalk (r : Req) : Bool :=
  r.stage == .sent && (!r.discarded || (match r.kind with | .atomic _ _ _ => true | _ => false))

/-- The pages that walks of a grove's translation unit are asked for, oldest first: its miss queue (R187). The first 16 are being walked.
DESIGN CHOICE (log 74). -/
def missQueue (s : State) (g : Nat) : List (Nat × Nat) :=
  s.reqs.foldl (fun q r =>
    if wantsWalk r && groveOf r.cell == g then
      match missing s r with
      | some va => if q.contains (r.ctx, va / 2 ^ 16) then q else q ++ [(r.ctx, va / 2 ^ 16)]
      | none => q
    else q) []

/-- A new access finds its page translated, asked for, or an entry of the miss queue free (R187). -/
def missRoom (s : State) (c : Nat) (t : BitVec 3) (runs : List (Nat × Nat)) : Bool :=
  let g := groveOf c
  let ctx := (thr s c t).ctx.toNat
  match (runs.map (·.1)).find? (fun va => (tlbHit s g ctx va).isNone) with
  | none => true
  | some va => let q := missQueue s g
    q.contains (ctx, va / 2 ^ 16) || decide (q.length < 256)

/-- The miss queue has room for an access at a target. -/
def targetRoom (s : State) (c : Nat) (t : BitVec 3) (tgt : Target) (n : Nat) : Bool :=
  match tgt with
  | .glb va => missRoom s c t (runsOf va n)
  | _ => true

/-- The posted writes and atomics of a thread that are not acknowledged (R209). -/
def postedOf (s : State) (c : Nat) (t : BitVec 3) : List (List Nat) :=
  s.reqs.filterMap (fun r => match r.kind with
    | .posted ks _ _ => if r.cell == c && r.th == t.toNat then some ks else none
    | _ => none)

/-- P1 at the source: an earlier posted access of the thread to one of the 64-B lines is unacknowledged (R209). -/
def lineBusy (s : State) (c : Nat) (t : BitVec 3) (ks : List Nat) : Bool :=
  (postedOf s c t).any (fun l => l.any (fun a => ks.any (fun b => a / 64 == b / 64)))

/-! ## Performing deferred effects (R20) -/

/-- One attempt to perform an effect. -/
inductive Perf
  | done (s : State)
  | part (s : State) (rest : Effect)
  | wait

/-- Bytes by key, cut into contiguous parts that lie in one naturally aligned 16-B granule (R192). -/
def partsOf : List (Nat × Byte) → List (Nat × List Byte)
  | [] => []
  | (k, b) :: r =>
    match partsOf r with
    | (k', bs) :: ps => if k' = k + 1 && k' % 16 != 0 then (k, b :: bs) :: ps else (k, [b]) :: (k', bs) :: ps
    | [] => [(k, [b])]

/-- Writes a protected context's bytes part by part. A write to a block is one read-modify-write of it: once its MAC has failed, the rest of what
goes to the block is discarded with it, and the failure counts once (R371, R374). `failed` holds such blocks. -/
def sealedPartsPast (ctx : Nat) : List Nat → List (Nat × List Byte) → State → Option State
  | _, [], s => some s
  | failed, (k, bs) :: r, s =>
    if failed.contains (k / 256) then sealedPartsPast ctx failed r s
    else (partWrite s ctx k bs).bind (fun e => sealedPartsPast ctx (if e.2 then k / 256 :: failed else failed) r e.1)

def sealedParts (ctx : Nat) (ps : List (Nat × List Byte)) (s : State) : Option State := sealedPartsPast ctx [] ps s

/-- The grove at whose cells or memory a key lies; none elsewhere. -/
def groveOfKey (k : Nat) : Option Nat :=
  if k < 2 ^ 32 then some (groveOf (k / 0x20000)) else if k < 2 ^ 60 then some ((k - 2 ^ 32) / 2 ^ 24) else none

/-- The record counter of a grove advances by one for each part that a protected context passes to or from another grove (R371). DESIGN CHOICE (log 87). -/
def countRecords (s : State) (g : Nat) (parts : List (Nat × List Byte)) (crosses : Nat → Bool) : State :=
  modGrove s g (fun x => { x with records := x.records + (parts.filter (fun p => crosses p.1)).length })

/-- A store reaches memory: at once within the device, posted beyond it; behind earlier posted accesses to its lines (P1, R209). -/
def performStore (s : State) (c : Nat) (t : BitVec 3) (ks : List Nat) (bs : List Byte) (sysRelease : Bool) (insn : Nat) : Perf :=
  let ctx := (thr s c t).ctx.toNat
  let pairs := ks.zip bs
  let dev := pairs.filter (fun e => !isSystemKey e.1)
  let sys := pairs.filter (fun e => isSystemKey e.1)
  if sysRelease && !(postedOf s c t).isEmpty then .wait
  else if lineBusy s c t ks then .wait
  else
    let s1 := if isProtected s ctx then sealedParts ctx (partsOf dev) (countRecords s (groveOf c) (partsOf dev) (fun k => ((groveOfKey k).any (· != groveOf c))))
      else some (applyWrite s (dev.map (·.1)) (dev.map (·.2)))
    match s1 with
    | none => .wait
    | some s1 => .done (if sys.isEmpty then s1 else addSilent s1 c t insn (.posted (sys.map (·.1)) (sys.map (·.2)) none))

/-- An atomic at a home of this device: the old value and the state after it; none while a sealed block waits. -/
def rmwHere (s : State) (ctx : Nat) (ks : List Nat) (size : Nat) (what : Rmw) : Option (Nat × State) :=
  match homeRead s ctx (ks.headD 0) size with
  | .wait => none
  | .refused _ => some (0, s)
  | .ecc => some (0, integrityEvent s ctx)
  | .ok bs =>
    match rmwNew what size (leNat bs) with
    | none => some (leNat bs, s)
    | some n => (homeWrite s ctx (ks.headD 0) (leBytes size n)).map (fun s => (leNat bs, s))

def performRmw (s : State) (c : Nat) (t : BitVec 3) (ks : List Nat) (size : Nat) (what : Rmw) (ared : Bool) (insn : Nat) : Perf :=
  if lineBusy s c t ks then .wait
  else if ared || ks.any isSystemKey then .done (addSilent s c t insn (.posted ks [] (some (size, what))))
  else
    match rmwHere s (thr s c t).ctx.toNat ks size what with
    | none => .wait
    | some (_, s) => .done s

/-- Writes a report of a take or queue into its context's ring; none while the ring has no room (R333, R334). DESIGN CHOICE (log 92). -/
def placeReport (s : State) (c : Nat) (r : Report) : Option State :=
  let d := dieOf c
  let x := ctxRec s d r.ctx
  if 4 ≤ x.k.toNat && x.k.toNat ≤ 12 && (x.widx - x.ridx).toNat < 2 ^ x.k.toNat then
    let base := mgmtKey d (x.base.toNat * 512 + x.widx.toNat % 2 ^ x.k.toNat * 512)
    let s := applyWrite s (keysFrom base 512) (r.words.flatMap (fun w => leBytes 8 w.toNat))
    some (modCtxRec s d r.ctx (fun x => { x with widx := x.widx + 1 }))
  else none

/-- Word 0 of a report entry (Table 15.3). -/
def reportWord0 (kind ctx reason code c th cause : Nat) : Word :=
  BitVec.ofNat 64 (kind * 2 ^ 60 + ctx * 2 ^ 48 + reason * 2 ^ 40 + code * 2 ^ 24 + c * 2 ^ 13 + th * 2 ^ 10 + cause)

def mkReport (ctx : Nat) (w0 release slate cyc a b : Word) (frame : List Word) (th : Option Nat) : Report :=
  ⟨ctx, ([w0, release, slate, cyc, a, b, 0, 0] ++ (frame ++ List.replicate 44 0).take 44 ++ List.replicate 12 0), th⟩

/-- The report's thread has posted accesses that are not acknowledged: the report is a release at system scope (R209, R333). One that never
will be is the fault that such a report tells (Table 10.5). DEDUCED (log 90). -/
def reportHeld (s : State) (c : Nat) (r : Report) : Bool :=
  match r.th with
  | some t => s.reqs.any (fun q => q.cell == c && q.th == t && q.stage != .lost && (match q.kind with | .posted _ _ _ => true | _ => false))
  | none => false

/-- Places a report, or leaves it waiting at its cell behind earlier ones of the context (R334). -/
def fileReport (s : State) (c : Nat) (r : Report) : State × Bool :=
  let waiting := reportHeld s c r || (cellAt s c).reports.any (fun q => q.ctx == r.ctx)
  match (if waiting then none else placeReport s c r) with
  | some s => (s, true)
  | none => (modCell s c (fun x => { x with reports := x.reports ++ [r] }), false)

/-- Serves a group's member cells in cell-number order from `i` on (R246): the state, the member that has no room, and whether a message was
placed. DEDUCED (log 17). -/
def performGroup (s : State) (ctx d : Nat) (mask : BitVec 384) (w : Waiter) (mk : Nat → State → Msg × State) : Nat → Nat → State × Option Nat × Bool
  | 0, _ => (s, none, false)
  | fuel + 1, i =>
    let c := d * 256 + i
    if groupHas mask i && resident s c ctx then
      if !cqTurn s c ctx w then (s, some i, false)
      else
        let (m, s) := mk c s
        let (s, r, _) := performGroup (cqPlace s c ctx w m) ctx d mask w mk fuel (i + 1)
        (s, r, true)
    else performGroup s ctx d mask w mk fuel (i + 1)

/-- The image of a message goes into its claimed slot of a stage reel, and the claim is published once its turn has come (R264, R270). An
invalid header discards it (R263). What of a slot lies past the end of the reel's memory is not written. DESIGN CHOICE (log 123). -/
def publishStage (s : State) (d idx lid k : Nat) (start : BitVec 32) (m : Msg) : Perf :=
  let h := word128At s k
  if !reelOk h then .done s
  else if reelW h != start then .wait
  else
    let s := applyWrite s (slotKeys k h start 128) (msgImage m)
    let s := write128 s k (withW h (start + 1))
    .done (modStage s d idx (fun g => if g.v && g.lid.toNat == lid then { g with tags := (start, m.launch) :: g.tags } else g))

/-- The request's reel header. -/
def jobReel (c : Nat) (j : CopyJob) : Nat :=
  let a := (j.w0.extractLsb' 24 20).toNat * 16
  if j.w0[47] then grvKey (groveOf c) (a % 2 ^ 24) else locKey c a

/-- Sends go last; the registration of a new end precedes them (R20, R248). -/
def isSend : Effect → Bool
  | .send (.register _) _ _ _ _ => false
  | .send _ _ _ _ _ => true
  | _ => false

/-- The effects in the order print performs them: program order, sends last (R20). DEDUCED (log 14). -/
def printOrder (es : List Effect) : List Effect := es.filter (fun e => !isSend e) ++ es.filter isSend

/-- The effect at which a take stands: the next of its print, or what an irrevocable take's word wants to send, else its first held effect. -/
def standsAt (x : Thread) : Option Effect :=
  if x.phase == .printing then (printOrder x.effects).head?
  else if x.phase == .irrevocable then x.wants.or x.effects.head?
  else none

/-- The reel at whose claim the take stands. -/
def headReel (s : State) (c : Nat) (x : Thread) : Option Nat :=
  match standsAt x with
  | some (.send (.stage i _) _ _ _ _) => some (stageHdr (dieOf c) (stageAt s (dieOf c) i))
  | _ => none

/-- The effect needs a credit of the send end. -/
def sendsOn (eid : Nat) (e : Effect) : Bool :=
  match e with
  | .send (.chan i) _ _ _ _ => i == eid
  | .send (.move i _ _ _) _ _ _ _ => i == eid
  | .send (.closeSend i _) _ _ _ _ => i == eid
  | .send (.gate _ _ _ i) _ _ _ _ => i == eid
  | _ => false

/-- The end has no credit, or another take of its cell began to wait for one before cycle `n`: that one is served first (R235, R241). -/
def noCredit (s : State) (c : Nat) (e : SendEnd) (n : Nat) : Bool :=
  credits e == 0 || (cellAt s c).threads.toList.any (fun x => x.waits.any (fun w => decide (w < n)) && (standsAt x).any (sendsOn e.eid))

/-- Another producer that waits for slots of the reel began to wait before cycle `n`: it is served first (R235). -/
def reelAhead (s : State) (k n : Nat) : Bool :=
  s.cells.any (fun e =>
    e.2.jobs.any (fun j => j.claim.isNone && j.waits.any (fun w => decide (w < n)) && jobReel e.1 j == k) ||
    e.2.threads.toList.any (fun x => x.waits.any (fun w => decide (w < n)) && headReel s e.1 x == some k)) ||
  s.launches.any (fun l => l.claim.isNone && l.waits.any (fun w => decide (w.1 < n) && w.2 == k))

/-- A message that enters a stage reel: Claim, and then image and Publish, at once or when earlier claims are published (R264, R270).
Discarded on a stale entry or an invalid header. DEDUCED (log 73). -/
def performStage (s : State) (d idx lid began : Nat) (m : Msg) (held : Nat → BitVec 32 → Effect) : Perf :=
  let g := stageAt s d idx
  if !g.v || g.lid.toNat != lid then .done s
  else
    let k := stageHdr d g
    let h := word128At s k
    if !reelOk h then .done s
    else if !reelRoom h 1 || reelAhead s k began then .wait
    else
      let s := write128 s k (withC h (reelC h + 1))
      match publishStage s d idx lid k (reelC h) m with
      | .done s => .done s
      | _ => .part s (held k (reelC h))

/-- The take's h register becomes null where it still holds the handle. -/
def clearH (s : State) (c : Nat) (t : BitVec 3) (h : BitVec 3) : State := modThr s c t (fun x => { x with h := rset x.h h 0 })

/-- The end a `sndh` moves leaves the cell: its record in the lane, or none where it is gone (R246, R257, R258). -/
def takeMoved (s : State) (c eid : Nat) (recv : Bool) : Option (EndRec × State) :=
  if recv then
    (findRecv (cellAt s c) eid).bind (fun r =>
      if r.st == .frozen || r.st == .leaving || r.closing then none
      else
        let hm := (findHome (cellAt s r.home) eid)
        some (.recv eid r.home r.gen r.depth (hm.map (·.pri) |>.getD r.pri) c,
          modRecv s c eid (fun r => { r with st := match r.st with | .inbound => .leaving | _ => .frozen })))
  else (findSend (cellAt s c) eid).map (fun e => (.send { e with mv := e.mv + 1 }, delSend s c eid))

/-- A launch enters the launch units' queues (R282, R353). -/
def submitLaunch (s : State) (ctx : Nat) (who : Submitter) (desc : List Byte) : State :=
  let place := leNat (desc.take 1) % 8
  let dies := if place == 4 then [0, 1, 2, 3] else if place < 4 then [place] else [0]
  { s with launches := s.launches ++ [⟨s.nextLaunch, ctx, who, desc, dies, [], [], [], [], 0, none, none⟩], nextLaunch := s.nextLaunch + 1 }

/-- The length of a launch descriptor (R280). -/
def descLen (w0 : Nat) : Nat := 0x60 + 16 * (w0 / 2 ^ 8 % 32 + 1) + 48 * (w0 / 2 ^ 32 % 16)

def lnchDesc (s : State) (c off : Nat) : List Byte :=
  let n := descLen (leNat (readKeys s.mem (keysFrom (locKey c off) 8)))
  readKeys s.mem (keysFrom (locKey c off) n)

/-- The vector's message may be sent: MSI-X is on, and neither the function nor the vector is masked (R355). PRESUMED (log 66). -/
def vectorOpen (p : Partition) (vec : Nat) : Bool := p.msixOn && !p.msixMask && p.unmasked.contains vec

/-- The message of a vector: its number, and the address and data of its table entry. -/
def msixMessage (p : Partition) (vec : Nat) : Nat × Word × BitVec 32 := (vec, tget p.msixTable vec (0, 0))

/-- Raises an MSI-X vector of a partition (R355). PRESUMED (log 66). -/
def raiseVector (s : State) (f : BitVec 4) (vec : Nat) : State :=
  let p := rget s.parts f
  let p := if vectorOpen p vec then { p with msix := p.msix ++ [msixMessage p vec] }
    else { p with pend := if p.pend.contains vec then p.pend else p.pend ++ [vec] }
  { s with parts := rset s.parts f p }

/-- A held `sig` raises its vector, unless the partition is resetting or its count was lowered below it meanwhile (R341, R355, Table 16.6). -/
def raiseHeld (s : State) (f : BitVec 4) (vec : Nat) : State :=
  let p := rget s.parts f
  if !p.ctl[61] && vec ≤ (p.ctl.extractLsb' 32 11).toNat then raiseVector s f vec else s

/-- Kicks a FIFO entry (R215). -/
def kickEntry (s : State) (c : Nat) (i : BitVec 4) : State :=
  let s' := modCell s c (fun x => { x with fifo := rset x.fifo i { rget x.fifo i with st := .kicked s.nextKick s.cyc.toNat } })
  { s' with nextKick := s.nextKick + 1 }

/-- A handler-table entry changes: queues blocked by its class may report UNBOUND again, and a head that it binds becomes dispatchable in the
next cycle (R279). DEDUCED (log 47). -/
def setHandler (s : State) (c ctx : Nat) (i : Nat) (v : Word) : State :=
  let clear : Option Nat → Option Nat := fun r => if r == some i then none else r
  let s := modPos s c ctx (fun p => { p with
    handlers := tput p.handlers i v, boundAt := tput p.boundAt i (s.cyc + 1), cqReported := clear p.cqReported, stageReported := clear p.stageReported,
    landReported := clear p.landReported })
  modCell s c (fun x => { x with recvs := x.recvs.map (fun r => if r.ctx == ctx then { r with reported := clear r.reported } else r) })

/-- `hset` at print. In the cycle of a management write to the same entry it is applied first, so the management write stands (Table 13.10). -/
def performHset (s : State) (c ctx i : Nat) (v : Word) : State :=
  if tget (posOf s c ctx).mgmtAt i 0 == s.cyc + 1 then s else setHandler s c ctx i v

/-- A channel, closing or moving send of the thread (R246, R250); a stage message has seq 0 and a member cell numbers a group message. DEDUCED
(log 17); DESIGN CHOICE (log 116). -/
def performSend (s : State) (c : Nat) (t : BitVec 3) (k : SendKind) (cls sub : Nat) (payload : List Word) : Perf :=
  let x := thr s c t
  let ctx := x.ctx.toNat
  let m : Msg := ⟨0, payload, none, x.msg.launch⟩
  let began := x.waits.getD s.cyc.toNat
  match k with
  | .chan eid =>
    match findSend (cellAt s c) eid with
    | none => .done s
    | some e =>
      if e.orphan then .done s
      else if noCredit s c e began then .wait
      else .done (emitData s c e false cls payload.length 0 m)
  | .stage idx lid =>
    let sid := stageEid (dieOf c) lid idx
    performStage s (dieOf c) idx lid began { m with slate := mkSlate ctx cls payload.length false 0 0 0 sid }
      (fun k start => .send (.claimed idx lid k start) (BitVec.ofNat 5 cls) (BitVec.ofNat 4 sub) payload 1)
  | .claimed idx lid k start =>
    publishStage s (dieOf c) idx lid k start { m with slate := mkSlate ctx cls payload.length false 0 0 0 (stageEid (dieOf c) lid idx) }
  | .move eid h moved recv =>
    match takeMoved s c moved recv with
    | none => .done (clearH s c t h)
    | some (lane, s') =>
      match findSend (cellAt s c) eid with
      | none => .done s
      | some e =>
        if e.orphan then .done s
        else if noCredit s c e began then .wait
        else .done (clearH (emitData s' c e false 16 payload.length sub { m with lane := some lane }) c t h)
  | .group g start =>
    let mk : Nat → State → Msg × State := fun c' s =>
      let (n, s) := takeMsgCtr s c'
      (⟨mkSlate ctx cls payload.length false 0 n 0 0xFFFFF, payload, none, x.msg.launch⟩, s)
    let e := groupAt s (dieOf c) g
    match performGroup s ctx (dieOf c) (if groupFor e ctx then e else 0) (.print c t.toNat) mk (256 - start) start with
    | (s, none, _) => .done s
    | (s, some i, true) => .part s (.send (.group g i) (BitVec.ofNat 5 cls) (BitVec.ofNat 4 sub) payload 1)
    | (_, some _, false) => .wait
  | .closeSend eid h =>
    match findSend (cellAt s c) eid with
    | none => .done (clearH s c t h)
    | some e =>
      if e.orphan then .done (clearH (delSend s c eid) c t h)
      else if noCredit s c e began then .wait
      else .done (clearH (closeSendEnd s c eid x.msg.launch) c t h)
  | .closeStage h => .done (clearH s c t h)
  | .closeRecv eid h => .done (clearH (closeRecvEnd s c eid) c t h)
  | .gate g i count eid =>
    let w := (gateAt s g i).word
    if !gateMine w ctx then .done s
    else if gateArmed w then .done (modGate s g i (fun y => { y with word := setBit64 y.word 61 true }))
    else
      match findSend (cellAt s c) eid with
      | none => .done s
      | some e =>
        if e.orphan then .done s
        else if noCredit s c e began then .wait
        else
          let gm : GateMsg := ⟨e.chan, e.ctx, e.home, e.eid, e.ns, e.mv,
            { m with slate := mkSlate 0 cls payload.length false 0 e.ns 0 e.eid }⟩
          let s := modSend s c eid (fun e => { e with ns := e.ns + 1 })
          let s := modGate s g i (fun y => { word := setBit64 (withGateCount y.word count) 62 true, held := some gm })
          .done (if count = 0 then fireGate s g i else s)
  | .trap code a b =>
    let r := mkReport ctx (reportWord0 3 ctx 0xFF code.toNat c t.toNat 0) 0 x.slate s.cyc a b [] none
    if !(postedOf s c t).isEmpty then .wait
    else
      match placeReport s c r with
      | some s => .done s
      | none => .wait
  | .register eid =>
    match findSend (cellAt s c) eid with
    | none => .done s
    | some e => .done (sendPkt (modSend s c eid (fun e => { e with registered := true })) e.home (.reg e.chan e.ctx eid c e.mv))
  | .vsnd _ => .done s

/-- Performs one effect of the thread's take (R20, R22). -/
def performEffect (s : State) (c : Nat) (t : BitVec 3) (e : Effect) : Perf :=
  let x := thr s c t
  let ctx := x.ctx.toNat
  match e with
  | .store pieces _ _ (some ks) sysRelease insn => performStore s c t ks (pieces.flatMap (·.bytes)) sysRelease insn
  | .rmw _ size what (some ks) ared _ insn => performRmw s c t ks size what ared insn
  | .store _ _ _ none _ _ => .wait
  | .rmw _ _ _ none _ _ _ => .wait
  | .marker => if (postedOf s c t).isEmpty then .done s else .wait
  | .hsave i h => .done (modPos s c ctx (fun p => { p with hstore := tput p.hstore i.toNat h }))
  | .hset i v => .done (performHset s c ctx i.toNat v)
  | .lnch off => .done (submitLaunch s ctx (.take c ctx) (lnchDesc s c off))
  | .sig vec => if (postedOf s c t).isEmpty then .done (raiseHeld s (partOf s ctx) vec.toNat) else .wait
  | .kick _ (some i) => .done (kickEntry s c i)
  | .kick _ none => .wait
  | .rbr src dst _ cls t' (some ks) insn => .done (addSilent s c t insn (.block src ks dst cls t'))
  | .rbr _ _ _ _ _ none _ => .wait
  | .rinit hdr v =>
    match directKeys hdr 16 with
    | some ks => .done (applyWrite s ks (leBytes 16 v.toNat))
    | none => .done s
  | .rrel hdr i =>
    match directKeys hdr 16 with
    | some ks =>
      let k := ks.headD 0
      let h := word128At s k
      .done (if reelOk h && decide ((i - reelR h).toNat < 16) then write128 s k (reelRelease h i) else s)
    | none => .done s
  | .binit b exp => .done (barInit s c b.toNat ctx exp.toNat)
  | .bexp b n => .done (barExpect s c b.toNat ctx n)
  | .barr c' b bytes => .done (barArrive s c' b.toNat ctx bytes.toNat)
  | .gdec i =>
    let g := groveOf c
    let w := (gateAt s g i.toNat).word
    if !gateMine w ctx then .done s
    else if gateCount w = 0 then .done (modGate s g i.toNat (fun y => { y with word := setBit64 y.word 60 true }))
    else
      let s := modGate s g i.toNat (fun y => { y with word := withGateCount y.word (gateCount y.word - 1) })
      .done (if gateCount w = 1 && gateArmed w then fireGate s g i.toNat else s)
  | .send k cls sub payload _ => performSend s c t k cls.toNat sub.toNat payload

/-- Store-buffer entries an effect takes (R18, R330). -/
def storeEntries : Effect → Nat
  | .store _ n _ _ _ _ => n
  | .rmw _ _ _ _ _ _ _ => 1
  | .marker => 1
  | .hsave _ _ => 1
  | .rinit _ _ => 1
  | .rrel _ _ => 1
  | .binit _ _ => 1
  | .bexp _ _ => 1
  | .barr _ _ _ => 1
  | .gdec _ => 1
  | _ => 0

/-- Print-buffer entries an effect takes (R18). -/
def printEntries : Effect → Nat
  | .send _ _ _ _ n => n
  | _ => 0

/-- Performs effects in order until one waits; the list left, and whether anything happened. -/
def performAll (c : Nat) (t : BitVec 3) : List Effect → State → State × List Effect × Bool
  | [], s => (s, [], false)
  | e :: r, s =>
    match performEffect s c t e with
    | .done s => let (s, l, _) := performAll c t r s; (s, l, true)
    | .part s e' => (s, e' :: r, true)
    | .wait => (s, e :: r, false)

/-! ## The end of a take -/

/-- Operations of a thread in a queue. -/
def opsOf (t : BitVec 3) (q : List EngOp) : List EngOp := q.filter (fun o => o.th == t.toNat)

def notOf (t : BitVec 3) (q : List EngOp) : List EngOp := q.filter (fun o => o.th != t.toNat)

def optOps (t : BitVec 3) (o : Option EngOp) : List EngOp := opsOf t o.toList

def vxOps (x : Cell) (t : BitVec 3) : List EngOp := optOps t x.vxf ++ opsOf t x.vxq

def mxOps (x : Cell) (t : BitVec 3) : List EngOp := optOps t x.mxf ++ opsOf t x.mxq

def cpOps (x : Cell) (t : BitVec 3) : List EngOp := opsOf t x.cpq

/-- `n` entries of the trigger queue of unit `u` become free in cycle `cyc`: they are taken again no earlier than in the next (R43, R163). -/
def freedQueue (u n cyc : Nat) (x : Cell) : Cell :=
  { x with qFreed := (cyc, List.replicate n u ++ (if x.qFreed.1 == cyc then x.qFreed.2 else [])) }

/-- No operation of the thread is queued or running on `vx` or `mx`. -/
def enginesIdle (x : Cell) (t : BitVec 3) : Bool := (vxOps x t).isEmpty && (mxOps x t).isEmpty

/-- The holder gives up the engine files once its operations are gone (R77). -/
def releaseFiles (s : State) (c : Nat) (t : BitVec 3) : State :=
  modCell s c (fun x => { x with
    efOwner := if x.efOwner == some t.toNat && enginesIdle x t then none else x.efOwner,
    efWait := x.efWait.filter (· != t.toNat) })

/-- The thread is free: its watch entries are disarmed and the engine files released (R77, R273). -/
def freeThread (s : State) (c : Nat) (t : BitVec 3) (ph : Phase) : State :=
  let s := modThr s c t (fun x => { x with
    phase := ph, pinned := false, pinning := false, waits := none, wants := none, effects := [], undo := [], consumed := [], pages := [], past := Past.reset,
    y := Vector.replicate 16 .untriggered })
  let s := modCell s c (fun x => { x with watch := x.watch.filter (fun w => w.th != t.toNat) })
  releaseFiles s c t

/-- The triggering message is consumed: its slot, stage entry or ring space becomes free (R21, R250, R270, R271). -/
def consumeOrigin (s : State) (c : Nat) (t : BitVec 3) : State :=
  let x := thr s c t
  let s := if x.msg.lane.isSome then closeLane s x.msg.launch x.msg.lane else s
  match x.origin with
  | .channel eid note home => consumeNote s c eid home note
  | .completion => s
  | .stage i ix lid =>
    let g := stageAt s (dieOf c) i
    if g.v && g.lid.toNat == lid then stageRelease s (dieOf c) i ix else s
  | .landing ring size =>
    let k := locKey c ring
    let h := word128At s k
    write128 s k (h.extractLsb' 64 64 ++ (h.extractLsb' 32 32 + BitVec.ofNat 32 size) ++ h.extractLsb' 0 32)

/-- DEDUCED (log 14). -/
def consumeAll (s : State) (c : Nat) (l : List Consumed) : State := l.foldl (fun s n => consumeNote s c n.eid n.home n.note) s

/-- The take has performed every effect: Printed (Table 1.3). DEDUCED (log 14). -/
def finishPrint (s : State) (c : Nat) (t : BitVec 3) : State :=
  let x := thr s c t
  let s := consumeAll s c x.consumed
  let s := consumeOrigin s c t
  let s := perf s c x.ctx.toNat 0x06 1
  freeThread s c t .idle

/-! ## Taking an exception (R328–R331) -/

/-- What a trap writes: its cause, the PC the frame quotes, the refused request and reason, the engine operation that faulted, and the
kind of its report (0 fault, 2 `brk`) with a code. -/
structure TrapInfo where
  cause : Cause
  pc : Word
  seq : BitVec 16
  reason : Nat
  op : Option Nat
  kind : Nat
  code : Nat
  deriving DecidableEq, Repr

/-- DEDUCED (log 26). -/
def insertOp (o : EngOp × Bool × Nat) : List (EngOp × Bool × Nat) → List (EngOp × Bool × Nat)
  | [] => [o]
  | p :: r => if o.1.id < p.1.id then o :: p :: r else p :: insertOp o r

/-- A `cpush` waits at the `cp` head for a free entry (R328). -/
def cpWaiting (x : Cell) : Bool :=
  match x.cpq with
  | o :: _ => (match o.insn with | .cpush _ _ => true | _ => false) && x.fifo.toList.all (fun f => f.st != .free)
  | [] => false

/-- The engine operations of a thread in trigger order, with in-flight mark and unit (R97, R328). DEDUCED (log 26). -/
def recordedOps (x : Cell) (t : BitVec 3) : List (EngOp × Bool × Nat) :=
  let vx := (optOps t x.vxf).map (fun o => (o, true, 11)) ++ (opsOf t x.vxq).map (fun o => (o, false, 11))
  let mx := (optOps t x.mxf).map (fun o => (o, true, 12)) ++ (opsOf t x.mxq).map (fun o => (o, false, 12))
  let cpHead := match x.cpq with | o :: _ => o.id | [] => 0
  let cp := (opsOf t x.cpq).map (fun o => (o, cpWaiting x && o.id == cpHead, 13))
  (vx ++ mx ++ cp).foldr insertOp []

/-- DEDUCED (log 25). -/
def opWords (prot : Bool) (o : EngOp × Bool × Nat) : List Word :=
  [BitVec.ofNat 64 (2 ^ 63 + (if o.2.1 then 2 ^ 36 else 0) + o.2.2 * 2 ^ 32 + o.1.word.toNat),
    if prot then 0 else o.1.a, if prot then 0 else o.1.b, if prot then 0 else o.1.t]

/-- DEDUCED (log 25). -/
def opIndex (id : Nat) : List (EngOp × Bool × Nat) → Nat → Nat
  | [], _ => 0
  | o :: r, i => if o.1.id == id then i + 1 else opIndex id r (i + 1)

/-- The words of a trap frame, offsets 0x00 to 0x2B (Table 4.17, R329): an engine holds one operation in flight and two queued, so nine are all.
DEDUCED (log 26). -/
def frameWords (s : State) (c : Nat) (t : BitVec 3) (i : TrapInfo) (irrevocable : Bool) : List Word :=
  let x := thr s c t
  let ops := (recordedOps (cellAt s c) t).take 9
  [BitVec.ofNat 64 (2 ^ 63 + x.ctx.toNat * 2 ^ 16 + (if irrevocable then 2 ^ 11 else 0) + t.toNat * 2 ^ 8 + causeCode i.cause),
   i.pc, x.slate,
   BitVec.ofNat 64 ((if x.orc = 0 then 2 ^ 32 else 0) + i.seq.toNat * 2 ^ 16 + x.orc % 128),
   BitVec.ofNat 64 ((match i.op with | some id => opIndex id ops 0 | none => 0) * 16 + ops.length), 0, 0, 0]
    ++ (ops.map (fun o => (o.1, o.2.1 || i.op == some o.1.id, o.2.2))).flatMap (opWords (isProtected s x.ctx.toNat)) ++ List.replicate (36 - 4 * ops.length) 0

def frameOf (ws : List Word) : RegFile 6 Word := Vector.ofFn (fun i : Fin 64 => ws.getD i.val 0)

/-- Leaves a grove join (R175). -/
def leaveJoins (s : State) (c ctx : Nat) : State :=
  modGrove s (groveOf c) (fun g => { g with joins :=
    (g.joins.map (fun j => if j.ctx == ctx then { j with cells := j.cells.filter (· != c) } else j)).filter (fun j => !j.cells.isEmpty) })

/-- The take is past the point of return: irrevocable, or settling or printing as such (Table 1.3). DESIGN CHOICE (log 16). -/
def isIrrevocable (x : Thread) : Bool := x.phase == .irrevocable || x.pinned

/-- What an irrevocable take still owes when it is aborted: its `ared` effects, granted or not, and what was granted and is held back by one of
them, by its line or by acknowledgements: a store, a block read, and a header write where no check of one is outstanding (R199, R209, R331).
DEDUCED (log 95). -/
def isOwed (checked : Bool) (e : Effect) : Bool :=
  match e with
  | .rmw _ _ _ _ true _ _ => true
  | .store _ _ none (some _) _ _ => true
  | .rbr _ _ _ _ _ (some _) _ => true
  | .rrel _ _ => checked
  | .rinit _ _ => checked
  | _ => false

/-- No check of a header write of the thread is outstanding. -/
def headersChecked (s : State) (c : Nat) (t : BitVec 3) : Bool :=
  !s.reqs.any (fun r => r.cell == c && r.th == t.toNat && !r.discarded && (match r.kind with
    | .header _ _ _ .access => true
    | .header _ _ _ (.release _) => true
    | _ => false))

/-- An owed effect that a posted access without acknowledgement holds back for good (R209, Table 10.5). DEDUCED (log 95). -/
def blockedForGood (s : State) (c : Nat) (t : BitVec 3) (e : Effect) : Bool :=
  let lost := s.reqs.filterMap (fun r => match r.kind with
    | .posted ks _ _ => if r.cell == c && r.th == t.toNat && r.stage == .lost then some ks else none
    | _ => none)
  let onLine : List Nat → Bool := fun ks => lost.any (fun l => l.any (fun a => ks.any (fun b => a / 64 == b / 64)))
  match e with
  | .store _ _ _ (some ks) sysRelease _ => (sysRelease && !lost.isEmpty) || onLine ks
  | .rmw _ _ _ (some ks) _ _ _ => onLine ks
  | _ => false

/-- The owed effects, as far as no fence of a `pin` that has not ended stands before them. DEDUCED (log 95). -/
def owedEffects (checked : Bool) (x : Thread) : List Effect := (x.effects.takeWhile (· != .marker)).filter (isOwed checked)

/-- The request asks the grant of an `ared` that an irrevocable take still owes (R199, R331). DEDUCED (log 95). -/
def grantsOwed (x : Thread) (r : Req) : Bool :=
  match r.kind with
  | .check _ _ (some _) insn _ => isIrrevocable x && x.effects.any (fun e => match e with
      | .rmw _ _ _ none true _ i => i == insn
      | _ => false)
  | _ => false

/-- Steps 2 to 4 of trap entry: the thread's operations and requests are put down (R328). -/
def dropWork (s : State) (c : Nat) (t : BitVec 3) : State :=
  let x := thr s c t
  let joined := (optOps t (cellAt s c).mxf).any (·.joined)
  let s := if joined then leaveJoins s c x.ctx.toNat else s
  let s := modCell s c (fun x =>
    let x := freedQueue 11 (opsOf t x.vxq).length s.cyc.toNat (freedQueue 12 (opsOf t x.mxq).length s.cyc.toNat
      (freedQueue 13 (opsOf t x.cpq).length s.cyc.toNat x))
    { x with
      vxf := x.vxf.filter (fun o => o.th != t.toNat), vxq := notOf t x.vxq,
      mxf := x.mxf.filter (fun o => o.th != t.toNat), mxq := notOf t x.mxq, cpq := notOf t x.cpq,
      qWait := x.qWait.filter (fun e => e.2 != t.toNat) })
  let s := { s with reqs := s.reqs.map (fun r =>
    match r.kind with
    | .posted _ _ _ => r
    | .block _ _ _ _ _ => r
    | _ => if r.cell == c && r.th == t.toNat && !grantsOwed x r then { r with discarded := true } else r) }
  modThr s c t (fun x => { x with orc := 0 })

/-- The release word of the queue a message came from (R335); 0 where the queue has none. DEDUCED (log 39). -/
def releaseWord (ctx : Nat) : Origin → Word
  | .channel eid _ _ => BitVec.ofNat 64 (2 ^ 62 + ctx * 2 ^ 32 + eid)
  | .completion => BitVec.ofNat 64 (2 ^ 63 + ctx * 2 ^ 32)
  | .stage i _ _ => BitVec.ofNat 64 (3 * 2 ^ 62 + ctx * 2 ^ 32 + i)
  | .landing _ _ => 0

/-- The triggering message returns to the head of its queue, which a fault cut also holds (R21, R330). -/
def returnOrigin (s : State) (c : Nat) (t : BitVec 3) (hold : Bool) : State :=
  let x := thr s c t
  let ctx := x.ctx.toNat
  match x.origin with
  | .channel eid note home => returnNote s c eid home note hold
  | .completion => modPos s c ctx (fun p => { p with cq := x.msg :: p.cq, cqHeld := p.cqHeld || hold, cqSince := none })
  | .stage i ix lid =>
    modStage s (dieOf c) i (fun g =>
      if g.v && g.lid.toNat == lid then
        { g with
          returned := if g.returned.contains ix then g.returned else ix :: g.returned, hold := g.hold || hold,
          backAt := s.cyc.toNat + 1 }
      else g)
  | .landing ring size =>
    modPos s c ctx (fun p => { p with landings := (ring, x.msg, size) :: p.landings, landSince := none })

def undoOne (s : State) (c : Nat) : Undo → State
  | .chnew r e =>
    let s := delSend (delRecv s c r) c e
    modCell s c (fun x => { x with homes := x.homes.filter (fun h => h.chan != r) })
  | .hdup src new n => modSend (delSend s c new) c src (fun e => { e with w := e.w + n })

/-- A FIFO entry freed now: a `cpush` that waits reserves it no earlier than in the next cycle (R233). -/
def freedEntry (s : State) : FifoEntry := { FifoEntry.reset with since := s.cyc.toNat + 1 }

/-- Steps 1 to 4 of a cut (R330). -/
def cutTake (s : State) (c : Nat) (t : BitVec 3) (hold : Bool) : State :=
  let x := thr s c t
  let s := modCell s c (fun y => { y with fifo := y.fifo.map (fun f => if f.st == .reserved t.toNat then freedEntry s else f) })
  let s := x.undo.foldl (fun s u => undoOne s c u) s
  let s := x.consumed.foldl (fun s n => returnNote s c n.eid n.home n.note false) s
  let s := returnOrigin s c t hold
  perf s c x.ctx.toNat 0x08 1

/-- Claims of stage slots that a take leaves unpublished: they are published unwritten when their turn comes (R264). -/
def leaveClaims (s : State) (es : List Effect) : State :=
  { s with claims := s.claims ++ es.filterMap (fun e => match e with
    | .send (.claimed _ _ k start) _ _ _ _ => some (k, start)
    | _ => none) }

/-- The take performs what it still owes; what waits for its grant, its line or acknowledgements is left, and the report waits for it
(R209, R331). DEDUCED (log 95). -/
def abortTake (s : State) (c : Nat) (t : BitVec 3) (checked : Bool) : State × List Effect :=
  let x := thr s c t
  let (s, left, _) := performAll c t ((owedEffects checked x).filter (fun e => !blockedForGood s c t e)) (leaveClaims s x.effects)
  let s := consumeAll s c x.consumed
  let s := consumeOrigin s c t
  (perf s c x.ctx.toNat 0x09 1, left)

/-- Trap entry, then the cut of a revocable take or the abort of an irrevocable one, and its report (R328–R331). -/
def trapEntry (s : State) (c : Nat) (t : BitVec 3) (i : TrapInfo) : State :=
  let x := thr s c t
  let ctx := x.ctx.toNat
  let irr := isIrrevocable x
  let checked := headersChecked s c t
  let fw := frameWords s c t i irr
  let fw := if i.kind = 2 then fw.set 0 ((fw.headD 0) &&& ~~~(15#64)) else fw
  let s := dropWork s c t
  let s := modThr s c t (fun x => { x with frame := frameOf fw })
  let (s, left) := if irr then abortTake s c t checked else (cutTake s c t true, [])
  let kind := if i.kind = 2 then 2 else if irr then 1 else 0
  let rel := if irr then 0 else releaseWord ctx x.origin
  let cause := if i.kind = 2 then 0 else causeCode i.cause
  let r := mkReport ctx (reportWord0 kind ctx i.reason i.code c t.toNat cause) rel x.slate s.cyc 0 0 fw (some t.toNat)
  let s := modThr (freeThread s c t .reporting) c t (fun x => { x with effects := left })
  let (s, placed) := if left.isEmpty then fileReport s c r else (modCell s c (fun x => { x with reports := x.reports ++ [r] }), false)
  if placed then modThr s c t (fun x => { x with phase := .idle }) else s

/-- A fault raised at the word that issues (R326). -/
def faultWord (s : State) (c : Nat) (t : BitVec 3) (cause : Cause) : State :=
  trapEntry s c t ⟨cause, (thr s c t).pc, 0, 0xFF, none, 0, 0⟩

/-- `retake`: a cut with no frame, no report and no hold (R338). -/
def retakeCut (s : State) (c : Nat) (t : BitVec 3) : State :=
  freeThread (cutTake (dropWork s c t) c t false) c t .idle

/-- The take can still be cut or aborted. -/
def isLive (x : Thread) : Bool := x.phase == .revocable || x.phase == .irrevocable || x.phase == .settling

/-- The cause code of the fault by which a thread's take ends from `s` to `s'`, if it does. -/
def faultedBy (s s' : State) (c : Nat) (t : BitVec 3) : Option Nat :=
  let x' := thr s' c t
  if isLive (thr s c t) && (x'.phase == .reporting || x'.phase == .idle) then some ((rget x'.frame 0#6).extractLsb' 0 8).toNat else none

/-- A posted access of the take is never acknowledged: a late REFUSED with reason 3 in a take not yet printed (Table 10.5). -/
def lateUnreachable (s : State) (r : Req) : State :=
  let t := BitVec.ofNat 3 r.th
  let x := thr s r.cell t
  if x.takes == r.take && (x.phase == .irrevocable || x.phase == .settling) then
    trapEntry s r.cell t ⟨.refused, x.pc, r.seq, reasonCode .unreachable, none, 0, 0⟩
  else s

/-- A failed request (R190): the word's own fault while the thread has not moved on, else a late REFUSED. -/
def refuseRequest (s : State) (c : Nat) (t : BitVec 3) (word : Nat) (pc : Word) (seq : BitVec 16) (op : Option Nat) (r : Reason) : State :=
  let x := thr s c t
  if x.words ≤ word then trapEntry s c t ⟨reasonCause r, pc, 0, reasonCode r, op, 0, 0⟩
  else trapEntry s c t ⟨.refused, x.pc, seq, reasonCode r, op, 0, 0⟩

/-- An uncorrectable error on a request's read (R190). DESIGN CHOICE (log 86). -/
def eccRequest (s : State) (c : Nat) (t : BitVec 3) (word : Nat) (pc : Word) (seq : BitVec 16) (op : Option Nat) : State :=
  let x := thr s c t
  if x.words ≤ word then trapEntry s c t ⟨.ecc, pc, 0, 0xFF, op, 0, 0⟩
  else trapEntry s c t ⟨.ecc, x.pc, seq, 0xFF, op, 0, 0⟩

/-! ## Returning from an exception: the release of a hold (R335) -/

/-- A hold on its way with its end is released there too: it moves with the end (R335). DEDUCED (log 96). -/
def unheld (eid ctx : Nat) (p : Packet) : Packet :=
  match p with
  | .ship chan x home gen b notes returned running held =>
    if chan == eid && x == ctx then .ship chan x home gen b notes returned running false else .ship chan x home gen b notes returned running held
  | .ret chan x n hold => if chan == eid && x == ctx then .ret chan x n false else .ret chan x n hold
  | .fwd chan x (some hold) n => if chan == eid && x == ctx then .fwd chan x (some false) n else .fwd chan x (some hold) n
  | p => p

/-- The hold of a stage ends: at each cell that serves it the head becomes dispatchable in the next cycle (R288, R335). -/
def releaseStage (s : State) (d i : Nat) : State :=
  if (stageAt s d i).hold then
    let s := modStage s d i (fun g => { g with hold := false })
    { s with cells := s.cells.map (fun e =>
      if dieOf e.1 == d then
        (e.1, { e.2 with pos := e.2.pos.map (fun p => if p.stage == some i then { p with stageSince := some (s.cyc + 1) } else p) })
      else e) }
  else s

/-- A release word written to a release register at cell `c`. A word that names no held queue is ignored; the head of a released queue becomes
dispatchable in the next cycle. -/
def releaseHold (s : State) (c : Nat) (w : Word) : State :=
  let ctx := (w.extractLsb' 32 12).toNat
  let kind := (w.extractLsb' 62 2).toNat
  if kind = 1 then
    let eid := (w.extractLsb' 0 20).toNat
    { s with
      cells := s.cells.map (fun e =>
        (e.1, { e.2 with recvs := e.2.recvs.map (fun r =>
          if r.eid == eid && r.ctx == ctx && r.held then { r with held := false, since := some (s.cyc + 1) } else r) })),
      flights := s.flights.map (fun f => { f with pkt := unheld eid ctx f.pkt }) }
  else if kind = 2 then
    modPos s c ctx (fun p => if p.cqHeld then { p with cqHeld := false, cqSince := some (s.cyc + 1) } else p)
  else if kind = 3 then
    let i := (w.extractLsb' 0 5).toNat
    if (stageAt s (dieOf c) i).ctx.toNat == ctx then releaseStage s (dieOf c) i else s
  else s

end Sys2Proof.Machine
end

