-- ==== Sys2Proof/Machine/Operands.lean ====
section
/-! DEFINITION. How a word reads its operands, waits, performs its guard, writes its destinations and moves the PC
(02_notation R38–R46, 03_encoding R57–R60, 06_scalar_ops R138–R141). -/

namespace Sys2Proof.Machine

/-! ## Interlocks and sources -/

/-- The result latch is computing or waiting (R42). -/
def latchBusy (y : YLatch) : Bool :=
  match y with
  | .busy _ => true
  | .pending _ => true
  | _ => false

def unitBusy (x : Thread) (u : BitVec 4) : Bool := latchBusy (rget x.y u)

/-- A 16-byte load or atomic of the thread has still to write e3 (R194). -/
def e3Busy (s : State) (c : Nat) (t : BitVec 3) : Bool :=
  s.reqs.any (fun r => r.cell == c && r.th == t.toNat && !r.discarded &&
    (match r.kind with
      | .load _ n _ _ _ => n == 16
      | .check _ n (some _) _ _ => n == 16
      | .atomic _ n _ => n == 16
      | _ => false))

/-- The thread may touch e register `n` now (R40). -/
def eReady (s : State) (c : Nat) (t : BitVec 3) (n : BitVec 3) : Bool := n != 3 || !e3Busy s c t

/-- g0 reads 0 (Table 2.1). -/
def readG (x : Thread) (n : BitVec 5) : Word := if n = 0 then 0 else rget x.g n

/-- p0 reads 1 (Table 4.3). -/
def readP (x : Thread) (n : BitVec 3) : Bool := n == 0 || rget x.p n

/-- A write to g0 is discarded. -/
def writeG (x : Thread) (n : BitVec 5) (v : Word) : Thread := if n = 0 then x else { x with g := rset x.g n v }

/-- A write to p0 is discarded. -/
def writeP (x : Thread) (n : BitVec 3) (b : Bool) : Thread := if n = 0 then x else { x with p := rset x.p n b }

/-- The value of a source socket; none while an interlock or a not-ready `.y` holds the word (R38, R42). DESIGN CHOICE (log 1). -/
def readSrc (s : State) (c : Nat) (t : BitVec 3) (src : Src) : Option (Word × State) :=
  let x := thr s c t
  match src with
  | .g n => some (readG x n, s)
  | .m n => some (rget x.m n, s)
  | .e n => if eReady s c t n then some (rget x.e n, s) else none
  | .imm v => some (v.signExtend 64, s)
  | .y u =>
    match rget x.y u with
    | .untriggered => some (Config.freeY s.fresh, { s with fresh := s.fresh + 1 })
    | .ready v => some (v, s)
    | .busy _ => none
    | .pending _ => none

/-- A destination can be written now (R40). -/
def dstReady (s : State) (c : Nat) (t : BitVec 3) (d : Dst) : Bool :=
  match d with
  | .e n => eReady s c t n
  | _ => true

/-- A plain move's write (R38). -/
def writeDst (x : Thread) (d : Dst) (v : Word) : Thread :=
  match d with
  | .g n => writeG x n v
  | .a u => { x with la := rset x.la u v }
  | .p n => writeP x n v[0]
  | .e n => { x with e := rset x.e n v }
  | .b u => { x with lb := rset x.lb u v }

/-- The guard lets the trigger perform (R46). -/
def guardHolds (x : Thread) (grd : Guard) : Bool :=
  match grd with
  | .always => true
  | .ifSet p => readP x p
  | .ifClear p => !readP x p

/-! ## The program counter and hardware loops (R140) -/

/-- Steps loop counter `n` at its end: the thread and whether the loop wrapped. -/
def loopStep (x : Thread) (n : BitVec 1) (last : Nat) : Thread × Bool :=
  let l := rget x.lc n
  if l.act && l.fin.toNat == last then
    let new : Int := l.cnt.toInt + l.stp.toInt
    if (decide (0 < l.stp.toInt) && decide (new < l.bnd.toInt)) || (decide (l.stp.toInt < 0) && decide (l.bnd.toInt < new)) then
      ({ x with lc := rset x.lc n { l with cnt := BitVec.ofInt 32 new }, pc := l.beg.setWidth 64 }, true)
    else ({ x with lc := rset x.lc n { l with cnt := BitVec.ofInt 32 new, act := false } }, false)
  else (x, false)

/-- The word of `len` bytes at the PC completes without taking a branch: the PC moves on, and the loops step, lc1 first (R140). -/
def advance (x : Thread) (len : Nat) : Thread :=
  let last := x.pc.toNat + len - 2
  let x := { x with pc := x.pc + BitVec.ofNat 64 len, words := x.words + 1 }
  let (x, wrapped) := loopStep x 1 last
  if wrapped then x else (loopStep x 0 last).1

/-- A branch is taken: no loop steps (R140). -/
def jumpTo (x : Thread) (target : Word) : Thread := { x with pc := target, words := x.words + 1 }

/-! ## Words -/

/-- An effect that an irrevocable take may hold while it goes on: an `ared` that was granted (R22, R199). -/
def isHeldAred (e : Effect) : Bool :=
  match e with
  | .rmw _ _ _ (some _) true _ _ => true
  | _ => false

/-- The take may issue a word: revocable or irrevocable, neither acting as `pin` nor inside `mwait` (Table 1.3, R273, R337). In an
irrevocable take a word whose effect waits for its grant, or for its turn, is still executing (R22). DEDUCED (log 22). -/
def canIssue (x : Thread) : Bool :=
  (x.phase == .revocable || x.phase == .irrevocable && x.effects.all isHeldAred) && !x.pinning &&
    (match rget x.y 15#4 with
      | .pending (.mwait _ _) => false
      | _ => true)

/-- The acting thread's word: a fault of the model where no take runs; unchanged while the word waits. DESIGN CHOICE (log 9, 11). -/
def word (s : State) (f : Nat → BitVec 3 → Option State) : Host.Outcome State Fault Refusal :=
  let x := thr s s.cur.1 s.cur.2
  if x.phase != .revocable && x.phase != .irrevocable then .fault .noTake
  else if !canIssue x then .next s
  else .next ((f s.cur.1 s.cur.2).getD s)

/-- A trigger (R41, R46): the source is read, then the guard decides; an unperformed trigger only passes.
`f` gives the operation's effect from T, or none while it waits. -/
def trigger (s : State) (grd : Guard) (src : Src) (f : Nat → BitVec 3 → Word → State → Option State) :
    Host.Outcome State Fault Refusal :=
  word s (fun c t =>
    (readSrc s c t src).bind (fun r =>
      if guardHolds (thr s c t) grd then f c t r.1 r.2
      else some (modThr r.2 c t (fun x => advance x 4))))

/-- A trigger of a unit that holds one operation of a thread: it waits for the previous one (R42). -/
def trigger1 (s : State) (grd : Guard) (src : Src) (u : BitVec 4) (f : Nat → BitVec 3 → Word → State → Option State) :
    Host.Outcome State Fault Refusal :=
  trigger s grd src (fun c t v s => if unitBusy (thr s c t) u then none else f c t v s)

/-- The operation completes later with result `v` (R42), and the word has issued. -/
def withResult (x : Thread) (u : BitVec 4) (v : Word) : Thread := advance { x with y := rset x.y u (.busy v) } 4

/-- A register-only operation: Y from A, B and T (R124). -/
def compute (s : State) (grd : Guard) (src : Src) (u : BitVec 4) (f : Word → Word → Word → Word) : Host.Outcome State Fault Refusal :=
  trigger1 s grd src u (fun c t v s =>
    some (modThr s c t (fun x => withResult x u (f (rget x.la u) (rget x.lb u) v))))

/-- The word issues with result 0 of unit `u` after changing the thread and the state. -/
def issued (s : State) (c : Nat) (t : BitVec 3) (u : BitVec 4) (v : Word) : State := modThr s c t (fun x => withResult x u v)

end Sys2Proof.Machine
end

