-- ==== Sys2Proof/Machine/Fetch.lean ====
section
/-! DEFINITION. Fetching a thread's next word (03_encoding R51, R61, R62, 09_memories R182). -/

namespace Sys2Proof.Machine

/-- What the PC presents for issue. -/
inductive Fetched
  | instr (i : Instr)
  | illegal
  | noFetch
  deriving DecidableEq, Repr

/-- The halfword at a local offset, as memory holds it. -/
def halfAt (s : State) (c off : Nat) : BitVec 16 := BitVec.ofNat 16 (leNat (readKeys s.mem (keysFrom (locKey c off) 2)))

/-- Decodes the halfwords at the PC: a second one only where it can be fetched; the all-zero word at a multiple of 4 is reserved (R61). -/
def decodeAt (pc : Nat) (h0 : BitVec 16) (h1 : Option (BitVec 16)) : Fetched :=
  match h1 with
  | some h1 =>
    if pc % 4 = 0 && h0 = 0 && h1 = 0 then .illegal
    else match decode [h0, h1] with
      | .ok (i, _) => .instr i
      | .error _ => .illegal
  | none =>
    match decode [h0] with
    | .ok (i, _) => .instr i
    | .error .short => .noFetch
    | .error _ => .illegal

/-- One region entry must cover the word (R182). -/
def fetch (s : State) (c : Nat) (t : BitVec 3) : Fetched :=
  let x := thr s c t
  let pc := x.pc.toNat
  let p := posOf s c x.ctx.toNat
  if !localOk p pc 2 false true then .noFetch
  else decodeAt pc (halfAt s c pc) (if localOk p pc 4 false true then some (halfAt s c (pc + 2)) else none)

end Sys2Proof.Machine
end

