-- ==== Sys2Proof/Machine/Blocks.lean ====
section
/-! DEFINITION. Packed streams, block formats and their quantisation, the order of sums in matrix products, and the transcendental
functions of the vector engine (05_formats R103–R120, 07_vector_ops R152). -/

namespace Sys2Proof.Machine

/-! ## Packed streams (R103) -/

/-- Codes of `w` bits packed from bit 0 up. -/
def packBits (w : Nat) : List Nat → Nat
  | [] => 0
  | x :: r => x % 2 ^ w + 2 ^ w * packBits w r

def unpackBits (w n bits : Nat) : List Nat := (List.range n).map (fun i => bits / 2 ^ (w * i) % 2 ^ w)

/-- Bytes of `n` packed elements of a format. -/
def elemBytes (f : Fmt) (n : Nat) : Nat := (n * fmtWidth f + 7) / 8

/-- Scale bytes of `n` elements (R109). -/
def scaleBytes (f : Fmt) (n : Nat) : Nat := if blockLen f = 0 then 0 else n / blockLen f

/-- The length of an image in bytes (R109). -/
def imageLen (f : Fmt) (n : Nat) : Nat := elemBytes f n + scaleBytes f n

/-! ## Scales (R105, R106, R108) -/

def e8m0 (x : Nat) : FV := if x = 255 then .nan else .fin false 1 ((x : Int) - 127)

def ue3m5 (x : Nat) : FV :=
  if x = 255 then .nan else if x / 32 = 0 then .fin false (x % 32) (-7) else .fin false (32 + x % 32) ((x / 32 : Nat) - 8)

/-- A band scale is a positive normal finite BF16 (R108). -/
def bandOk (b : Nat) : Bool := decide (0x0080 ≤ b) && decide (b ≤ 0x7F7F)

def mulV (a b : FV) : FV := (mulFV a b).getD .nan

/-- The value of a block's scale, band scale included. -/
def scaleValue (f : Fmt) (band scale : Nat) : FV := if f == .lbf4 then mulV (decodeFp specBf16 band) (ue3m5 scale) else e8m0 scale

/-- The values of elements that stand under block scales (R107, R108). -/
def blockValues (f : Fmt) (band : Nat) (codes scales : List Nat) : List FV :=
  if blockLen f = 0 then codes.map (decodeElem f)
  else (codes.zip (List.range codes.length)).map (fun e => mulV (scaleValue f band (scales.getD (e.2 / blockLen f) 0)) (decodeElem f e.1))

/-- The values of an image of `n` elements (R109). -/
def imageValues (f : Fmt) (band n bits : Nat) : List FV :=
  blockValues f band (unpackBits (fmtWidth f) n bits) (unpackBits 8 (scaleBytes f n) (bits / 2 ^ (8 * elemBytes f n)))

/-! ## Quantisation (R115–R117) -/

/-- Converted elements with their scales, the count that saturated, and whether some conversion was invalid. -/
structure Quant where
  codes : List Nat
  scales : List Nat
  sats : Nat
  inv : Bool
  deriving DecidableEq, Repr

def quantOf (cs : List Conv) (scales : List Nat) : Quant :=
  ⟨cs.map (·.bits), scales, (cs.filter (·.sat)).length, cs.any (·.inv)⟩

def appendQuant (a b : Quant) : Quant := ⟨a.codes ++ b.codes, a.scales ++ b.scales, a.sats + b.sats, a.inv || b.inv⟩

/-- The image of a quantised row (R109). -/
def quantBits (d : Fmt) (q : Quant) : Nat :=
  packBits (fmtWidth d) q.codes + 2 ^ (8 * elemBytes d q.codes.length) * packBits 8 q.scales

def maxMag (a b : Nat × Int) : Nat × Int :=
  match cmpFV (.fin false a.1 a.2) (.fin false b.1 b.2) with
  | some .lt => b
  | _ => a

/-- The largest finite magnitude. -/
def largest (vs : List FV) : Nat × Int :=
  vs.foldl (fun a v => match v with | .fin _ m e => maxMag a (m, e) | _ => a) (0, 0)

def isFin : FV → Bool
  | .fin _ _ _ => true
  | _ => false

/-- BandScale (R116); a quotient beyond the largest finite BF16 stays there. DEDUCED (log 121). -/
def bandScale (vs : List FV) (anyInf : Bool) : Nat :=
  let (m, e) := largest vs
  if anyInf then 0x7F7F
  else if m = 0 then 0x3F80
  else
    let (q, e', st) := quotParts m e 186 0
    min 0x7F7F (max 0x80 (roundMag specBf16 .rup false q e' st).code)

/-- emax of an MX element format (R115). -/
def mxEmax : Fmt → Int
  | .mx8e4 => 8 | .mx8e5 => 15 | .mx6e2 => 2 | .mx6e3 => 4 | _ => 2

/-- The E8M0 scale of a block (R115). -/
def mxScale (f : Fmt) (m : Nat) (e : Int) : Nat :=
  if m = 0 then 0 else (min 254 (max 0 (e + bitLen m - 1 - mxEmax f + 127))).toNat

/-- The smallest UE3M5 value at or above m / (6 S), or 0xFE (R116). -/
def lbf4Scale (band : Nat) (m : Nat) (e : Int) : Nat :=
  if m = 0 then 0
  else
    let six := mulV (.fin false 6 0) (decodeFp specBf16 band)
    ((List.range 255).find? (fun s =>
      match cmpFV (mulV six (ue3m5 s)) (.fin false m e) with
      | some .lt => false
      | some _ => true
      | none => false)).getD 0xFE

/-- One finite element of a block over its scale (R115, R116). -/
def blockElem (f : Fmt) (sp : FSpec) (band scale : Nat) (mode : RMode) (neg : Bool) (m : Nat) (e : Int) : Conv :=
  if f == .lbf4 then
    match scaleValue f band scale with
    | .fin _ md ed =>
      if md = 0 then ⟨0, false, false, false, false⟩
      else
        let (q, e', st) := quotParts m e md ed
        convFp sp mode false neg q e' st
    | _ => ⟨0, false, false, false, false⟩
  else convFp sp mode false neg m (e - ((scale : Int) - 127)) false

/-- Quantises one block; every element carries its rounding mode. An infinity beside no finite magnitude takes R117's largest element; the
elements of a block made NaN count as no saturation. NaN propagation makes a block NaN under stochastic rounding too. DEDUCED (log 54, 99, 101, 102). -/
def quantBlock (f : Fmt) (nanMode : Bool) (band : Nat) (xs : List (FV × RMode)) : Quant :=
  let vs := xs.map (·.1)
  if nanMode && vs.any (fun v => !isFin v) then ⟨vs.map (fun _ => 0), [255], 0, false⟩
  else
    let sp := (fspec f).getD specE2m1
    let (m, e) := largest vs
    let s := if f == .lbf4 then lbf4Scale band m e else mxScale f m e
    quantOf (xs.map (fun x =>
      match x.1 with
      | .fin neg m e => blockElem f sp band s x.2 neg m e
      | v => convSpecial sp false v)) [s]

def quantChunks (f : Fmt) (nanMode : Bool) (band : Nat) : Nat → List (FV × RMode) → Quant
  | 0, _ => ⟨[], [], 0, false⟩
  | fuel + 1, xs =>
    if xs.isEmpty then ⟨[], [], 0, false⟩
    else appendQuant (quantBlock f nanMode band (xs.take (blockLen f))) (quantChunks f nanMode band fuel (xs.drop (blockLen f)))

/-- Converts elements to a format, in blocks where it has them (R110–R117). -/
def quantise (d : Fmt) (nanMode : Bool) (band : Nat) (xs : List (FV × RMode)) : Quant :=
  if blockLen d = 0 then quantOf (xs.map (fun x => convert d x.2 nanMode x.1)) []
  else quantChunks d nanMode band xs.length xs

/-- Rounding modes of elements with Draw indices from `i0` on (R113); nearest-even without a seed. -/
def drawModes (sr : Bool) (l s i0 : BitVec 32) (n : Nat) : List RMode :=
  (List.range n).map (fun j => if sr then .stoch (draw l s (i0 + BitVec.ofNat 32 j)).toNat else .rne)

/-! ## Sums (R118–R120) -/

/-- Truncates a magnitude to a multiple of 2^q, in units of it. -/
def truncTo (q : Int) (neg : Bool) (m : Nat) (e : Int) : Int :=
  let k := (splitAt m e q).1
  if neg then -(k : Int) else k

/-- GroupSum: the new running value as FP32 bits, and whether a NaN arose from terms of which none was one (R118, R119). -/
def groupSum (c : Nat) (ts : List FV) : Nat × Bool :=
  let u := decodeFp specF32 c :: ts
  let anyNan := u.any (· == .nan)
  let pinf := u.any (· == .inf false)
  let ninf := u.any (· == .inf true)
  if anyNan || (pinf && ninf) then (0x7FC00000, !anyNan)
  else if pinf then (0x7F800000, false)
  else if ninf then (0xFF800000, false)
  else
    let big := u.foldl (fun (a : Option Int) v =>
      match v with
      | .fin _ m e => if m = 0 then a else match a with | some b => some (max b (e + bitLen m - 1)) | none => some (e + bitLen m - 1)
      | _ => a) none
    match big with
    | none => (if u.all isNegFV then 0x80000000 else 0, false)
    | some e =>
      let q := e - 31
      let sum : Int := (u.map (fun v => match v with | .fin n m e => truncTo q n m e | _ => 0)).sum
      if sum = 0 then (0, false) else ((packIeee specF32 .rne (decide (sum < 0)) sum.natAbs q false).1, false)

/-- The integer value of an exact integer element. -/
def intOfFV : FV → Int
  | .fin n m e => if n then -((m * 2 ^ e.toNat : Nat) : Int) else (m * 2 ^ e.toNat : Nat)
  | _ => 0

/-- Consecutive groups of `g` terms; an absent term stands for a skipped one (R118, R173). -/
def groupSums (g : Nat) : Nat → Nat → List (Option FV) → Nat × Bool
  | 0, c, _ => (c, false)
  | fuel + 1, c, ts =>
    if ts.isEmpty then (c, false)
    else
      let u := (ts.take g).filterMap id
      let (c, n) := if u.isEmpty && (ts.take g).any (·.isNone) then (c, false) else groupSum c u
      let (c, n') := groupSums g fuel c (ts.drop g)
      (c, n || n')

/-! ## Transcendental functions (R152) -/

/-- ⌊ln 2 × 2^320⌋. -/
def ln2 : Nat := 1480553391661173448385607439722553250922680800745876974795605978609098082859138712941075737848984

/-- Σ tⁿ/n! in units of 2^-320. -/
def expSeries (t : Nat) : Nat → Nat → Nat → Nat → Nat
  | 0, _, _, acc => acc
  | fuel + 1, n, term, acc => expSeries t fuel (n + 1) (term * t / (n * 2 ^ 320)) (acc + term)

/-- 2^x (Table 7.6). -/
def exp2Fp (f : FSpec) (a : Nat) : Nat × FFlags :=
  match decodeFp f a with
  | .nan => (nanOf f, FFlags.none)
  | .inf n => (if n then 0 else infCode f false, FFlags.none)
  | .fin n m e =>
    if 8 ≤ e + bitLen m - 1 && m != 0 then (if n then 0 else infCode f false, FFlags.none)
    else
      let v : Int := if n then -((m * 2 ^ (e + 320).toNat : Nat) : Int) else (m * 2 ^ (e + 320).toNat : Nat)
      let i := v.fdiv (2 ^ 320)
      let r := (v.fmod (2 ^ 320)).toNat
      if r = 0 then ((packIeee f .rne false 1 i false).1, FFlags.none)
      else ((packIeee f .rne false (expSeries (r * ln2 / 2 ^ 320) 100 1 (2 ^ 320) 0) (i - 320) true).1, FFlags.none)

/-- Fraction bits of log2 y, by repeated squaring; y in units of 2^-400. -/
def logBits : Nat → Nat → Nat → Nat
  | 0, _, acc => acc
  | fuel + 1, y, acc =>
    let z := y * y / 2 ^ 400
    if 2 ^ 401 ≤ z then logBits fuel (z / 2) (2 * acc + 1) else logBits fuel z (2 * acc)

/-- log2 x (Table 7.6). -/
def log2Fp (f : FSpec) (a : Nat) : Nat × FFlags :=
  match decodeFp f a with
  | .nan => (nanOf f, FFlags.none)
  | .inf n => if n then invalidRes f else (infCode f false, FFlags.none)
  | .fin n m e =>
    if m = 0 then (infCode f true, FFlags.none)
    else if n then invalidRes f
    else
      let l := bitLen m - 1
      let i : Int := e + l
      if m = 2 ^ l then ((packIeee f .rne (decide (i < 0)) i.natAbs 0 false).1, FFlags.none)
      else
        let t : Int := i * 2 ^ 160 + logBits 160 (m * 2 ^ (400 - l)) 0
        if t < 0 then ((packIeee f .rne true (t.natAbs - 1) (-160) true).1, FFlags.none)
        else ((packIeee f .rne false t.natAbs (-160) true).1, FFlags.none)

/-- 1/√x (Table 7.6). -/
def rsqFp (f : FSpec) (a : Nat) : Nat × FFlags :=
  match decodeFp f a with
  | .nan => (nanOf f, FFlags.none)
  | .inf n => if n then invalidRes f else (0, FFlags.none)
  | .fin n m e =>
    if m = 0 then (infCode f n, FFlags.none)
    else if n then invalidRes f
    else
      let odd := decide (e % 2 ≠ 0)
      let m := if odd then 2 * m else m
      let e := if odd then e - 1 else e
      let q := isqrt (2 ^ 320 / m)
      ((packIeee f .rne false q (-160 - e / 2) (decide (q * q * m ≠ 2 ^ 320))).1, FFlags.none)

end Sys2Proof.Machine
end

