-- ==== Sys2Proof/Machine/Flags.lean ====
section
/-! DEFINITION. The sticky status registers and amax registers (04_registers R82, R85). -/

namespace Sys2Proof.Machine

/-- fpst gains the flags of an operation (Table 4.7). -/
def addFpst (x : Thread) (f : FFlags) : Thread := { x with fpst := x.fpst ||| BitVec.ofNat 64 (flagBits f) }

/-- vxst gains flags: sat, nan, nv (Table 4.7). -/
def addVxst (x : Thread) (sat nan nv : Bool) : Thread :=
  { x with vxst := x.vxst ||| BitVec.ofNat 64 ((if sat then 4 else 0) + (if nan then 2 else 0) + (if nv then 1 else 0)) }

/-- mxst gains flags: nan, sat, iov (Table 4.7). -/
def addMxst (x : Thread) (nan sat iov : Bool) : Thread :=
  { x with mxst := x.mxst ||| BitVec.ofNat 64 ((if nan then 4 else 0) + (if sat then 2 else 0) + (if iov then 1 else 0)) }

/-- |x| as FP32 bits, rounded to nearest-even, +infinity above the largest finite value (R82). -/
def amaxMag (m : Nat) (e : Int) : Nat :=
  let r := roundMag specF32 .rne false m e false
  if specF32.maxCode < r.code then specF32.maxCode + 1 else r.code

/-- One element into an amax register's value (R82). -/
def amaxStep (w : Word) (v : FV) : Word :=
  let nanc := (w.extractLsb' 32 32).toNat
  let mag := (w.extractLsb' 0 31).toNat
  match v with
  | .nan => BitVec.ofNat 64 (min (nanc + 1) 0xFFFFFFFF * 2 ^ 32 + mag)
  | .inf _ => BitVec.ofNat 64 (nanc * 2 ^ 32 + max mag 0x7F800000)
  | .fin _ m e => BitVec.ofNat 64 (nanc * 2 ^ 32 + max mag (amaxMag m e))

def amaxAll (w : Word) (vs : List FV) : Word := vs.foldl amaxStep w

/-- The fpst flags of a scalar conversion: those that R137 lists, so never uf. DEDUCED (log 100). -/
def fcvtFlags (d : Fmt) (r : Conv) : FFlags :=
  if isIntFmt d then ⟨r.inv, false, false, false, r.inexact⟩
  else ⟨r.inv, false, r.oflow, false, r.inexact || r.oflow⟩

/-- The result of a scalar conversion in Y (R137). -/
def fcvtY (d : Fmt) (r : Conv) : Word :=
  if isSignedInt d then BitVec.ofInt 64 (intBits (fmtWidth d) true r.bits) else BitVec.ofNat 64 r.bits

end Sys2Proof.Machine
end

