-- ==== Sys2Proof/Machine/Memory.lean ====
section
/-! DEFINITION. Unit `ls`: loads, stores, atomics, reductions, block reads and fences (09_memories R193–R200, 10_consistency R210, R211). -/

namespace Sys2Proof.Machine

/-! ## Holding an effect, or performing it (R16, R18, R22) -/

def storeUsed (es : List Effect) : Nat := (es.map storeEntries).sum

def printUsed (es : List Effect) : Nat := (es.map printEntries).sum

/-- The effect fits the store buffer and the print buffer of a revocable take (R18). -/
def fits (x : Thread) (es : List Effect) : Bool :=
  decide (storeUsed (x.effects ++ es) ≤ 128) && decide (printUsed (x.effects ++ es) ≤ 16)

/-- The thread's engine and `cp` operations are done, as `pin` and `fin` wait for (R337). DEDUCED (log 17). -/
def workDone (s : State) (c : Nat) (t : BitVec 3) : Bool :=
  enginesIdle (cellAt s c) t && (cpOps (cellAt s c) t).isEmpty

/-- The word acts as `pin` first: it has issued, and issues again when the take is irrevocable (R18). DEDUCED (log 13). -/
def pinFirst (s : State) (c : Nat) (t : BitVec 3) : Option State :=
  if workDone s c t then some (modThr s c t (fun x => { x with pinning := true, words := x.words + 1 })) else none

/-- The engine operation has a deferred effect of its own: a store outside the scratch window, or sends (R147, R165). -/
def isEffOp (i : Instr) : Bool :=
  match i with
  | .vst _ _ sp _ _ => sp != .scr
  | .tst _ _ sp _ => sp != .scr
  | .tcst _ _ sp _ _ _ _ => sp != .scr
  | .vsnd _ _ _ => true
  | _ => false

/-! ## Scopes (R205) -/

/-- The width of a scope: thread, cell, grove, die, device, system. -/
def scopeRank : Scope → Nat
  | .thr => 0 | .cel => 1 | .grv => 2 | .die => 3 | .dev => 4 | .sys => 5

/-- The rank of the narrowest scope that holds cell `c` and a location (Table 10.1). -/
def keyRank (c k : Nat) : Nat :=
  if isSystemKey k then 5
  else match groveOfKey k with
    | none => 4
    | some g =>
      if k < 2 ^ 32 && k / 0x20000 == c then 1
      else if g == groveOf c then 2
      else if g / 16 == dieOf c then 3 else 4

/-! ## Loads out of turn (R207, R393) -/

/-- What a load of global memory returns of the bytes `now`, which stand at its keys: a byte that no acquire, fence or earlier load orders may be
the one of the take's start. Loads of protected contexts are performed in their turn. DESIGN CHOICE (log 120). -/
def earlyBytes (s : State) (c : Nat) (t : BitVec 3) (engine : Bool) (id : Nat) (ks : List Nat) (now : List Byte) : List Byte :=
  let p := (thr s c t).past
  match p.mem, p.loads.find? (fun l => l.engine == engine && l.id == id) with
  | some m, some l =>
    if isProtected s (thr s c t).ctx.toNat || readKeys m ks == now then now
    else (ks.zip now).map (fun e => if decide (l.rank < keyRank c e.1) && Config.loadsEarly engine id (e.1 / 16) then memGet m e.1 else e.2)
  | _, _ => now

/-! ## Waits of an access (P4; R147, R165) -/

def isMemOp (i : Instr) : Bool :=
  match i with
  | .vld _ _ _ _ _ => true | .vst _ _ _ _ _ => true
  | .tld _ _ _ _ => true | .tst _ _ _ _ => true | .tcst _ _ _ _ _ _ _ => true
  | .mmsk _ _ _ _ _ => true | .gmma _ _ _ _ _ _ => true
  | _ => false

/-- An engine operation of the thread has still to read or place its bytes. -/
def engineMem (x : Cell) (t : BitVec 3) : Bool := (vxOps x t ++ mxOps x t).any (fun o => isMemOp o.insn)

/-- An event of the thread is awaited that acquires: `rawait`, `bwait` or `hwbar` (P4, Table 10.3). -/
def awaitsAcquire (x : Thread) : Bool :=
  (match rget x.y 15#4 with | .pending (.rawait _ _ _ _) => true | _ => false) ||
    (match rget x.y 14#4 with | .pending (.bwait _ _ _ _) => true | .pending (.woken _ _) => true | .pending (.hwbar _ _ _) => true | _ => false)

/-- The ranks of the scopes at which `lda`s of the thread that have not returned acquire. -/
def ldaRanks (s : State) (c : Nat) (t : BitVec 3) : List Nat :=
  s.reqs.filterMap (fun r => match r.kind with
    | .load _ _ _ (some sc) _ => if r.cell == c && r.th == t.toNat && !r.discarded then some (scopeRank sc) else none
    | _ => none)

/-- An acquire of the thread has not returned (P4, Table 10.3). -/
def acquiring (s : State) (c : Nat) (t : BitVec 3) : Bool := !(ldaRanks s c t).isEmpty || awaitsAcquire (thr s c t)

/-- A load at these keys waits for an `lda` whose scope holds its location (P4, R208). -/
def ldaCovers (s : State) (c : Nat) (t : BitVec 3) (ks : List Nat) : Bool :=
  (ldaRanks s c t).any (fun n => ks.any (fun k => keyRank c k ≤ n))

/-- The engine operation loads: memory, or a channel's messages (R147, R165, R203, R212). -/
def isLoadOp (i : Instr) : Bool :=
  match i with
  | .vld _ _ _ _ _ => true | .tld _ _ _ _ => true | .mmsk _ _ _ _ _ => true | .gmma _ _ _ _ _ _ => true | .vrecv _ _ _ _ => true
  | _ => false

/-- An irrevocable take may perform the next effect of the word or operation numbered `before`: nothing outstanding, only granted `ared`
still held, no earlier engine operation with a load or an effect and no earlier copy request unfinished, and no acquire of a word
waited for (R22, P2, P3, P4). DEDUCED (log 17, 22, 89). -/
def mayPerform (s : State) (c : Nat) (t : BitVec 3) (before : Nat) : Bool :=
  let x := thr s c t
  let y := cellAt s c
  x.orc == 0 && x.effects.all isHeldAred && !(before == s.nextOp && acquiring s c t) &&
    !((vxOps y t ++ mxOps y t).any (fun o => decide (o.id < before) && (isEffOp o.insn || isLoadOp o.insn))) &&
    !((cpOps y t).any (fun o => decide (o.id < before)))

/-- Holds the effects for print, or performs them now in an irrevocable take, and then issues the word with `k`. What an irrevocable send has
begun stays begun: a group message placed with some members, a stage slot claimed; the take issues no word before it is done (R246, R264).
DEDUCED (log 17). -/
def deferAll (s : State) (c : Nat) (t : BitVec 3) (es : List Effect) (k : State → State) : Option State :=
  let x := thr s c t
  if x.phase == .revocable then
    if fits x es then some (k (modThr s c t (fun x => { x with effects := x.effects ++ es }))) else pinFirst s c t
  else if !mayPerform s c t s.nextOp then none
  else
    match performAll c t (x.effects ++ es) s with
    | (s, [], _) => some (k (modThr s c t (fun x => { x with effects := [] })))
    | (s, [e], _) => if es == [e] then none else some (k (modThr s c t (fun x => { x with effects := [e] })))
    | _ => none

def defer (s : State) (c : Nat) (t : BitVec 3) (e : Effect) (k : State → State) : Option State := deferAll s c t [e] k

/-- The miss queue has room for the request (R187). -/
def kindRoom (s : State) (c : Nat) (t : BitVec 3) (kind : ReqKind) : Bool :=
  match kind with
  | .load tgt n _ _ _ => targetRoom s c t tgt n
  | .check tgt n _ _ _ => targetRoom s c t tgt n
  | .atomic tgt n _ => targetRoom s c t tgt n
  | .header tgt n _ _ => targetRoom s c t tgt n
  | _ => true

/-- As `deferAll` for an effect whose grant a remote request asks: the effect is held until the answer in either kind of take.
DEDUCED (log 22). -/
def deferRemote (s : State) (c : Nat) (t : BitVec 3) (e : Effect) (kind : ReqKind) (k : State → State) : Option State :=
  let x := thr s c t
  if x.phase == .revocable && !fits x [e] then pinFirst s c t
  else if x.phase == .irrevocable && !mayPerform s c t s.nextOp then none
  else if !canRequest s c t || !kindRoom s c t kind then none
  else
    let (s, _) := addRequest s c t x.pc (x.words + 1) kind
    some (k (modThr s c t (fun x => { x with effects := x.effects ++ [e] })))

/-- An `ls` trigger waits behind an acquire and behind the engines' memory operations. -/
def lsWaits (s : State) (c : Nat) (t : BitVec 3) : Bool := acquiring s c t || engineMem (cellAt s c) t

/-- An earlier request of the thread reads or changes some of these bytes, at a place that no translation has to tell, and has not been performed
(P1, R207). -/
def directAhead (s : State) (c : Nat) (t : BitVec 3) (ks : List Nat) : Bool :=
  let on : Target → Nat → Bool := fun tgt n => ((directKeys tgt n).getD []).any ks.contains
  s.reqs.any (fun r => r.cell == c && r.th == t.toNat && !r.discarded && r.stage == .sent && (match r.kind with
    | .load tgt n _ _ _ => on tgt n
    | .check tgt n (some _) _ _ => on tgt n
    | .atomic tgt n _ => on tgt n
    | .header tgt n _ _ => on tgt n
    | _ => false))

/-- A load's trigger waits so too, but behind an `lda` only where that scope holds its location, and behind an earlier request on its bytes; where
a translation has still to tell the location, the request waits at its arrival (R190, R207, R208). DEDUCED (log 111). -/
def loadWaits (s : State) (c : Nat) (t : BitVec 3) (tgt : Target) (n : Nat) : Bool :=
  let ks := (directKeys tgt n).getD []
  awaitsAcquire (thr s c t) || engineMem (cellAt s c) t || ldaCovers s c t ks || directAhead s c t ks

/-! ## Addresses -/

def sizeBytes (z : Size) : Nat := match z with | .b => 1 | .h => 2 | .w => 4 | .d => 8 | .q => 16

/-- The tag is valid (R101), and for `ls` names whole-byte elements (R194). -/
def tagValid (w : Word) : Bool :=
  match fmtOfCode (w.extractLsb' 59 5).toNat with
  | some f => (w.extractLsb' 56 3).toNat == fmtBlk f
  | none => false

def tagBytes (w : Word) : Bool :=
  match fmtOfCode (w.extractLsb' 59 5).toNat with
  | some f => blockLen f == 0 && fmtWidth f % 8 == 0
  | none => false

/-- Where an address leads: checked here, or by a request. -/
inductive Place
  | here (t : Target)
  | away (t : Target)
  deriving DecidableEq, Repr

/-- A scratch window offset (R181, R183). -/
def scrPlace (s : State) (c : Nat) (t : BitVec 3) (a n : Nat) : Except Cause Place :=
  let b := (posOf s c (thr s c t).ctx.toNat).scratch
  if a + n ≤ 2048 && b[63] then .ok (.here (.loc c ((b.extractLsb' 0 17).toNat + 2048 * t.toNat + a))) else .error .perm

def locPlace (s : State) (c : Nat) (ctx a n : Nat) (w : Bool) : Except Cause Place :=
  if localOk (posOf s c ctx) a n w false then .ok (.here (.loc c a)) else .error .perm

/-- A `.rem` address (R179). Cell numbers from 1,024 on name no cell with memory of its own: PERM at the word, DEDUCED (log 28). -/
def remPlace (a n : Nat) : Except Cause Place :=
  let cell := a / 2 ^ 17 % 2048
  let off := a % 2 ^ 17
  if 2 ^ 28 ≤ a || 1024 ≤ cell || 0x16000 < off + n then .error .perm else .ok (.away (.loc cell off))

/-- The grove and offset of a `.grv` address, none where its bits are reserved (R179). -/
def grvAddr (own a : Nat) : Option (Nat × Nat) :=
  let kind := a / 2 ^ 30 % 4
  let g := a / 2 ^ 24 % 64
  if 2 ^ 32 ≤ a || 2 ≤ kind then none
  else if kind = 0 then (if g = 0 then some (own, a % 2 ^ 24) else none)
  else some (g, a % 2 ^ 24)

/-- A `.grv` address: the own grove's window check is made at the word (R184). -/
def grvPlace (s : State) (c : Nat) (ctx a n : Nat) (w : Bool) : Except Cause Place :=
  match grvAddr (groveOf c) a with
  | none => .error .perm
  | some (g, off) =>
    if g = groveOf c then
      match groveCheck s g ctx off n w with
      | none => .ok (.here (.grv g off))
      | some r => .error (reasonCause r)
    else .ok (.away (.grv g off))

/-- A `.glb` address; an access that runs past 2^56 faults PERM at the word. DEDUCED (log 28). -/
def glbPlace (a n : Nat) : Except Cause Place := if 2 ^ 56 < a + n then .error .perm else .ok (.away (.glb a))

def placeOf (s : State) (c : Nat) (t : BitVec 3) (sp : Space) (a n : Nat) (w : Bool) : Except Cause Place :=
  let ctx := (thr s c t).ctx.toNat
  match sp with
  | .scr => scrPlace s c t a n
  | .loc => locPlace s c ctx a n w
  | .rem => remPlace a n
  | .grv => grvPlace s c ctx a n w
  | .glb => glbPlace a n

/-- An `ls` access: alignment, tag and place, the lowest cause first (R194, R327). DEDUCED (log 29). -/
def lsPlace (s : State) (c : Nat) (t : BitVec 3) (sp : Space) (v : Word) (n : Nat) (w : Bool) : Except Cause Place :=
  let a := (v.extractLsb' 0 56).toNat
  if a % n != 0 then .error .align
  else if !tagValid v || !tagBytes v then .error .format
  else placeOf s c t sp a n w

/-! ## Results -/

/-- Y of a load of `n` bytes (R195). -/
def loadY (n : Nat) (signed : Bool) (v : Nat) : Word :=
  if n = 16 then BitVec.ofNat 64 v
  else if signed then BitVec.ofInt 64 (signedOf n v)
  else BitVec.ofNat 64 v

/-- A value arrives in `ls.y`, and in e3 for 16 bytes (R194). -/
def lsResult (x : Thread) (n : Nat) (signed : Bool) (v : Nat) : Thread :=
  let x := { x with y := rset x.y 7#4 (.busy (loadY n signed v)) }
  if n = 16 then { x with e := rset x.e 3#3 (BitVec.ofNat 64 (v / 2 ^ 64)) } else x

/-- The word's result waits for a request. -/
def lsPending (x : Thread) (id : Nat) : Thread := { x with y := rset x.y 7#4 (.pending (.request id)) }

/-- LD, and LDA with its scope (R195). -/
def loadWord (s : State) (grd : Guard) (src : Src) (z : Size) (sp : Space) (sx : Bool) (acquire : Option Scope) :
    Host.Outcome State Fault Refusal :=
  trigger s grd src (fun c t v s =>
    if awaitsAcquire (thr s c t) || engineMem (cellAt s c) t || (z == .q && e3Busy s c t) then none
    else
      let n := sizeBytes z
      match lsPlace s c t sp v n false with
      | .error e => some (faultWord s c t e)
      | .ok (.here tgt) =>
        let es := (thr s c t).effects
        if loadWaits s c t tgt n || viewUnknown es (identOf tgt) n then none
        else
          let bs := viewDirect s es tgt n
          some (modThr s c t (fun x => advance (lsResult x n sx (leNat bs)) 4))
      | .ok (.away tgt) =>
        if loadWaits s c t tgt n || !canRequest s c t || !targetRoom s c t tgt n then none
        else
          let x := thr s c t
          let (s, id) := addRequest s c t x.pc (x.words + 1) (.load tgt n sx acquire x.effects.length)
          some (modThr s c t (fun x => advance (lsPending x id) 4)))

def execLd (grd : Guard) (src : Src) (z : Size) (sp : Space) (sx : Bool) (s : State) : Host.Outcome State Fault Refusal :=
  loadWord s grd src z sp sx none

/-- LDA: later accesses within its scope wait for it (P4, R208). DEDUCED (log 111). -/
def execLda (grd : Guard) (src : Src) (z : Size) (sp : Space) (sc : Scope) (s : State) : Host.Outcome State Fault Refusal :=
  loadWord s grd src z sp false (some sc)

/-- Y := 0 of `ls`, and the word has issued. -/
def lsDone (s : State) (c : Nat) (t : BitVec 3) : State := modThr s c t (fun x => withResult x 7 0)

/-- ST and STL (R195): the low bytes of A, and of B from byte 8 on. -/
def storeWord (s : State) (grd : Guard) (src : Src) (z : Size) (sp : Space) (sysRelease : Bool) : Host.Outcome State Fault Refusal :=
  trigger s grd src (fun c t v s =>
    if lsWaits s c t then none
    else
      let n := sizeBytes z
      let x := thr s c t
      let bs := (leBytes 8 (rget x.la 7#4).toNat ++ leBytes 8 (rget x.lb 7#4).toNat).take n
      match lsPlace s c t sp v n true with
      | .error e => some (faultWord s c t e)
      | .ok (.here tgt) =>
        let ks := (directKeys tgt n).getD []
        if sp = .scr then some (lsDone (applyWrite s ks bs) c t)
        else defer s c t (.store [⟨tgt, bs⟩] 1 none (some ks) sysRelease x.words) (fun s => lsDone s c t)
      | .ok (.away tgt) =>
        deferRemote s c t (.store [⟨tgt, bs⟩] 1 none none sysRelease x.words) (.check tgt n none x.words x.effects.length)
          (fun s => lsDone s c t))

def execSt (grd : Guard) (src : Src) (z : Size) (sp : Space) (s : State) : Host.Outcome State Fault Refusal :=
  storeWord s grd src z sp false

def execStl (grd : Guard) (src : Src) (z : Size) (sp : Space) (sc : Scope) (s : State) : Host.Outcome State Fault Refusal :=
  storeWord s grd src z sp (sc == .sys)

/-! ## Atomics (R196–R198) -/

/-- An atomic at a place known at the word. -/
def atomicHere (s : State) (c : Nat) (t : BitVec 3) (tgt : Target) (n : Nat) (what : Rmw) (now : Bool) : Option State :=
  let x := thr s c t
  let ks := (directKeys tgt n).getD []
  if now then
    let old := leNat (readKeys s.mem ks)
    let s := match rmwNew what n old with
      | some v => applyWrite s ks (leBytes n v)
      | none => s
    some (modThr s c t (fun x => advance (lsResult x n false old) 4))
  else if viewUnknown x.effects (identOf tgt) n then none
  else
    let old := leNat (viewDirect s x.effects tgt n)
    let new := (rmwNew what n old).getD old
    defer s c t (.rmw tgt n what (some ks) false (some (BitVec.ofNat 128 new)) x.words)
      (fun s => modThr s c t (fun x => advance (lsResult x n false old) 4))

/-- CAS, SWP and AMO: on the view in a revocable take, at the home in an irrevocable one or the scratch window (R196). DEDUCED (log 23). -/
def atomicWord (s : State) (grd : Guard) (src : Src) (z : Size) (sp : Space) (mk : Thread → Nat → Rmw) : Host.Outcome State Fault Refusal :=
  trigger s grd src (fun c t v s =>
    let x := thr s c t
    let n := sizeBytes z
    if lsWaits s c t || (z == .q && e3Busy s c t) then none
    else
      match lsPlace s c t sp v n true with
      | .error e => some (faultWord s c t e)
      | .ok (.here tgt) =>
        if directAhead s c t ((directKeys tgt n).getD []) then none
        else if sp = .scr then atomicHere s c t tgt n (mk x n) true
        else if x.phase == .irrevocable then
          if !mayPerform s c t s.nextOp then none
          else
            match performAll c t x.effects s with
            | (s, [], _) => atomicHere (modThr s c t (fun x => { x with effects := [] })) c t tgt n (mk x n) true
            | _ => none
        else atomicHere s c t tgt n (mk x n) false
      | .ok (.away tgt) =>
        if x.phase == .irrevocable then
          if !mayPerform s c t s.nextOp || !canRequest s c t || !targetRoom s c t tgt n then none
          else
            match performAll c t x.effects s with
            | (s, [], _) =>
              let (s, id) := addRequest s c t x.pc (x.words + 1) (.atomic tgt n (mk x n))
              some (modThr s c t (fun x => advance (lsPending { x with effects := [] } id) 4))
            | _ => none
        else if !fits x [.rmw tgt n (mk x n) none false none x.words] then pinFirst s c t
        else if !canRequest s c t || !targetRoom s c t tgt n then none
        else
          let (s, id) := addRequest s c t x.pc (x.words + 1) (.check tgt n (some (mk x n)) x.words x.effects.length)
          some (modThr s c t (fun x =>
            advance (lsPending { x with effects := x.effects ++ [.rmw tgt n (mk x n) none false none x.words] } id) 4)))

/-- The two e registers of a 16-byte operand, high:low. -/
def ePair (x : Thread) (hi lo : BitVec 3) : BitVec 128 := rget x.e hi ++ rget x.e lo

def casOf (x : Thread) (n : Nat) : Rmw :=
  if n = 16 then .cas (ePair x 5 4) (ePair x 7 6) else .cas ((rget x.la 7#4).setWidth 128) ((rget x.lb 7#4).setWidth 128)

def swpOf (x : Thread) (n : Nat) : Rmw :=
  if n = 16 then .swp (ePair x 7 6) else .swp ((rget x.la 7#4).setWidth 128)

def amoOf (op : AmoOp) (x : Thread) (_n : Nat) : Rmw := .amo op ((rget x.la 7#4).setWidth 128)

def execCas (grd : Guard) (src : Src) (z : Size) (sp : Space) (s : State) : Host.Outcome State Fault Refusal :=
  atomicWord s grd src z sp casOf

def execSwp (grd : Guard) (src : Src) (z : Size) (sp : Space) (s : State) : Host.Outcome State Fault Refusal :=
  atomicWord s grd src z sp swpOf

def execAmo (grd : Guard) (src : Src) (op : AmoOp) (z : Size) (sp : Space) (s : State) : Host.Outcome State Fault Refusal :=
  atomicWord s grd src z sp (amoOf op)

/-- ARED: always deferred; an irrevocable take holds it until its next effect (R199). DEDUCED (log 27). -/
def execAred (grd : Guard) (src : Src) (op : AmoOp) (z : Size) (s : State) : Host.Outcome State Fault Refusal :=
  trigger s grd src (fun c t v s =>
    let x := thr s c t
    let n := sizeBytes z
    if lsWaits s c t then none
    else
      match lsPlace s c t .glb v n true with
      | .error e => some (faultWord s c t e)
      | .ok p =>
        let tgt := match p with | .here tgt => tgt | .away tgt => tgt
        if x.phase == .irrevocable then
          if !mayPerform s c t s.nextOp || !canRequest s c t || !targetRoom s c t tgt n then none
          else
            match performAll c t x.effects s with
            | (s, [], _) =>
              let (s, _) := addRequest s c t x.pc (x.words + 1) (.check tgt n (some (amoOf op x n)) x.words 0)
              some (lsDone (modThr s c t (fun x => { x with effects := [.rmw tgt n (amoOf op x n) none true none x.words] })) c t)
            | _ => none
        else
          deferRemote s c t (.rmw tgt n (amoOf op x n) none true none x.words)
            (.check tgt n (some (amoOf op x n)) x.words x.effects.length) (fun s => lsDone s c t))

/-! ## Block reads (R200) -/

def execRbr (grd : Guard) (src : Src) (sp : Space) (k : BitVec 4) (s : State) : Host.Outcome State Fault Refusal :=
  trigger s grd src (fun c t v s =>
    let x := thr s c t
    let b := rget x.lb 7#4
    let n := (b.extractLsb' 0 13).toNat
    let dst := ((rget x.la 7#4).extractLsb' 0 17).toNat
    let a := (v.extractLsb' 0 56).toNat
    if lsWaits s c t then none
    else if b.extractLsb' 13 51 != 0 || n < 16 || 4096 < n || n % 16 != 0 then some (faultWord s c t .illegal)
    else if a % 16 != 0 || dst % 16 != 0 then some (faultWord s c t .align)
    else if !tagValid v || !tagBytes v then some (faultWord s c t .format)
    else if !localOk (posOf s c x.ctx.toNat) dst n true false then some (faultWord s c t .perm)
    else
      let tgt : Except Cause Target := match sp with
        | .grv => match grvAddr (groveOf c) a with
          | some (g, o) => .ok (.grv g o)
          | none => .error .perm
        | sp => match placeOf s c t sp a n false with
          | .ok (.here tgt) => .ok tgt
          | .ok (.away tgt) => .ok tgt
          | .error e => .error e
      match tgt with
      | .error e => some (faultWord s c t e)
      | .ok tgt =>
        if x.phase == .irrevocable && !mayPerform s c t s.nextOp then none
        else if !canRequest s c t || !targetRoom s c t tgt n then none
        else if x.phase == .revocable && !fits x [.rbr tgt dst n k v none x.words] then pinFirst s c t
        else
          let (s, _) := addRequest s c t x.pc (x.words + 1) (.header tgt n false (.block x.words))
          some (lsDone (modThr s c t (fun x => { x with effects := x.effects ++ [.rbr tgt dst n k v none x.words] })) c t))

/-! ## Fences (R210, R211) -/

/-- Every earlier load of the thread has returned. -/
def loadsDone (s : State) (c : Nat) (t : BitVec 3) : Bool :=
  !(s.reqs.any (fun r => r.cell == c && r.th == t.toNat && !r.discarded &&
    (match r.kind with
      | .load _ _ _ _ _ => true
      | .atomic _ _ _ => true
      | .check _ _ (some _) _ _ => true
      | .header _ _ _ _ => true
      | _ => false))) && !((vxOps (cellAt s c) t ++ mxOps (cellAt s c) t).any (fun o => isLoadOp o.insn))

/-- An unfinished engine operation may have an effect at a location within the scope; one that has not started counts. A stage reel stands in
its home grove, a channel at the cell that holds its receive end (R205). -/
def opWithin (s : State) (c rank : Nat) (o : EngOp) : Bool :=
  match o.insn with
  | .vsnd _ _ _ =>
    if hKind o.h == 3 then decide (keyRank c (stageHdr (dieOf c) (stageAt s (dieOf c) (hEid o.h % 32))) ≤ rank)
    else match findSend (cellAt s c) (hEid o.h) with
      | some e => decide (keyRank c (locKey (((findHome (cellAt s e.home) e.chan).map (·.holder)).getD e.home) 0) ≤ rank)
      | none => false
  | _ => match o.keys with
    | some ks => ks.any (fun k => keyRank c k ≤ rank)
    | none => true

/-- Every earlier effect of the irrevocable take at a location within the scope is performed, and at system scope acknowledged (R211).
DEDUCED (log 107). -/
def effectsDone (s : State) (c : Nat) (t : BitVec 3) (sc : Scope) : Bool :=
  let n := scopeRank sc
  !((vxOps (cellAt s c) t ++ mxOps (cellAt s c) t).any (fun o => isEffOp o.insn && opWithin s c n o)) &&
    (cpOps (cellAt s c) t).isEmpty &&
    !(s.reqs.any (fun r => r.cell == c && r.th == t.toNat && (match r.kind with
      | .atomic _ _ _ => !r.discarded
      | .posted ks _ _ => sc == .sys || ((r.stage == .sent || r.stage == .lane || r.stage == .expired || r.stage == .lost) && ks.any (fun k => keyRank c k ≤ n))
      | _ => false)))

/-- An `ared` still held stands at a location within the scope. -/
def aredWithin (c : Nat) (sc : Scope) (e : Effect) : Bool :=
  match e with
  | .rmw _ _ _ (some ks) _ _ _ => ks.any (fun k => keyRank c k ≤ scopeRank sc)
  | _ => false

/-- The fence of a take with kind set K = ww wr rw rr and scope `sc`, then `k`; none while it waits. An `ared` held within the scope is
performed first. DEDUCED (log 107). -/
def fenceWith (s : State) (c : Nat) (t : BitVec 3) (kinds : BitVec 4) (sc : Scope) (k : State → Option State) : Option State :=
  let x := thr s c t
  let ww := kinds[3]
  let wr := kinds[2]
  let rw := kinds[1]
  let rr := kinds[0]
  if sc = .thr then k s
  else if x.phase == .revocable then
    if wr then pinFirst s c t
    else if rr && !loadsDone s c t then none
    else if sc = .sys && (ww || rw) then
      if fits x [.marker] then k (modThr s c t (fun x => { x with effects := x.effects ++ [.marker] })) else pinFirst s c t
    else k s
  else if (rr || rw) && !loadsDone s c t then none
  else if ww || wr then
    if x.effects.any (aredWithin c sc) then
      if !mayPerform s c t s.nextOp then none
      else match performAll c t x.effects s with
        | (s, [], _) =>
          let s := modThr s c t (fun x => { x with effects := [] })
          if effectsDone s c t sc then k s else some (modThr s c t (fun x => { x with words := x.words + 1 }))
        | _ => none
    else if effectsDone s c t sc then k s else none
  else k s

def execFence (grd : Guard) (src : Src) (kinds : BitVec 4) (sc : Scope) (s : State) : Host.Outcome State Fault Refusal :=
  trigger s grd src (fun c t _ s => if lsWaits s c t then none else fenceWith s c t kinds sc (fun s => some (lsDone s c t)))

end Sys2Proof.Machine
end

