-- ==== Sys2Proof/Machine/Take.lean ====
section
/-! DEFINITION. Unit `sy`: the end of a take, control registers, handler-table writes, launches, interrupts, and the fault of a word that
is no instruction (04_registers R77, R94–R97, 13_tables R278, R282, 15_traps R336–R341). -/

namespace Sys2Proof.Machine

/-! ## The engine files (R77, R78) -/

/-- The thread becomes holder in cycle `cyc`: the files are zeroed in 256 cycles where their last holder's context differs, or where no holder is
on record, DESIGN CHOICE (log 115); else each register is zero or keeps its value, a free choice; every tcfg is 0 (R78). DESIGN CHOICE (log 1). -/
def takeFiles (x : Cell) (t : BitVec 3) (ctx cyc fresh : Nat) : Cell :=
  let x := if x.efCtx == some ctx then
      { x with
        v := x.v.mapIdx (fun i w => if Config.fileKept fresh i then w else 0),
        t := x.t.mapIdx (fun i w => if Config.fileKept fresh (32 + i) then w else 0),
        acc := x.acc.mapIdx (fun i w => if Config.fileKept fresh (40 + i) then w else 0), efReady := cyc }
    else { x with v := Vector.replicate 32 0, t := Vector.replicate 8 0, acc := Vector.replicate 4 0, efReady := cyc + 256 }
  { x with tcfg := Vector.replicate 8 0, efOwner := some t.toNat, efCtx := some ctx, efWait := x.efWait.filter (· != t.toNat) }

/-- The word needs the engine files: it waits in the order in which the takes began to wait, and while they are zeroed (R77, R78). -/
def withFiles (s : State) (c : Nat) (t : BitVec 3) (k : State → Option State) : Option State :=
  let x := cellAt s c
  if x.efOwner == some t.toNat then (if s.cyc.toNat < x.efReady then none else k s)
  else if x.efWait.contains t.toNat then none
  else some (modCell s c (fun x => { x with efWait := x.efWait ++ [t.toNat] }))

/-! ## Control registers (R94, Table 4.15) -/

def assigned (n : Nat) : Bool :=
  decide (n ≤ 6) || (decide (8 ≤ n) && decide (n ≤ 10)) || (decide (0x10 ≤ n) && decide (n ≤ 0x1F))
    || (decide (0x100 ≤ n) && decide (n ≤ 0x107)) || (decide (0x200 ≤ n) && decide (n ≤ 0x204))
    || (decide (0x208 ≤ n) && decide (n ≤ 0x20F)) || n == 0x300 || n == 0x301 || (decide (0x400 ≤ n) && decide (n ≤ 0x5FF)) || n == 0xF00

def supervisorReg (n : Nat) : Bool := n == 0x301 || (decide (0x400 ≤ n) && decide (n ≤ 0x5FF))

/-- How `scr` reaches a register. -/
inductive Access | ro | w1c | rw
  deriving DecidableEq, Repr

def accessOf (n : Nat) : Access :=
  if 8 ≤ n && n ≤ 10 then .w1c
  else if (0x10 ≤ n && n ≤ 0x17) || (0x100 ≤ n && n ≤ 0x107) then .rw
  else .ro

/-- idcell (Table 4.11); cell 1,024 + d is a proxy cell. -/
def idcell (c : Nat) : Word :=
  if c < 1024 then BitVec.ofNat 64 (dieOf c * 2 ^ 32 + c % 256 / 16 * 2 ^ 24 + c % 16 * 2 ^ 16 + c)
  else BitVec.ofNat 64 (dieOf c * 2 ^ 32 + c)

def idgrove (c : Nat) : Word := if c < 1024 then BitVec.ofNat 64 (groveOf c) else 0x40

/-- efown (R93). -/
def efown (x : Cell) : Word :=
  match x.efOwner with
  | some t => BitVec.ofNat 64 (2 ^ 15 + t * 2 ^ 12 + (rget x.threads (BitVec.ofNat 3 t)).ctx.toNat)
  | none => 0

/-- lcNcnt, lcNbnd, lcNstp, lcNend (Table 4.6). -/
def loopReg (l : LoopCtr) (i : Nat) : Word :=
  if i = 0 then l.cnt.setWidth 64 else if i = 1 then l.bnd.setWidth 64 else if i = 2 then l.stp.setWidth 64
  else BitVec.ofBool l.act ++ (0#7) ++ l.fin

def readControl (s : State) (c : Nat) (t : BitVec 3) (n : Nat) : Word :=
  let y := cellAt s c
  let x := thr s c t
  let p := posOf s c x.ctx.toNat
  if n = 0 then x.pc
  else if n = 1 then x.ctx.setWidth 64
  else if n = 2 then t.setWidth 64
  else if n = 3 then x.cls.setWidth 64
  else if n = 4 then BitVec.ofNat 64 x.orc
  else if n = 5 then x.reqseq.setWidth 64
  else if n = 6 then BitVec.ofNat 64 x.bdgt
  else if n = 8 then x.fpst
  else if n = 9 then x.vxst
  else if n = 10 then x.mxst
  else if 0x10 ≤ n && n ≤ 0x13 then rget x.amax (BitVec.ofNat 2 n)
  else if 0x14 ≤ n && n ≤ 0x17 then rget x.sk (BitVec.ofNat 2 n)
  else if 0x18 ≤ n && n ≤ 0x1F then loopReg (rget x.lc (BitVec.ofNat 1 (n / 4))) (n % 4)
  else if 0x100 ≤ n && n ≤ 0x107 then rget y.tcfg (BitVec.ofNat 3 n)
  else if n = 0x200 then idcell c
  else if n = 0x201 then idgrove c
  else if n = 0x202 then BitVec.ofNat 64 (dieOf c)
  else if n = 0x203 then p.idstage
  else if n = 0x204 then p.idslice
  else if 0x208 ≤ n && n ≤ 0x20B then rget p.idorg (BitVec.ofNat 2 n)
  else if 0x20C ≤ n && n ≤ 0x20F then rget p.idext (BitVec.ofNat 2 n)
  else if n = 0x300 then s.cyc
  else if n = 0x301 then efown y
  else if 0x400 ≤ n && n ≤ 0x5FF then rget (rget y.threads (BitVec.ofNat 3 (n / 64))).frame (BitVec.ofNat 6 n)
  else if n = 0xF00 then s.cap
  else 0

def writeControl (s : State) (c : Nat) (t : BitVec 3) (n : Nat) (v : Word) : State :=
  if n = 8 then modThr s c t (fun x => { x with fpst := v })
  else if n = 9 then modThr s c t (fun x => { x with vxst := v })
  else if n = 10 then modThr s c t (fun x => { x with mxst := v })
  else if 0x10 ≤ n && n ≤ 0x13 then modThr s c t (fun x => { x with amax := rset x.amax (BitVec.ofNat 2 n) v })
  else if 0x14 ≤ n && n ≤ 0x17 then modThr s c t (fun x => { x with sk := rset x.sk (BitVec.ofNat 2 n) v })
  else if 0x100 ≤ n && n ≤ 0x107 then modCell s c (fun y => { y with tcfg := rset y.tcfg (BitVec.ofNat 3 n) v })
  else s

/-- The operand that carries an amax register's number (R155, R170, R176). -/
def amaxOperand (o : EngOp) : Option Word :=
  match o.insn with
  | .vamax _ _ (.acc _) => some o.b
  | .vamax _ _ _ => some o.t
  | .vcvt _ _ _ _ amx _ _ _ => if amx then some o.b else none
  | .tcst _ _ _ amx _ _ _ => if amx then some o.b else none
  | .taccTile _ _ amx _ _ _ => if amx then some o.b else none
  | _ => none

def amaxNum (o : EngOp) : Option Nat := (amaxOperand o).map (fun w => (w.extractLsb' 0 2).toNat)

/-- The operation updates an amax register: it tracks one or clears one (R155). -/
def updatesAmax (i : Instr) : Bool :=
  match i with
  | .vamax _ _ .rd => false
  | .vamax _ _ .nanc => false
  | _ => true

/-- The element type is floating. -/
def isFloatEl (ty : ElTy) : Bool := ty != .i32

/-- The operation updates vxst: it can set a flag of Table 4.7. `vexp2` and `vrcp` have no invalid operand (Table 7.6), nor have `vcmp.eq` and
`vcmp.ne` (R151). -/
def updatesVxst (i : Instr) : Bool :=
  match i with
  | .vadd _ _ ty _ => isFloatEl ty | .vsub _ _ ty _ => isFloatEl ty | .vmul _ _ ty _ => isFloatEl ty | .vfma _ _ ty _ => isFloatEl ty
  | .vlog2 _ _ _ _ => true | .vrsq _ _ _ _ => true
  | .vcmp _ _ .lt ty _ => isFloatEl ty | .vcmp _ _ .le ty _ => isFloatEl ty
  | .vredadd _ _ ty => isFloatEl ty | .vscan _ _ ty _ => isFloatEl ty | .vmerge _ _ ty _ => isFloatEl ty
  | .vcvt _ _ _ _ _ _ _ _ => true
  | _ => false

/-- The operation updates mxst. -/
def updatesMxst (i : Instr) : Bool :=
  match i with
  | .tld _ _ _ _ => true | .tcst _ _ _ _ _ _ _ => true
  | .mma _ _ _ _ _ _ => true | .mmsk _ _ _ _ _ => true | .gmma _ _ _ _ _ _ => true
  | .taccTile _ _ _ _ _ _ => true | .taccVector _ _ _ _ => true
  | _ => false

/-- An earlier engine operation of the thread may update register `n` (R96). -/
def engineWrites (x : Cell) (t : BitVec 3) (n : Nat) : Bool :=
  if n = 9 then (vxOps x t).any (fun o => updatesVxst o.insn)
  else if n = 10 then (mxOps x t).any (fun o => updatesMxst o.insn)
  else if 0x10 ≤ n && n ≤ 0x13 then (vxOps x t ++ mxOps x t).any (fun o => updatesAmax o.insn && amaxNum o == some (n % 4))
  else if 0x14 ≤ n && n ≤ 0x17 then (mxOps x t).any (fun o =>
    match o.insn with
    | .mmsk _ _ k _ _ => k == BitVec.ofNat 2 n
    | .skset _ _ k => k == BitVec.ofNat 2 n
    | _ => false)
  else false

/-- Rows and row bytes of a tcfg value (Table 4.9). -/
def tcfgRows (v : Word) : Nat := (v.extractLsb' 5 8).toNat + 1

def tcfgRowBytes (v : Word) : Nat := 32 * 2 ^ (v.extractLsb' 13 2).toNat

def tcfgFmt (v : Word) : Nat := (v.extractLsb' 0 5).toNat

/-- A fault of a value that `scr` writes to a read-write register (R95). DEDUCED (log 29). -/
def scrFault (n : Nat) (v : Word) : Option Cause :=
  if 0x10 ≤ n && n ≤ 0x13 then
    if v[31] || 0x7F800000 < (v.extractLsb' 0 31).toNat then some .illegal else none
  else if 0x14 ≤ n && n ≤ 0x17 then
    if v.extractLsb' 17 47 != 0 then some .illegal else none
  else if v.extractLsb' 15 49 != 0 then some .illegal
  else if 20 < tcfgFmt v || 8192 < tcfgRows v * tcfgRowBytes v then some .format
  else none

/-- A `gcr` of vxst or mxst waits for every operation of the engines, of another register as `scr` does (R85, R96). -/
def engineReads (x : Cell) (t : BitVec 3) (n : Nat) : Bool := if n = 9 ∨ n = 10 then !enginesIdle x t else engineWrites x t n

/-- The common part of `gcr` and `scr`: the checks on the register, the files, the wait for engine operations (R95, R96). -/
def controlWord (s : State) (grd : Guard) (src : Src) (waits : Cell → BitVec 3 → Nat → Bool) (f : Nat → BitVec 3 → Nat → State → State) : Host.Outcome State Fault Refusal :=
  trigger1 s grd src 10#4 (fun c t v s =>
    let n := v.toNat
    if !assigned n then some (faultWord s c t .illegal)
    else if supervisorReg n && !isSupervisor s (thr s c t).ctx.toNat then some (faultWord s c t .perm)
    else
      let k : State → Option State := fun s => if waits (cellAt s c) t n then none else some (f c t n s)
      if 0x100 ≤ n && n ≤ 0x107 then withFiles s c t k else k s)

/-- GCR (R95). -/
def execGcr (grd : Guard) (src : Src) (s : State) : Host.Outcome State Fault Refusal :=
  controlWord s grd src engineReads (fun c t n s => issued s c t 10#4 (readControl s c t n))

/-- SCR (R95). -/
def execScr (grd : Guard) (src : Src) (s : State) : Host.Outcome State Fault Refusal :=
  controlWord s grd src engineWrites (fun c t n s =>
    let old := readControl s c t n
    let v := rget (thr s c t).la 10#4
    match accessOf n with
    | .ro => faultWord s c t .perm
    | .w1c => issued (writeControl s c t n (old &&& ~~~v)) c t 10#4 old
    | .rw =>
      match scrFault n v with
      | some e => faultWord s c t e
      | none => issued (writeControl s c t n v) c t 10#4 old)

/-! ## Ending a take (R336–R339) -/

/-- FIN: the take settles; an irrevocable one prints once orc is 0 (R337). DESIGN CHOICE (log 16). -/
def execFin (grd : Guard) (src : Src) (s : State) : Host.Outcome State Fault Refusal :=
  trigger1 s grd src 10#4 (fun c t _ s =>
    if !workDone s c t then none
    else if (thr s c t).phase == .revocable then some (modThr s c t (fun x => { advance x 4 with phase := .settling }))
    else if (thr s c t).orc != 0 then none
    else some (modThr s c t (fun x => { advance x 4 with phase := .printing, pinned := true })))

/-- PIN: once the engines' operations are done the word issues, and the take performs its held effects once orc is 0 (R147, R337).
DEDUCED (log 13). -/
def execPin (grd : Guard) (src : Src) (s : State) : Host.Outcome State Fault Refusal :=
  trigger1 s grd src 10#4 (fun c t _ s =>
    if (thr s c t).phase == .irrevocable then some (issued s c t 10#4 0)
    else if !workDone s c t then none
    else some (modThr s c t (fun x => { withResult x 10#4 0 with pinning := true })))

/-- RETAKE: cuts the own revocable take; in an irrevocable take it faults ILLEGAL (R338). -/
def execRetake (grd : Guard) (src : Src) (s : State) : Host.Outcome State Fault Refusal :=
  trigger1 s grd src 10#4 (fun c t _ s =>
    if (thr s c t).phase == .revocable then some (retakeCut s c t) else some (faultWord s c t .illegal))

/-- BRK: a cut or abort with a report of kind 2 (R339). -/
def execBrk (grd : Guard) (src : Src) (s : State) : Host.Outcome State Fault Refusal :=
  trigger1 s grd src 10#4 (fun c t v s =>
    if v.extractLsb' 16 48 != 0 then some (faultWord s c t .illegal)
    else some (trapEntry s c t ⟨.illegal, (thr s c t).pc, 0, 0xFF, none, 2, (v.extractLsb' 0 16).toNat⟩))

/-- TRAP: a service report, placed as a send (R340). -/
def execTrap (grd : Guard) (src : Src) (s : State) : Host.Outcome State Fault Refusal :=
  trigger1 s grd src 10#4 (fun c t v s =>
    let x := thr s c t
    if v.extractLsb' 16 48 != 0 then some (faultWord s c t .illegal)
    else defer s c t (.send (.trap (v.extractLsb' 0 16) (rget x.la 10#4) (rget x.lb 10#4)) 0 0 [] 1) (fun s => issued s c t 10#4 0))

/-- SIG: raises an MSI-X vector of the context's partition (R341, R355). -/
def execSig (grd : Guard) (src : Src) (s : State) : Host.Outcome State Fault Refusal :=
  trigger1 s grd src 10#4 (fun c t v s =>
    let ctl := (rget s.parts (partOf s (thr s c t).ctx.toNat)).ctl
    if v.extractLsb' 11 53 != 0 then some (faultWord s c t .illegal)
    else if (ctl.extractLsb' 32 11).toNat < (v.extractLsb' 0 11).toNat then some (faultWord s c t .perm)
    else defer s c t (.sig (v.extractLsb' 0 11)) (fun s => issued s c t 10#4 0))

/-! ## Handler-table writes and launches -/

/-- The checks of `hset` on the entry written (R278). -/
def hsetFault (s : State) (c ctx : Nat) (v a : Word) : Option Cause :=
  if v.extractLsb' 5 59 != 0 || 19 < v.toNat then some .illegal
  else if a.extractLsb' 53 10 != 0 || a.extractLsb' 17 16 != 0 then some .illegal
  else if a[63] then
    if a.extractLsb' 33 20 == 0 then some .illegal
    else if a[0] then some .align
    else if !localOk (posOf s c ctx) (a.extractLsb' 0 17).toNat 2 false true then some .perm
    else none
  else none

/-- A handler-table entry as the take's own held writes leave it. -/
def handlerView (s : State) (c : Nat) (x : Thread) (i : Nat) : Word :=
  x.effects.foldl (fun w e => match e with | .hset j v => if j.toNat == i then v else w | _ => w)
    (tget (posOf s c x.ctx.toNat).handlers i 0)

/-- HSET (R278). -/
def execHset (grd : Guard) (src : Src) (s : State) : Host.Outcome State Fault Refusal :=
  trigger1 s grd src 10#4 (fun c t v s =>
    let x := thr s c t
    let a := rget x.la 10#4
    match hsetFault s c x.ctx.toNat v a with
    | some e => some (faultWord s c t e)
    | none =>
      let old := handlerView s c x v.toNat
      defer s c t (.hset (v.extractLsb' 0 5) a) (fun s => issued s c t 10#4 old))

/-- LNCH (R282). -/
def execLnch (grd : Guard) (src : Src) (s : State) : Host.Outcome State Fault Refusal :=
  trigger1 s grd src 10#4 (fun c t v s =>
    let off := (v.extractLsb' 0 17).toNat
    if v.extractLsb' 17 47 != 0 then some (faultWord s c t .illegal)
    else if off % 16 != 0 then some (faultWord s c t .align)
    else if !localOk (posOf s c (thr s c t).ctx.toNat) off 16 false false then some (faultWord s c t .perm)
    else defer s c t (.lnch off) (fun s => issued s c t 10#4 0))

/-! ## A word that is no instruction (R75) -/

/-- ILLEGAL_WORD: the thread that presents it faults ILLEGAL. -/
def execIllegalWord (s : State) : Host.Outcome State Fault Refusal :=
  word s (fun c t => some (faultWord s c t .illegal))

end Sys2Proof.Machine
end

