-- ==== Sys2Proof/Machine/Nt.lean ====
section
/-! DEFINITION. Unit `nt`: channels, ends, sends and the handle registers (12_queues R242–R251). -/

namespace Sys2Proof.Machine

/-- An h-register number carried by an operand (R243); none where a higher bit is set. DEDUCED (log 18). -/
def hNum (v : Word) : Option (BitVec 3) := if v.extractLsb' 3 61 == 0 then some (v.extractLsb' 0 3) else none

/-- Y := `v` of unit `nt`, and the word has issued. -/
def ntDone (s : State) (c : Nat) (t : BitVec 3) (v : Word) : State := issued s c t 9#4 v

def setH (s : State) (c : Nat) (t : BitVec 3) (n : BitVec 3) (h : Handle) : State :=
  modThr s c t (fun x => { x with h := rset x.h n h })

/-! ## The head of a receive end (R247, R257, R395) -/

/-- The first message in an end's dispatch order: a returned note first, then the note that stands at b. An end has a head at an active record
alone, and only while it is not held (R395). -/
def headNote (r : RecvEnd) : Option Note :=
  if r.st != .active || r.held then none
  else
    match r.returned with
    | n :: _ => some n
    | [] => r.notes.find? (fun n => n.ai == r.b)

/-- The head as a word or an operation of this cycle finds it: what was queued in this cycle is not popped in it (R235). -/
def headNow (s : State) (r : RecvEnd) : Option Note :=
  (headNote r).filter (fun n => !(r.news.1 == s.cyc.toNat && r.news.2.contains n.ai))

/-- The message of a note, in its slot at the home. -/
def noteSlot (s : State) (home chan : Nat) (n : Note) : Option ChanSlot :=
  (findHome (cellAt s home) chan).bind (fun h => (h.slots.find? (fun e => e.1 == n.slot)).map (·.2))

/-- The note leaves the queue for a take that consumes it. -/
def takeNote (r : RecvEnd) (n : Note) : RecvEnd :=
  match r.returned with
  | _ :: rest => { r with returned := rest, running := r.running + 1, since := none }
  | [] => { r with notes := r.notes.filter (· != n), b := r.b + 1, running := r.running + 1, since := none }

/-- A message consumed inside a take: its slot is freed at print, or at once in an irrevocable take (R160). -/
def consumeHead (s : State) (c : Nat) (t : BitVec 3) (r : RecvEnd) (n : Note) : State :=
  let s := modRecv s c r.eid (fun r => takeNote r n)
  if (thr s c t).phase == .irrevocable then consumeNote s c r.eid r.home n
  else modThr s c t (fun x => { x with consumed := x.consumed ++ [⟨r.eid, n, r.home⟩] })

/-! ## Checks (R243, R284, R293) -/

/-- The grant check of a channel send whose home is `home`. DEDUCED (log 20). -/
def homeGranted (s : State) (c ctx home : Nat) : Bool := grantCell s c ctx home

/-- The check of a send's target: the effect's kind, or the fault. DEDUCED (log 20). -/
def sendTarget (s : State) (c ctx : Nat) (h : Handle) (cls : BitVec 4) : Except Cause SendKind :=
  match checkEnd s c ctx h with
  | some (.send e) =>
    if e.orphan then .error .handle
    else if homeGranted s c ctx e.home then .ok (.chan e.eid) else .error .endpoint
  | some (.stage i lid) =>
    if (stageAt s (dieOf c) i).cls.toNat != cls.toNat then .error .handle
    else if grantStage s c ctx i then .ok (.stage i lid) else .error .endpoint
  | _ => .error .handle

/-- The first `n` payload registers (R245). -/
def payloadRegs (x : Thread) (n : Nat) : List Word := (List.range n).map (fun i => readG x (BitVec.ofNat 5 (24 + i)))

/-! ## chnew (R244) -/

def newRecv (eid ctx home depth pri : Nat) : RecvEnd :=
  ⟨eid, ctx, home, 0, [], 0, 0, .active, false, depth, pri, none, [], none, false, none, (0, [])⟩

def newHome (eid ctx cell depth pri : Nat) : Home :=
  ⟨eid, ctx, depth, pri, [], [⟨eid + 1, cell, 0, 0, 0⟩], cell, 0, 0, false, []⟩

/-- Creates a channel: its home, its receive end `eid` and its send end `eid + 1` (R239, R240). DESIGN CHOICE (log 37). -/
def makeChannel (s : State) (c ctx eid depth pri : Nat) : State :=
  modCell s c (fun x => { x with
    recvs := x.recvs ++ [newRecv eid ctx c depth pri],
    sends := x.sends ++ [⟨eid + 1, ctx, c, eid, 0, depth, 0, 0, false, true⟩],
    homes := x.homes ++ [newHome eid ctx c depth pri] })

/-- The eids of a new channel, where the pool, the end table and the allocator allow one. -/
def channelRoom (s : State) (c depth : Nat) : Option Nat :=
  if decide (depth ≤ freeSlots (cellAt s c)) && decide (2 ≤ freeEnds (cellAt s c)) then allocEid s (dieOf c) 2 else none

/-- CHNEW (R244). -/
def execChnew (grd : Guard) (src : Src) (hr hs : BitVec 3) (s : State) : Host.Outcome State Fault Refusal :=
  trigger1 s grd src 9#4 (fun c t v s =>
    let depth := (v.extractLsb' 0 7).toNat
    let pri := (v.extractLsb' 8 2).toNat
    let ctx := (thr s c t).ctx.toNat
    if v &&& ~~~0x37F#64 != 0 || depth = 0 || 64 < depth then some (faultWord s c t .illegal)
    else
      match channelRoom s c depth with
      | none => some (ntDone (setH (setH s c t hr 0) c t hs 0) c t 0)
      | some eid =>
        let s := makeChannel s c ctx eid depth pri
        let s := setH (setH s c t hr (mkHandle 2 ctx eid c)) c t hs (mkHandle 1 ctx (eid + 1) c)
        some (ntDone (modThr s c t (fun x => { x with undo := x.undo ++ [.chnew eid (eid + 1)] })) c t 1))

/-! ## Sends (R245) -/

/-- SND (R245). -/
def execSnd (grd : Guard) (src : Src) (n : BitVec 3) (k : BitVec 4) (s : State) : Host.Outcome State Fault Refusal :=
  trigger1 s grd src 9#4 (fun c t v s =>
    let x := thr s c t
    match hNum v with
    | none => some (faultWord s c t .illegal)
    | some r =>
      match sendTarget s c x.ctx.toNat (rget x.h r) k with
      | .error e => some (faultWord s c t e)
      | .ok kind => defer s c t (.send kind (k.setWidth 5) 0 (payloadRegs x (n.toNat + 1)) 1) (fun s => ntDone s c t 0))

/-- The end that `sndh` moves on channel `carrier` (R245): its eid and kind, none where the combination faults HANDLE. -/
def movedEnd (s : State) (c ctx : Nat) (carrier : SendEnd) (h : Handle) : Option (Nat × Bool) :=
  match checkEnd s c ctx h with
  | some (.send m) => if m.eid == carrier.eid then none else some (m.eid, false)
  | some (.recv m) => if m.eid == carrier.chan then none else some (m.eid, true)
  | _ => none

/-- SNDH (R245). -/
def execSndh (grd : Guard) (src : Src) (n : BitVec 3) (k : BitVec 4) (s : State) : Host.Outcome State Fault Refusal :=
  trigger1 s grd src 9#4 (fun c t v s =>
    let x := thr s c t
    let ctx := x.ctx.toNat
    match hNum v, hNum (rget x.la 9#4) with
    | some r, some m =>
      match checkEnd s c ctx (rget x.h r) with
      | some (.send e) =>
        if e.orphan then some (faultWord s c t .handle)
        else
          match movedEnd s c ctx e (rget x.h m) with
          | none => some (faultWord s c t .handle)
          | some (eid, recv) =>
            if !homeGranted s c ctx e.home then some (faultWord s c t .endpoint)
            else defer s c t (.send (.move e.eid m eid recv) 16 k (payloadRegs x (n.toNat + 1)) 1) (fun s => ntDone s c t 0)
      | _ => some (faultWord s c t .handle)
    | _, _ => some (faultWord s c t .illegal))

/-- GSND (R245, R292, R293). -/
def execGsnd (grd : Guard) (src : Src) (n : BitVec 3) (k : BitVec 4) (s : State) : Host.Outcome State Fault Refusal :=
  trigger1 s grd src 9#4 (fun c t v s =>
    let x := thr s c t
    let ctx := x.ctx.toNat
    let g := (v.extractLsb' 0 8).toNat
    if v.extractLsb' 8 56 != 0 then some (faultWord s c t .illegal)
    else if !groupFor (groupAt s (dieOf c) g) ctx || !grantGroup s c ctx g then some (faultWord s c t .endpoint)
    else defer s c t (.send (.group g 0) (k.setWidth 5) 0 (payloadRegs x (n.toNat + 1)) 1) (fun s => ntDone s c t 0))

/-! ## rtry (R247) -/

/-- g24–g31 take the payload; words beyond it are 0. -/
def setPayload (x : Thread) (ws : List Word) : Thread :=
  (List.range 8).foldl (fun x i => writeG x (BitVec.ofNat 5 (24 + i)) (ws.getD i 0)) x

/-- The head is an event or carries a handle (R247). -/
def isEvent (m : ChanSlot) : Bool := m.isClose || m.msg.lane.isSome || slateCls m.msg.slate == 16 || slateCls m.msg.slate == 17

/-- RTRY (R247): a load of the channel, so it waits behind the thread's acquires (P4). DEDUCED (log 21). -/
def execRtry (grd : Guard) (src : Src) (p : BitVec 3) (s : State) : Host.Outcome State Fault Refusal :=
  trigger1 s grd src 9#4 (fun c t v s =>
    let x := thr s c t
    match hNum v with
    | none => some (faultWord s c t .illegal)
    | some r =>
      if acquiring s c t then none else
      match checkEnd s c x.ctx.toNat (rget x.h r) with
      | some (.recv e) =>
        match (headNow s e).bind (fun n => (noteSlot s e.home e.eid n).map (fun m => (n, m))) with
        | none => some (ntDone (modThr s c t (fun x => writeP x p false)) c t 0)
        | some (n, m) =>
          if isEvent m then some (ntDone (modThr s c t (fun x => writeP x p false)) c t 0x4000000000000000#64)
          else
            let s := consumeHead s c t e n
            some (ntDone (modThr s c t (fun x => writeP (setPayload x m.msg.payload) p true)) c t (slateFor m.msg.slate e.ctx e.pri))
      | _ => some (faultWord s c t .handle))

/-! ## Handle registers (R248, R249) -/

/-- An `nt` word whose T names an h register. -/
def handleWord (s : State) (grd : Guard) (src : Src) (f : Nat → BitVec 3 → BitVec 3 → State → Option State) :
    Host.Outcome State Fault Refusal :=
  trigger1 s grd src 9#4 (fun c t v s =>
    match hNum v with
    | none => some (faultWord s c t .illegal)
    | some r => f c t r s)

/-- HMOV (R248). -/
def execHmov (grd : Guard) (src : Src) (h : BitVec 3) (s : State) : Host.Outcome State Fault Refusal :=
  handleWord s grd src (fun c t r s =>
    let v := rget (thr s c t).h r
    let s := if r = h then s else setH s c t r 0
    some (ntDone (setH s c t h v) c t 0))

/-- A duplicate of a send end owning `n` of its credits (R248). -/
def dupSend (s : State) (c : Nat) (e : SendEnd) (new n : Nat) : State :=
  let s := modSend s c e.eid (fun e => { e with w := e.w - n })
  modCell s c (fun x => { x with sends := x.sends ++ [⟨new, e.ctx, e.home, e.chan, 0, n, 0, 0, false, false⟩] })

/-- HDUP (R248). -/
def execHdup (grd : Guard) (src : Src) (h : BitVec 3) (s : State) : Host.Outcome State Fault Refusal :=
  handleWord s grd src (fun c t r s =>
    let x := thr s c t
    let a := rget x.la 9#4
    let n := (a.extractLsb' 0 7).toNat
    match checkEnd s c x.ctx.toNat (rget x.h r) with
    | some (.stage _ _) => some (ntDone (setH s c t h (rget x.h r)) c t 1)
    | some (.send e) =>
      if e.orphan || n = 0 || credits e ≤ n then some (faultWord s c t .handle)
      else
        match (if freeEnds (cellAt s c) = 0 then none else allocEid s (dieOf c) 1) with
        | none => some (ntDone (setH s c t h 0) c t 0)
        | some new =>
          let s := dupSend s c e new n
          let s := modThr s c t (fun x => { x with undo := x.undo ++ [.hdup e.eid new n] })
          defer s c t (.send (.register new) 0 0 [] 0) (fun s => ntDone (setH s c t h (mkHandle 1 x.ctx.toNat new c)) c t 1)
    | _ => some (faultWord s c t .handle))

/-- HCLR (R248). -/
def execHclr (grd : Guard) (src : Src) (s : State) : Host.Outcome State Fault Refusal :=
  handleWord s grd src (fun c t r s => some (ntDone (setH s c t r 0) c t 0))

/-- CLOSE (R250). DEDUCED (log 20). -/
def execClose (grd : Guard) (src : Src) (s : State) : Host.Outcome State Fault Refusal :=
  handleWord s grd src (fun c t r s =>
    let x := thr s c t
    let ctx := x.ctx.toNat
    match checkEnd s c ctx (rget x.h r) with
    | some (.send e) =>
      if !homeGranted s c ctx e.home then some (faultWord s c t .endpoint)
      else defer s c t (.send (.closeSend e.eid r) 0 0 [] 1) (fun s => ntDone s c t 0)
    | some (.recv e) => defer s c t (.send (.closeRecv e.eid r) 0 0 [] 1) (fun s => ntDone s c t 0)
    | some (.stage _ _) => defer s c t (.send (.closeStage r) 0 0 [] 1) (fun s => ntDone s c t 0)
    | none => some (faultWord s c t .handle))

/-- What HKIND returns (Table 12.7). -/
def kindOf (s : State) (c : Nat) (h : Handle) : Word :=
  if h == 0 then 0
  else if !macOk h then 15
  else
    match lookupEnd s c h with
    | none => 4
    | some (.send e) => BitVec.ofNat 64 (1 + credits e * 2 ^ 8 + (if e.orphan then 2 ^ 23 else 0))
    | some (.recv e) => BitVec.ofNat 64 (2 + e.depth * 2 ^ 16)
    | some (.stage _ _) => 3

/-- HKIND (R248). DEDUCED (log 18). -/
def execHkind (grd : Guard) (src : Src) (s : State) : Host.Outcome State Fault Refusal :=
  handleWord s grd src (fun c t r s => some (ntDone s c t (kindOf s c (rget (thr s c t).h r))))

/-- HSAVE: a null register empties the entry; a stale one faults (R239, R249). -/
def execHsave (grd : Guard) (src : Src) (h : BitVec 3) (s : State) : Host.Outcome State Fault Refusal :=
  trigger1 s grd src 9#4 (fun c t v s =>
    let x := thr s c t
    if 63 < v.toNat then some (faultWord s c t .illegal)
    else if rget x.h h != 0 && (checkEnd s c x.ctx.toNat (rget x.h h)).isNone then some (faultWord s c t .handle)
    else defer s c t (.hsave (v.extractLsb' 0 6) (rget (thr s c t).h h)) (fun s => ntDone s c t 0))

/-- A handle-store entry as the take's own held `hsave` leaves it. -/
def storeView (s : State) (c : Nat) (x : Thread) (i : Nat) : Handle :=
  x.effects.foldl (fun w e => match e with | .hsave j h => if j.toNat == i then h else w | _ => w)
    (tget (posOf s c x.ctx.toNat).hstore i 0)

/-- The handle of the end in a message's lane; null for an empty lane. -/
def laneHandle (m : Msg) : Handle := match m.lane with | some (.installed h) => h | _ => 0

/-- HLOAD (R249). -/
def execHload (grd : Guard) (src : Src) (h : BitVec 3) (s : State) : Host.Outcome State Fault Refusal :=
  trigger1 s grd src 9#4 (fun c t v s =>
    let x := thr s c t
    if 64 < v.toNat then some (faultWord s c t .illegal)
    else if v.toNat = 64 then
      let s := modThr s c t (fun x => { x with msg := { x.msg with lane := none } })
      some (ntDone (setH s c t h (laneHandle x.msg)) c t 0)
    else some (ntDone (setH s c t h (storeView s c x v.toNat)) c t 0))

/-- SLATE (R251). -/
def execSlate (grd : Guard) (src : Src) (s : State) : Host.Outcome State Fault Refusal :=
  trigger1 s grd src 9#4 (fun c t _ s => some (ntDone s c t (thr s c t).slate))

end Sys2Proof.Machine
end

