-- ==== Sys2Proof/Machine/Reel.lean ====
section
/-! DEFINITION. Unit `rl`: reels and watched granules (12_queues R263–R273). -/

namespace Sys2Proof.Machine

def rlDone (s : State) (c : Nat) (t : BitVec 3) (v : Word) : State := issued s c t 15#4 v

/-- The space of a place reference (R265). -/
def refSpace (v : Word) (glb : Bool) : Option Space :=
  if v.extractLsb' 58 6 != 0 then none
  else if v.extractLsb' 56 2 == 0#2 then some .grv
  else if v.extractLsb' 56 2 == 1#2 then some .loc
  else if v.extractLsb' 56 2 == 2#2 && glb then some .glb
  else none

/-- Where a place reference leads for an access of `n` bytes (R265). -/
def refPlace (s : State) (c : Nat) (t : BitVec 3) (v : Word) (glb : Bool) (n : Nat) (w : Bool) : Except Cause Place :=
  let a := (v.extractLsb' 0 56).toNat
  match refSpace v glb with
  | none => .error .illegal
  | some sp => if a % 16 != 0 then .error .align else placeOf s c t sp a n w

/-- A reel word: it waits behind the thread's acquires (P4) and behind the engines' memory operations (P1), then finds its header.
DEDUCED (log 111). -/
def reelWord (s : State) (grd : Guard) (src : Src) (pre : Word → Bool) (n : Word → Nat) (w : Bool)
    (f : Nat → BitVec 3 → Word → Place → State → Option State) : Host.Outcome State Fault Refusal :=
  trigger1 s grd src 15#4 (fun c t v s =>
    if acquiring s c t || engineMem (cellAt s c) t then none
    else if !pre v then some (faultWord s c t .illegal)
    else
      match refPlace s c t (rget (thr s c t).la 15#4) false (n v) w with
      | .error e => some (faultWord s c t e)
      | .ok p => f c t v p s)

/-- A header in local or own-grove memory, as it stands there: an `rl` word does not see the take's own held effects (R267–R269). -/
def headerAt (s : State) (tgt : Target) : BitVec 128 := word128At s (((directKeys tgt 16).getD []).headD 0)

/-! ## rinit (R266) -/

def rinitOk (v : Word) : Bool :=
  let k := (v.extractLsb' 0 4).toNat
  let z := (v.extractLsb' 8 5).toNat
  v &&& ~~~0x1F0F#64 == 0 && decide (k ≤ 12) && decide (4 ≤ z) && decide (z ≤ 12)

def rinitLen (v : Word) : Nat := 16 + 2 ^ ((v.extractLsb' 0 4).toNat + (v.extractLsb' 8 5).toNat)

def rinitHeader (v : Word) : BitVec 128 := mkReel 0 (v.extractLsb' 8 5).toNat (v.extractLsb' 0 4).toNat 0 0 0

/-- RINIT (R266). -/
def execRinit (grd : Guard) (src : Src) (s : State) : Host.Outcome State Fault Refusal :=
  reelWord s grd src rinitOk rinitLen true (fun c t v p s =>
    match p with
    | .here tgt => defer s c t (.rinit tgt (rinitHeader v)) (fun s => rlDone s c t 0)
    | .away tgt => deferRemote s c t (.rinit tgt (rinitHeader v)) (.header tgt (rinitLen v) true .access) (fun s => rlDone s c t 0))

/-! ## rawait (R267) -/

/-- Slot `i` is filled. -/
def slotFilled (h : BitVec 128) (i : BitVec 32) : Bool :=
  let d := (reelW h - i).toNat
  decide (1 ≤ d) && decide (d ≤ 2 ^ 31 - 1)

/-- The address that `rawait` returns, from the header's address and the header. -/
def slotAddr (a : Word) (h : BitVec 128) (i : BitVec 32) : Word :=
  BitVec.ofNat 64 (((a.extractLsb' 0 56).toNat + reelSlot h i) % 2 ^ 56)

/-- RAWAIT: the wait stands in the result latch (R267). DESIGN CHOICE (log 24). -/
def execRawait (grd : Guard) (src : Src) (s : State) : Host.Outcome State Fault Refusal :=
  reelWord s grd src (fun _ => true) (fun _ => 16) false (fun c t v p s =>
    let a := rget (thr s c t).la 15#4
    let wait : Target → State → State := fun tgt s =>
      modThr s c t (fun x => advance { x with y := rset x.y 15#4 (.pending (.rawait tgt a (v.extractLsb' 0 32) false)) } 4)
    match p with
    | .here tgt => if reelOk (headerAt s tgt) then some (wait tgt s) else some (faultWord s c t .format)
    | .away tgt =>
      if !canRequest s c t then none
      else
        let x := thr s c t
        let (s, _) := addRequest s c t x.pc (x.words + 1) (.header tgt 16 false .wait)
        some (wait tgt s))

/-! ## rrel, rpeek (R268, R269) -/

/-- The index check of `rrel`. DESIGN CHOICE (log 24). -/
def relOk (h : BitVec 128) (i : BitVec 32) : Bool :=
  let d := (i - reelR h).toNat
  decide (d < 16) && decide (d < (reelW h - reelR h).toNat)

/-- RREL (R268). -/
def execRrel (grd : Guard) (src : Src) (s : State) : Host.Outcome State Fault Refusal :=
  reelWord s grd src (fun _ => true) (fun _ => 16) true (fun c t v p s =>
    let i := v.extractLsb' 0 32
    match p with
    | .here tgt =>
      if reelOk (headerAt s tgt) && relOk (headerAt s tgt) i then defer s c t (.rrel tgt i) (fun s => rlDone s c t 0)
      else some (faultWord s c t .format)
    | .away tgt => deferRemote s c t (.rrel tgt i) (.header tgt 16 true (.release i)) (fun s => rlDone s c t 0))

/-- RPEEK (R269). -/
def execRpeek (grd : Guard) (src : Src) (s : State) : Host.Outcome State Fault Refusal :=
  reelWord s grd src (fun _ => true) (fun _ => 16) false (fun c t _ p s =>
    match p with
    | .here tgt =>
      if directAhead s c t ((directKeys tgt 16).getD []) then none
      else if reelOk (headerAt s tgt) then some (rlDone s c t ((headerAt s tgt).extractLsb' 0 64)) else some (faultWord s c t .format)
    | .away tgt =>
      if !canRequest s c t then none
      else
        let x := thr s c t
        let (s, id) := addRequest s c t x.pc (x.words + 1) (.header tgt 16 false .peek)
        some (modThr s c t (fun x => advance { x with y := rset x.y 15#4 (.pending (.request id)) } 4)))

/-! ## mon, mwait (R272, R273) -/

/-- Marks the entry armed earliest as evicted. -/
def evictFirst : List Watch → List Watch
  | [] => []
  | w :: r => if w.evicted then w :: evictFirst r else { w with evicted := true } :: r

/-- Arms an entry on the granule at `key`; a full table evicts the entry armed earliest (R272). -/
def armWatch (s : State) (c : Nat) (t ctx key : Nat) : State :=
  modCell s c (fun x =>
    let l := if 8 ≤ (x.watch.filter (fun w => !w.evicted)).length then evictFirst x.watch else x.watch
    { x with watch := l ++ [⟨t, key, ctx, false, false⟩] })

/-- MON (R272). -/
def execMon (grd : Guard) (src : Src) (s : State) : Host.Outcome State Fault Refusal :=
  trigger1 s grd src 15#4 (fun c t v s =>
    if acquiring s c t then none
    else
      match refPlace s c t v true 16 false with
      | .error e => some (faultWord s c t e)
      | .ok (.here tgt) =>
        let key := ((directKeys tgt 16).getD []).headD 0
        some (rlDone (armWatch s c t.toNat (thr s c t).ctx.toNat key) c t 0)
      | .ok (.away tgt) =>
        if !canRequest s c t || !targetRoom s c t tgt 16 then none
        else
          let x := thr s c t
          let (s, id) := addRequest s c t x.pc (x.words + 1) (.header tgt 16 false .watch)
          some (modThr s c t (fun x => advance { x with y := rset x.y 15#4 (.pending (.request id)) } 4)))

/-- Every reason for which the thread's `mwait` ends now (R273). -/
def mwaitReasons (s : State) (c : Nat) (t : BitVec 3) (timedOut : Bool) : Word :=
  let l := (cellAt s c).watch.filter (fun w => w.th == t.toNat)
  let pre := (ctxRec s (dieOf c) (thr s c t).ctx.toNat).pre
  BitVec.ofNat 64 ((if l.any (fun w => w.fired) then 1 else 0) + (if l.any (fun w => w.evicted) then 2 else 0)
    + (if timedOut then 4 else 0) + (if pre then 8 else 0) + (if l.isEmpty then 16 else 0))

/-- `mwait` returns: the thread's entries are disarmed (R273). -/
def mwaitReturn (s : State) (c : Nat) (t : BitVec 3) (y : Word) : State :=
  let s := modCell s c (fun x => { x with watch := x.watch.filter (fun w => w.th != t.toNat) })
  modThr s c t (fun x => { x with y := rset x.y 15#4 (.ready y) })

/-- MWAIT: the thread issues no further word until one of the events happens (R273). -/
def execMwait (grd : Guard) (src : Src) (s : State) : Host.Outcome State Fault Refusal :=
  trigger1 s grd src 15#4 (fun c t v s =>
    some (modThr s c t (fun x => advance { x with y := rset x.y 15#4 (.pending (.mwait s.cyc.toNat (v.extractLsb' 0 32))) } 4)))

end Sys2Proof.Machine
end

