-- ==== Sys2Proof/Machine/Barrier.lean ====
section
/-! DEFINITION. Unit `bk`: barrier words, wired barrier sets and gates (14_counters R299–R318). -/

namespace Sys2Proof.Machine

def bkDone (s : State) (c : Nat) (t : BitVec 3) (v : Word) : State := issued s c t 14#4 v

/-- The bits of `v` outside `mask` are 0. -/
def within (v mask : Word) : Bool := v &&& ~~~mask == 0

/-- A barrier reference: cell and index, or its fault (R301); `own` asks the issuing cell. -/
def barRef (c : Nat) (own : Bool) (v : Word) : Except Cause (Nat × BitVec 9) :=
  let cell := (v.extractLsb' 16 11).toNat
  if !within v 0x7FF01FF#64 || (own && cell != c) then .error .illegal
  else if 1024 ≤ cell then .error .perm
  else .ok (cell, v.extractLsb' 0 9)

/-- The word is valid for the context. -/
def barMine (w : BitVec 128) (ctx : Nat) : Bool := barV w && barCtx w == ctx

/-- A `bk` word on a barrier: A's bits beyond `mask` are 0, T is a barrier reference. -/
def barrierWord (s : State) (grd : Guard) (src : Src) (mask : Word) (own : Bool)
    (f : Nat → BitVec 3 → Nat → BitVec 9 → Word → State → Option State) : Host.Outcome State Fault Refusal :=
  trigger1 s grd src 14#4 (fun c t v s =>
    let a := rget (thr s c t).la 14#4
    if !within a mask then some (faultWord s c t .illegal)
    else
      match barRef c own v with
      | .error e => some (faultWord s c t e)
      | .ok (cell, b) => f c t cell b a s)

/-! ## Barrier words (R304–R307) -/

/-- BINIT (R304). -/
def execBinit (grd : Guard) (src : Src) (s : State) : Host.Outcome State Fault Refusal :=
  barrierWord s grd src 0xFFFF#64 true (fun c t _ b a s =>
    let w := barAt s c b.toNat
    if barV w && barCtx w != (thr s c t).ctx.toNat then some (faultWord s c t .perm)
    else defer s c t (.binit b (a.extractLsb' 0 16)) (fun s => bkDone s c t 0))

/-- BARR (R305). -/
def execBarr (grd : Guard) (src : Src) (s : State) : Host.Outcome State Fault Refusal :=
  barrierWord s grd src 0xFFFF#64 false (fun c t cell b a s =>
    let ctx := (thr s c t).ctx.toNat
    let e : Effect := .barr cell b (a.extractLsb' 0 16)
    if cell = c then
      if barMine (barAt s c b.toNat) ctx then defer s c t e (fun s => bkDone s c t 0) else some (faultWord s c t .perm)
    else if !grantCell s c ctx cell then some (faultWord s c t .endpoint)
    else deferRemote s c t e (.barr cell b) (fun s => bkDone s c t 0))

/-- The bytes that the take's own held `bexp` add to a word (R306). -/
def heldBexp (es : List Effect) (b : BitVec 9) : Nat :=
  (es.map (fun e => match e with | .bexp b' n => if b' == b then n else 0 | _ => 0)).sum

/-- BEXP (R306). -/
def execBexp (grd : Guard) (src : Src) (s : State) : Host.Outcome State Fault Refusal :=
  barrierWord s grd src 0xFFFFFFFF#64 true (fun c t _ b a s =>
    let x := thr s c t
    let n := a.toNat
    let w := barAt s c b.toNat
    if n = 0 || 2 ^ 31 - 1 < n then some (faultWord s c t .illegal)
    else if !barMine w x.ctx.toNat then some (faultWord s c t .perm)
    else if (2 : Int) ^ 31 - 1 < (barPend w).toInt + heldBexp x.effects b + n then some (faultWord s c t .barOverflow)
    else defer s c t (.bexp b n) (fun s => bkDone s c t 0))

/-- BWAIT: it returns at once where ph is already P (R307). -/
def execBwait (grd : Guard) (src : Src) (ph : BitVec 1) (s : State) : Host.Outcome State Fault Refusal :=
  barrierWord s grd src 0xFFFFFFFF#64 true (fun c t _ b a s =>
    let w := barAt s c b.toNat
    if acquiring s c t then none
    else if !barMine w (thr s c t).ctx.toNat then some (faultWord s c t .perm)
    else if barPh w == (ph == 1#1) then some (bkDone s c t (bwaitY w false false))
    else some (modThr s c t (fun x =>
      advance { x with y := rset x.y 14#4 (.pending (.bwait b (ph == 1#1) s.cyc.toNat (a.extractLsb' 0 32))) } 4)))

/-! ## Wired sets (R310, R311) -/

/-- Cell `c` takes part in a wired set of its die (Table 14.6). -/
def participant (w : Word) (c : Nat) : Bool := decide (c < 1024) && w.getLsbD (32 + c % 256 / 16) && w.getLsbD (16 + c % 16)

def wiredMine (w : Word) (ctx c : Nat) : Bool := w[63] && (w.extractLsb' 48 12).toNat == ctx && participant w c

/-- HWBAR: after the fence, which pins a revocable take, the flag is raised while the wait stands in the latch (R311). -/
def execHwbar (grd : Guard) (src : Src) (s : State) : Host.Outcome State Fault Refusal :=
  trigger1 s grd src 14#4 (fun c t v s =>
    let x := thr s c t
    let a := rget x.la 14#4
    let set := a.extractLsb' 0 2
    if acquiring s c t then none
    else if !within a 3#64 || !within v 0xFFFFFFFF#64 then some (faultWord s c t .illegal)
    else if !wiredMine (rget (dieAt s (dieOf c)).wired set) x.ctx.toNat c then some (faultWord s c t .perm)
    else fenceWith s c t 15#4 .die (fun s => some (modThr s c t (fun x =>
      advance { x with y := rset x.y 14#4 (.pending (.hwbar set s.cyc.toNat (v.extractLsb' 0 32))) } 4))))

/-! ## Gates (R314–R317) -/

def gateHeld (es : List Effect) (g i : Nat) : Bool :=
  es.any (fun e => match e with | .send (.gate g' i' _ _) _ _ _ _ => g' == g && i' == i | _ => false)

/-- The end that `gset` names: a send end, which a stage send end is not; else HANDLE. Then its grant, else ENDPOINT (R243, R316). -/
def gateTarget (s : State) (c ctx : Nat) (h : Handle) : Except Cause Nat :=
  match checkEnd s c ctx h with
  | some (.send e) => if e.orphan then .error .handle else if homeGranted s c ctx e.home then .ok e.eid else .error .endpoint
  | _ => .error .handle

/-- GSET (R316). -/
def execGset (grd : Guard) (src : Src) (s : State) : Host.Outcome State Fault Refusal :=
  trigger1 s grd src 14#4 (fun c t v s =>
    let x := thr s c t
    let ctx := x.ctx.toNat
    let a := rget x.la 14#4
    let b := rget x.lb 14#4
    let g := groveOf c
    let i := (v.extractLsb' 0 7).toNat
    let w := (gateAt s g i).word
    if !within a 0xFFFFFFFF#64 || !within b 0x70F07#64 || !within v 0x7F#64 then some (faultWord s c t .illegal)
    else if !gateMine w ctx || gateArmed w || gateHeld x.effects g i then some (faultWord s c t .perm)
    else
      match gateTarget s c ctx (rget x.h (b.extractLsb' 0 3)) with
      | .ok eid =>
        let n := (b.extractLsb' 16 3).toNat + 1
        defer s c t (.send (.gate g i (a.extractLsb' 0 32) eid) ((b.extractLsb' 8 4).setWidth 5) 0 (payloadRegs x n) 1)
          (fun s => bkDone s c t 0)
      | .error e => some (faultWord s c t e))

/-- DEDUCED (log 19). -/
def heldGdec (es : List Effect) (i : BitVec 7) : Nat :=
  (es.filter (fun e => match e with | .gdec j => j == i | _ => false)).length

/-- GDEC (R303, R317): A names no bit. DEDUCED (log 19). -/
def execGdec (grd : Guard) (src : Src) (s : State) : Host.Outcome State Fault Refusal :=
  trigger1 s grd src 14#4 (fun c t v s =>
    let x := thr s c t
    let i := v.extractLsb' 0 7
    let w := (gateAt s (groveOf c) i.toNat).word
    if !within v 0x7F#64 || rget x.la 14#4 != 0 then some (faultWord s c t .illegal)
    else if !gateMine w x.ctx.toNat then some (faultWord s c t .perm)
    else if (gateCount w).toNat ≤ heldGdec x.effects i then some (faultWord s c t .gateUnderflow)
    else defer s c t (.gdec i) (fun s => bkDone s c t 0))

end Sys2Proof.Machine
end

