-- ==== Sys2Proof/Machine/CopyFifo.lean ====
section
/-! DEFINITION. Unit `cp`: the triggers that reserve entries of the copy command FIFO and read its state (11_copy R215–R219). -/

namespace Sys2Proof.Machine

/-- The operation of a trigger, its operands sampled now (R144, R216). -/
def mkOp (s : State) (c : Nat) (t : BitVec 3) (i : Instr) (u : BitVec 4) (v : Word) (tcfgA tcfgB : Word) : EngOp :=
  let x := thr s c t
  let w : BitVec 32 := match encode i with
    | [lo, hi] => hi ++ lo
    | _ => 0
  ⟨s.nextOp, t.toNat, i, w, rget x.la u, rget x.lb u, v, x.e, rget x.h (v.extractLsb' 0 3), tcfgA, tcfgB, x.effects.length, s.cyc.toNat, none, 0, false, 0,
    x.pc, x.words + 1, [], none, none, 0, 0, 0⟩

/-- The result latch waits for an engine, the word has issued, and its thread waits no longer at the queue. -/
def engineIssued (s : State) (c : Nat) (t : BitVec 3) (u : BitVec 4) : State :=
  let s := modThr s c t (fun x => advance { x with y := rset x.y u (.pending .engine) } 4)
  { modCell s c (fun x => { x with qWait := x.qWait.filter (· != (u.toNat, t.toNat)) }) with nextOp := s.nextOp + 1 }

/-- Entries of unit `u`'s trigger queue that became free in this cycle. -/
def freedNow (s : State) (c : Nat) (u : BitVec 4) : Nat :=
  let f := (cellAt s c).qFreed
  if f.1 == s.cyc.toNat then f.2.count u.toNat else 0

/-- A trigger queue of `len` elements takes one more of the thread: an entry is free that did not become free in this cycle, and no other thread
began to wait before it. So a thread that stalled enters in the cycle after an entry frees (R43, R163, R235). -/
def queueRoom (s : State) (c : Nat) (t : BitVec 3) (u : BitVec 4) (len : Nat) : Bool :=
  decide (len + freedNow s c u < 2) && (match (cellAt s c).qWait.filter (fun e => e.1 == u.toNat) with
    | [] => true
    | e :: _ => e.2 == t.toNat)

/-- The copy request's place among the effects of a revocable take (R20, R215). -/
def kickPlace (x : Thread) (o : EngOp) : List Effect :=
  match o.insn with
  | .cpoll _ _ => []
  | _ => if x.phase == .revocable then [.kick o.id none] else []

/-- The operation's description names e3, sampled at its trigger (R144, R164, R169, R170, R174, R217). -/
def namesE3 (i : Instr) : Bool :=
  match i with
  | .tld _ _ _ _ => true | .tst _ _ _ _ => true | .tcst _ _ _ _ _ _ _ => true | .gmma _ _ _ _ _ _ => true
  | .cpush _ _ => true | .cpushn _ _ => true
  | _ => false

/-- A copy request waits behind an acquire that has not returned (P4, R208), and for the e3 that a load has still to write (R40).
DEDUCED (log 22). -/
def kickWaits (s : State) (c : Nat) (t : BitVec 3) (i : Instr) : Bool := namesE3 i && (acquiring s c t || e3Busy s c t)

/-- A trigger enters the `cp` queue; a full queue stalls it (R43, R216). -/
def cpWord (s : State) (grd : Guard) (src : Src) (i : Instr) : Host.Outcome State Fault Refusal :=
  trigger s grd src (fun c t v s =>
    if !queueRoom s c t 13#4 (cellAt s c).cpq.length || kickWaits s c t i then none
    else
      let o := mkOp s c t i 13#4 v 0 0
      let s := modThr s c t (fun x => { x with effects := x.effects ++ kickPlace x o })
      some (engineIssued (modCell s c (fun x => { x with cpq := x.cpq ++ [o] })) c t 13#4))

/-- CPUSH (R217). -/
def execCpush (grd : Guard) (src : Src) (s : State) : Host.Outcome State Fault Refusal := cpWord s grd src (.cpush grd src)

/-- CPUSHN (R217). -/
def execCpushn (grd : Guard) (src : Src) (s : State) : Host.Outcome State Fault Refusal := cpWord s grd src (.cpushn grd src)

/-- CPOLL (R219). -/
def execCpoll (grd : Guard) (src : Src) (s : State) : Host.Outcome State Fault Refusal := cpWord s grd src (.cpoll grd src)

/-! ## The `cp` unit serves the queue head (R217–R219) -/

/-- The entry that the operation reserves. A `cpush` that waited takes no entry in the cycle in which it was freed (R43, R233).
DEDUCED (log 78). -/
def freeFifo (s : State) (c : Nat) (o : EngOp) : Option (BitVec 4) :=
  let x := cellAt s c
  ((List.range 16).map (BitVec.ofNat 4)).find? (fun i => (rget x.fifo i).st == .free && (match o.insn with
    | .cpush _ _ => decide ((rget x.fifo i).since ≤ s.cyc.toNat)
    | _ => true))

def countFifo (x : Cell) (f : FifoEntry → Bool) : Nat := (x.fifo.toList.filter f).length

/-- Table 11.2. -/
def pollWord (x : Cell) (t : BitVec 3) (ctx : Nat) : Word :=
  let kicked := countFifo x (fun f => (match f.st with | .kicked _ _ => true | _ => false) && f.ctx == ctx)
  let own := countFifo x (fun f => f.st == .reserved t.toNat)
  BitVec.ofNat 64 (kicked * 2 ^ 16 + own * 2 ^ 8 + countFifo x (fun f => f.st == .free))

/-- A queued operation of the thread is done: its result reaches the latch unless a later operation of the unit stands queued (R42). -/
def opDone (s : State) (c : Nat) (t : BitVec 3) (u : BitVec 4) (v : Word) (later : Bool) : State :=
  modThr s c t (fun x => { x with y := if later then x.y else rset x.y u (.ready v) })

/-- The head leaves the `cp` queue with a result. -/
def cpDone (s : State) (c : Nat) (t : BitVec 3) (v : Word) : State :=
  let s := modCell s c (fun x => freedQueue 13 1 s.cyc.toNat { x with cpq := x.cpq.drop 1 })
  opDone s c t 13#4 v (!(cpOps (cellAt s c) t).isEmpty)

/-- The reel header that w0 names, as a store of its thread (R217). -/
def cpReel (s : State) (c ctx : Nat) (w0 : Word) : Except Cause Place :=
  let a := (w0.extractLsb' 24 20).toNat * 16
  if w0[47] then grvPlace s c ctx a 16 true else locPlace s c ctx a 16 true

/-- The checks of `cpush` and `cpushn` on the words the trigger supplies (R217). -/
def cpushFault (s : State) (c ctx : Nat) (o : EngOp) : Option Cause :=
  let w3 := rget o.e 3#3
  if w3.extractLsb' 17 47 != 0 then some .illegal
  else if w3.extractLsb' 0 4 != 0 then some .align
  else if !localOk (posOf s c ctx) (w3.extractLsb' 0 17).toNat 32 false false then some .perm
  else
    match cpReel s c ctx o.a with
    | .error e => some e
    | .ok (.here _) => none
    | .ok (.away _) => some .perm

/-- A fault of a `cp` operation: at its word while nothing issued since, else late (R217). -/
def cpFault (s : State) (c : Nat) (t : BitVec 3) (o : EngOp) (e : Cause) : State :=
  let x := thr s c t
  trapEntry s c t ⟨e, if x.words ≤ o.words then o.pc else x.pc, 0, 0xFF, some o.id, 0, 0⟩

/-- The place of an operation among the held effects takes its entry; where nothing was reserved a store of no byte keeps the place, so that the
loads issued meanwhile count the effects before them right. -/
def fillKick (id : Nat) (i : Option (BitVec 4)) (es : List Effect) : List Effect :=
  es.map (fun e => match e with
    | .kick j none => if j != id then e else match i with
      | some k => .kick j (some k)
      | none => .store [] 0 none (some []) false 0
    | e => e)

/-- Reserves an entry for the thread. Its kick is held at the trigger's place; of a trigger in an irrevocable take it is performed at once,
after what precedes it (R22, R215, R217). -/
def reserveEntry (s : State) (c : Nat) (t : BitVec 3) (o : EngOp) (i : BitVec 4) : Option State :=
  let x := thr s c t
  let f : FifoEntry := ⟨.reserved t.toNat, 0, x.ctx.toNat, x.msg.launch, o.a, o.b, o.t, rget o.e 3#3⟩
  let s := modCell s c (fun y => { y with fifo := rset y.fifo i f })
  if x.effects.contains (.kick o.id none) then some (modThr s c t (fun x => { x with effects := fillKick o.id (some i) x.effects }))
  else if !mayPerform s c t o.id then none
  else
    match performAll c t x.effects s with
    | (s, [], _) => some (kickEntry (modThr s c t (fun x => { x with effects := [] })) c i)
    | _ => none

/-- The `cp` unit serves its queue head, no earlier than the cycle after its trigger; none while a `cpush` waits for an entry, or while the take
becomes irrevocable (R43, R217–R219). DEDUCED (log 13). -/
def serveCp (s : State) (c : Nat) : Option State :=
  match (cellAt s c).cpq with
  | [] => none
  | o :: _ =>
    let t := BitVec.ofNat 3 o.th
    let x := thr s c t
    if s.cyc.toNat ≤ o.pushed then none
    else
    match o.insn with
    | .cpoll _ _ => some (cpDone s c t (pollWord (cellAt s c) t x.ctx.toNat))
    | i =>
      match cpushFault s c x.ctx.toNat o with
      | some e => some (cpFault s c t o e)
      | none =>
        match freeFifo s c o with
        | some k => reserveEntry (cpDone s c t 0) c t o k
        | none =>
          match i with
          | .cpushn _ _ => some (modThr (cpDone s c t 1) c t (fun x => { x with effects := fillKick o.id none x.effects }))
          | _ =>
            if x.phase == .revocable && !x.pinning && countFifo (cellAt s c) (fun f => f.st == .reserved t.toNat) = 16 then
              some (modThr s c t (fun x => { x with pinning := true }))
            else none

end Sys2Proof.Machine
end

