-- ==== Sys2Proof/Machine/Engine.lean ====
section
/-! DEFINITION. What the vector and matrix engines share: triggers into their queues, the registers an operation names, the order between
the engines, and an operation's memory operands (02_notation R43, 07_vector_ops R143–R148, 08_matrix_ops R164, R165). -/

namespace Sys2Proof.Machine

/-! ## Registers an operation names (R143, R165) -/

/-- Operands that carry the number of a v register that is read. -/
def vOperands (o : EngOp) : List Word :=
  match o.insn with
  | .vmv _ _ _ => [o.t]
  | .vand _ _ _ => [o.a, o.t] | .vor _ _ _ => [o.a, o.t] | .vxor _ _ _ => [o.a, o.t]
  | .vperm _ _ _ _ => [o.a, o.t]
  | .vsel _ _ _ _ => [o.a, o.b, o.t]
  | .vadd _ _ _ _ => [o.a, o.t] | .vsub _ _ _ _ => [o.a, o.t] | .vmul _ _ _ _ => [o.a, o.t]
  | .vmax _ _ _ _ => [o.a, o.t] | .vmin _ _ _ _ => [o.a, o.t]
  | .vfma _ _ _ _ => [o.a, o.b, o.t]
  | .vabs _ _ _ _ => [o.t] | .vneg _ _ _ _ => [o.t]
  | .vexp2 _ _ _ _ => [o.t] | .vlog2 _ _ _ _ => [o.t] | .vrcp _ _ _ _ => [o.t] | .vrsq _ _ _ _ => [o.t]
  | .vcmp _ _ _ _ _ => [o.a, o.t]
  | .vamax _ _ (.acc _) => [o.t]
  | .vredadd _ _ _ => [o.t] | .vredmax _ _ _ => [o.t]
  | .vscan _ _ _ _ => [o.t] | .vmerge _ _ _ _ => [o.t]
  | .vsnd _ _ _ => [o.a]
  | .vcvt _ _ _ _ _ _ _ _ => [o.t]
  | _ => []

/-- The registers that a `vcvt` writes: one, or two (Table 7.7). -/
def vcvtDest (blk : BitVec 2) (k : BitVec 4) (vd : BitVec 4) : List Nat :=
  if vcvtTwo blk k then [2 * vd.toNat, 2 * vd.toNat + 1] else [2 * vd.toNat]

/-- v registers that the operation writes, or reads besides its operands. -/
def vDest (i : Instr) : List Nat :=
  match i with
  | .vld _ _ _ _ v => [v.toNat] | .vst _ _ _ _ v => [v.toNat]
  | .vmv _ _ v => [v.toNat] | .vand _ _ v => [v.toNat] | .vor _ _ v => [v.toNat] | .vxor _ _ v => [v.toNat]
  | .vbcast _ _ _ v => [v.toNat] | .vperm _ _ _ v => [v.toNat] | .vsel _ _ _ v => [v.toNat]
  | .vadd _ _ _ v => [v.toNat] | .vsub _ _ _ v => [v.toNat] | .vmul _ _ _ v => [v.toNat] | .vfma _ _ _ v => [v.toNat]
  | .vmax _ _ _ v => [v.toNat] | .vmin _ _ _ v => [v.toNat] | .vabs _ _ _ v => [v.toNat] | .vneg _ _ _ v => [v.toNat]
  | .vexp2 _ _ _ v => [v.toNat] | .vlog2 _ _ _ v => [v.toNat] | .vrcp _ _ _ v => [v.toNat] | .vrsq _ _ _ v => [v.toNat]
  | .vcmp _ _ _ _ v => [v.toNat] | .vscan _ _ _ v => [v.toNat] | .vmerge _ _ _ v => [v.toNat] | .vrecv _ _ _ v => [v.toNat]
  | .vcvt _ _ blk k _ _ _ vd => vcvtDest blk k vd
  | .taccVector _ _ v _ => [v.toNat]
  | _ => []

/-- Every v register the operation touches; a `vcvt` may read the register after its operand (R153). -/
def vTouched (o : EngOp) : List Nat :=
  let ts := (vOperands o).map (fun w => (w.extractLsb' 0 5).toNat)
  vDest o.insn ++ ts ++ (match o.insn with | .vcvt _ _ _ _ _ _ _ _ => ts.map (· + 1) | _ => [])

/-- The operands carry register numbers in range (R143, R164). -/
def numbersOk (o : EngOp) : Bool :=
  (vOperands o).all (fun w => w.extractLsb' 5 59 == 0) &&
    (match amaxOperand o with
      | some w => w.extractLsb' 2 62 == 0
      | none => true)

def memReads (i : Instr) : Bool :=
  match i with
  | .vld _ _ _ _ _ => true
  | .tld _ _ _ _ => true
  | .mmsk _ _ _ _ _ => true
  | .gmma _ _ _ _ _ _ => true
  | _ => false

/-- The operation reads the runs of its memory operand itself. -/
def loadsRuns (i : Instr) : Bool :=
  match i with
  | .vld _ _ _ _ _ => true
  | .tld _ _ _ _ => true
  | _ => false

def memWrites (i : Instr) : Bool :=
  match i with
  | .vst _ _ _ _ _ => true
  | .tst _ _ _ _ => true
  | .tcst _ _ _ _ _ _ _ => true
  | _ => false

/-- The operation waits for an earlier one of the other engine (R165): a register one of them writes, or memory, which one thread's accesses
reach in program order (P1, R207). DEDUCED (log 111). -/
def conflicts (p o : EngOp) : Bool :=
  (vTouched p).any (fun v => (vTouched o).contains v) ||
    (match amaxNum p, amaxNum o with | some i, some j => i == j | _, _ => false) ||
    ((memReads p.insn || memWrites p.insn) && (memReads o.insn || memWrites o.insn))

def crossWaits (others : List EngOp) (o : EngOp) : Bool := others.any (fun p => p.th == o.th && decide (p.id < o.id) && conflicts p o)

/-! ## Triggers -/

/-- Places in the store or print buffer that an operation takes at its trigger (R147, R165). -/
def placeHolders (o : EngOp) (stores sends : Nat) (insn : Nat) : List Effect :=
  (if stores = 0 then [] else [.store [] stores (some o.id) none false insn])
    ++ List.replicate sends (.send (.vsnd o.id) 0 0 [] 1)

/-- The engine operation is an access or an effect that an acquire which has not returned holds back (P4). -/
def orderedOp (x : Thread) (i : Instr) : Bool := isMemOp i || isLoadOp i || (x.phase == .irrevocable && isEffOp i)

/-- The trigger waits for an acquire, or for the e3 that a load has still to write (R40, R208). -/
def engineWaits (s : State) (c : Nat) (t : BitVec 3) (i : Instr) : Bool :=
  (orderedOp (thr s c t) i && acquiring s c t) || (namesE3 i && e3Busy s c t)

/-- A trigger enters an engine's queue: it needs the engine files and a free entry, and takes its buffer entries (R43, R77, R147). -/
def engineWord (s : State) (grd : Guard) (src : Src) (u : BitVec 4) (queue : Cell → List EngOp) (push : Cell → EngOp → Cell)
    (mk : State → Nat → BitVec 3 → Word → EngOp) (need : EngOp → Nat × Nat) : Host.Outcome State Fault Refusal :=
  trigger s grd src (fun c t v s => withFiles s c t (fun s =>
    let x := thr s c t
    let o := mk s c t v
    if !queueRoom s c t u (queue (cellAt s c)).length || engineWaits s c t o.insn then none
    else
      let es := placeHolders o (need o).1 (need o).2 x.words
      if x.phase == .revocable && !fits x es then pinFirst s c t
      else
        let s := modCell s c (fun y => push y o)
        let s := if x.phase == .revocable then modThr s c t (fun x => { x with effects := x.effects ++ es }) else s
        some (engineIssued s c t u)))

/-! ## Memory operands -/

/-- An operand's own fault, or FORMAT for a narrow format out of service, the lower cause code first (R327, R387). -/
def withNarrow (narrow : Bool) (e : Option Cause) : Option Cause :=
  if !narrow then e
  else match e with
    | some .illegal => some .illegal
    | some .align => some .align
    | _ => some .format

def spaceOf : VSpace → Space
  | .scr => .scr | .loc => .loc | .grv => .grv | .glb => .glb

def placeTarget : Place → Target
  | .here t => t
  | .away t => t

def isHere : Place → Bool
  | .here _ => true
  | .away _ => false

/-- The places of runs of bytes (address, length) in a space; the first fault where one has none. -/
def placesOf (s : State) (c : Nat) (t : BitVec 3) (sp : Space) (w : Bool) : List (Nat × Nat) → Except Cause (List (Place × Nat))
  | [] => .ok []
  | (a, n) :: r =>
    match placeOf s c t sp a n w, placesOf s c t sp w r with
    | .ok p, .ok l => .ok ((p, n) :: l)
    | .error e, .error e' => .error (if causeCode e ≤ causeCode e' then e else e')
    | .error e, .ok _ => .error e
    | .ok _, .error e => .error e

/-- A late fault of an engine operation (R145). DEDUCED (log 25). -/
def engineFault (s : State) (c : Nat) (t : BitVec 3) (o : EngOp) (e : Cause) : State :=
  trapEntry s c t ⟨e, (thr s c t).pc, 0, 0xFF, some o.id, 0, 0⟩

/-- Bytes read at home keys for a context, part by part where it is protected (R371). -/
def readParts (s : State) (ctx : Nat) (ks : List Nat) : HomeAns (List Byte) :=
  if isProtected s ctx then
    (partsOf (ks.map (fun k => (k, 0)))).foldr (fun p acc =>
      match homeRead s ctx p.1 p.2.length, acc with
      | .ok bs, .ok r => .ok (bs ++ r)
      | .ok _, a => a
      | .refused r, _ => .refused r
      | .ecc, _ => .ecc
      | .wait, _ => .wait) (.ok [])
  else .ok (readKeys s.mem ks)

/-- Splits a list by the lengths of an operation's runs. -/
def splitRuns {α : Type} : List (Target × Nat) → List α → List (Target × Nat × List α)
  | [], _ => []
  | (t, n) :: r, l => (t, n, l.take n) :: splitRuns r (l.drop n)

/-- What an operation's runs read, overlaid with the take's own effects that precede it (R147, R165). -/
def readRuns (s : State) (c : Nat) (t : BitVec 3) (o : EngOp) (ks : List Nat) : HomeAns (List (List Byte)) :=
  let es := (thr s c t).effects.take o.neff
  if o.runs.any (fun r => viewUnknown es (identOf r.1) r.2) then .wait
  else
    match readParts s (thr s c t).ctx.toNat ks with
    | .ok bs =>
      .ok (((splitRuns o.runs ks).zip (splitRuns o.runs (earlyBytes s c t true o.id ks bs))).map (fun e => overlay es (identOf e.1.1) (some e.1.2.2) e.2.2.2))
    | .refused r => .refused r
    | .ecc => .ecc
    | .wait => .wait

/-- What the operation reads of granted runs, where it reads them itself (R144, R164). Memory that needs no request reports an error where
State.opErrors names the operation. DESIGN CHOICE (log 86). -/
def readNow (s : State) (c : Nat) (t : BitVec 3) (o : EngOp) (ks : List Nat) : HomeAns (Option (List Byte)) :=
  if !loadsRuns o.insn then .ok o.data
  else if s.opErrors.contains o.id then .ecc
  else
    match readRuns s c t o ks with
    | .ok bss => .ok (some bss.flatten)
    | .refused r => .refused r
    | .ecc => .ecc
    | .wait => .wait

/-- The operation has started, its checks made: a fault, or its runs granted and read here, or a request for those elsewhere (R145, R190).
`put` stores the operation in flight. DESIGN CHOICE (log 35). -/
def beginOp (s : State) (c : Nat) (t : BitVec 3) (o : EngOp) (put : State → EngOp → State) (chk : Except Cause (List (Place × Nat))) :
    Option State :=
  let o := { o with start := s.cyc.toNat }
  match chk with
  | .error e => some (engineFault (put s o) c t o e)
  | .ok rs =>
    let o := { o with runs := rs.map (fun (r : Place × Nat) => (placeTarget r.1, r.2)) }
    if rs.all (fun (r : Place × Nat) => isHere r.1) then
      let ks := rs.flatMap (fun (r : Place × Nat) => (directKeys (placeTarget r.1) r.2).getD [])
      if loadsRuns o.insn && directAhead s c t ks then none else
      match readNow s c t o ks with
      | .ok data => some (put s { o with keys := some ks, data := data })
      | .ecc => some (engineFault (put s o) c t o .ecc)
      | .refused r => some (engineFault (put s o) c t o (reasonCause r))
      | .wait => none
    else if !canRequest s c t ||
        !missRoom s c t (o.runs.flatMap (fun r => match r.1 with | .glb va => runsOf va r.2 | _ => [])) then none
    else
      let (s, id) := addRequest s c t o.pc o.words (.engine o.id)
      some (put s { o with req := some id, seq := (thr s c t).reqseq })

/-- Performs an effect of an irrevocable take's engine operation in its place (R22). DEDUCED (log 89). -/
def performNow (s : State) (c : Nat) (t : BitVec 3) (o : EngOp) (e : Effect) : Option State :=
  if !mayPerform s c t o.id then none
  else
    match performAll c t ((thr s c t).effects ++ [e]) s with
    | (s, [], _) => some (modThr s c t (fun x => { x with effects := [] }))
    | _ => none

/-- Places an operation's bytes: the scratch window at once, a revocable take's into its entries, an irrevocable take's in memory.
DEDUCED (log 89). -/
def storeRuns (s : State) (c : Nat) (t : BitVec 3) (o : EngOp) (scr : Bool) (ks : List Nat) (bss : List (List Byte)) : Option State :=
  if scr then some (applyWrite s ks bss.flatten)
  else
    let pieces := (o.runs.zip bss).map (fun e => (⟨e.1.1, e.2⟩ : Piece))
    if (thr s c t).phase == .irrevocable then performNow s c t o (.store pieces 0 none (some ks) false 0)
    else some (modThr s c t (fun x => { x with effects := x.effects.map (fun e =>
      match e with
      | .store _ n (some id) _ sr insn => if id == o.id then .store pieces n none (some ks) sr insn else e
      | e => e) }))

/-- An event of the device: where it is not enabled nothing happens. -/
def event (s : State) (o : Option State) : Host.Outcome State Fault Refusal := .next (o.getD s)

/-- ENGINE_FILE_ACQUIRE: the take that has waited longest takes the free files (R77, R78). DESIGN CHOICE (log 8). -/
def acquireFiles (s : State) (c : Nat) : Option State :=
  let x := cellAt s c
  match x.efOwner, x.efWait with
  | none, t :: _ =>
    let t' := BitVec.ofNat 3 t
    some { modCell s c (fun x => takeFiles x t' (rget x.threads t').ctx.toNat s.cyc.toNat s.fresh) with fresh := s.fresh + 1 }
  | _, _ => none

def execEngineFileAcquire (cell : Nat) (s : State) : Host.Outcome State Fault Refusal := event s (acquireFiles s cell)

/-! ## Vectors -/

def elWidth : ElTy → Nat
  | .f32 => 32 | .bf16 => 16 | .f16 => 16 | .i32 => 32

def elCount (t : ElTy) : Nat := 2048 / elWidth t

def elSpec : ElTy → FSpec
  | .bf16 => specBf16 | .f16 => specF16 | _ => specF32

def elFmt : ElTy → Fmt
  | .f32 => .f32 | .bf16 => .bf16 | .f16 => .f16 | .i32 => .i32

/-- The elements of a vector, element 0 in the low bits (R143). -/
def elems (w : Nat) (v : Vec) : List Nat := unpackBits w (2048 / w) v.toNat

def ofElems (w : Nat) (l : List Nat) : Vec := BitVec.ofNat 2048 (packBits w l)

def vNum (w : Word) : BitVec 5 := w.extractLsb' 0 5

end Sys2Proof.Machine
end

