-- ==== Sys2Proof/Machine/Vx.lean ====
section
/-! DEFINITION. Unit `vx`: the trigger words, and the start and the completion of the vector engine's operations (07_vector_ops). -/

namespace Sys2Proof.Machine

/-! ## Trigger words (R43, R144, R147) -/

def vxWord (s : State) (grd : Guard) (src : Src) (i : Instr) (need : EngOp → Nat × Nat) :
    Host.Outcome State Fault Refusal :=
  engineWord s grd src 11#4 (·.vxq) (fun x o => { x with vxq := x.vxq ++ [o] }) (fun s c t v => mkOp s c t i 11#4 v 0 0) need

/-- A word with no place in the store or print buffer. -/
def vxPlain (s : State) (grd : Guard) (src : Src) (i : Instr) : Host.Outcome State Fault Refusal := vxWord s grd src i (fun _ => (0, 0))

def partBytes : Part → Nat
  | .all => 256
  | _ => 128

def execVld (grd : Guard) (src : Src) (sp : VSpace) (part : Part) (v : BitVec 5) (s : State) : Host.Outcome State Fault Refusal :=
  vxWord s grd src (.vld grd src sp part v) (fun _ => (0, 0))

/-- A deferred `vst` takes one entry for each 16-B part (R147). -/
def execVst (grd : Guard) (src : Src) (sp : VSpace) (part : Part) (v : BitVec 5) (s : State) : Host.Outcome State Fault Refusal :=
  vxWord s grd src (.vst grd src sp part v) (fun _ => (if sp = .scr then 0 else partBytes part / 16, 0))

def execVbcast (grd : Guard) (src : Src) (t : ElTy) (v : BitVec 5) (s : State) : Host.Outcome State Fault Refusal :=
  vxPlain s grd src (.vbcast grd src t v)

def execVperm (grd : Guard) (src : Src) (t : ElTy) (v : BitVec 5) (s : State) : Host.Outcome State Fault Refusal :=
  vxPlain s grd src (.vperm grd src t v)

def execVmv (grd : Guard) (src : Src) (v : BitVec 5) (s : State) : Host.Outcome State Fault Refusal := vxPlain s grd src (.vmv grd src v)

def execVadd (grd : Guard) (src : Src) (t : ElTy) (v : BitVec 5) (s : State) : Host.Outcome State Fault Refusal :=
  vxPlain s grd src (.vadd grd src t v)

def execVsub (grd : Guard) (src : Src) (t : ElTy) (v : BitVec 5) (s : State) : Host.Outcome State Fault Refusal :=
  vxPlain s grd src (.vsub grd src t v)

def execVmul (grd : Guard) (src : Src) (t : ElTy) (v : BitVec 5) (s : State) : Host.Outcome State Fault Refusal :=
  vxPlain s grd src (.vmul grd src t v)

def execVfma (grd : Guard) (src : Src) (t : ElTy) (v : BitVec 5) (s : State) : Host.Outcome State Fault Refusal :=
  vxPlain s grd src (.vfma grd src t v)

def execVmax (grd : Guard) (src : Src) (t : ElTy) (v : BitVec 5) (s : State) : Host.Outcome State Fault Refusal :=
  vxPlain s grd src (.vmax grd src t v)

def execVmin (grd : Guard) (src : Src) (t : ElTy) (v : BitVec 5) (s : State) : Host.Outcome State Fault Refusal :=
  vxPlain s grd src (.vmin grd src t v)

def execVabs (grd : Guard) (src : Src) (t : ElTy) (v : BitVec 5) (s : State) : Host.Outcome State Fault Refusal :=
  vxPlain s grd src (.vabs grd src t v)

def execVneg (grd : Guard) (src : Src) (t : ElTy) (v : BitVec 5) (s : State) : Host.Outcome State Fault Refusal :=
  vxPlain s grd src (.vneg grd src t v)

def execVexp2 (grd : Guard) (src : Src) (t : ElTy) (v : BitVec 5) (s : State) : Host.Outcome State Fault Refusal :=
  vxPlain s grd src (.vexp2 grd src t v)

def execVlog2 (grd : Guard) (src : Src) (t : ElTy) (v : BitVec 5) (s : State) : Host.Outcome State Fault Refusal :=
  vxPlain s grd src (.vlog2 grd src t v)

def execVrcp (grd : Guard) (src : Src) (t : ElTy) (v : BitVec 5) (s : State) : Host.Outcome State Fault Refusal :=
  vxPlain s grd src (.vrcp grd src t v)

def execVrsq (grd : Guard) (src : Src) (t : ElTy) (v : BitVec 5) (s : State) : Host.Outcome State Fault Refusal :=
  vxPlain s grd src (.vrsq grd src t v)

def execVand (grd : Guard) (src : Src) (v : BitVec 5) (s : State) : Host.Outcome State Fault Refusal := vxPlain s grd src (.vand grd src v)

def execVor (grd : Guard) (src : Src) (v : BitVec 5) (s : State) : Host.Outcome State Fault Refusal := vxPlain s grd src (.vor grd src v)

def execVxor (grd : Guard) (src : Src) (v : BitVec 5) (s : State) : Host.Outcome State Fault Refusal := vxPlain s grd src (.vxor grd src v)

def execVsel (grd : Guard) (src : Src) (t : ElTy) (v : BitVec 5) (s : State) : Host.Outcome State Fault Refusal :=
  vxPlain s grd src (.vsel grd src t v)

def execVcmp (grd : Guard) (src : Src) (k : VCond) (t : ElTy) (v : BitVec 5) (s : State) : Host.Outcome State Fault Refusal :=
  vxPlain s grd src (.vcmp grd src k t v)

def execVamax (grd : Guard) (src : Src) (k : AmaxKind) (s : State) : Host.Outcome State Fault Refusal := vxPlain s grd src (.vamax grd src k)

def execVredadd (grd : Guard) (src : Src) (t : ElTy) (s : State) : Host.Outcome State Fault Refusal := vxPlain s grd src (.vredadd grd src t)

def execVredmax (grd : Guard) (src : Src) (t : ElTy) (s : State) : Host.Outcome State Fault Refusal := vxPlain s grd src (.vredmax grd src t)

def execVscan (grd : Guard) (src : Src) (t : ElTy) (v : BitVec 5) (s : State) : Host.Outcome State Fault Refusal :=
  vxPlain s grd src (.vscan grd src t v)

def execVmerge (grd : Guard) (src : Src) (t : ElTy) (v : BitVec 5) (s : State) : Host.Outcome State Fault Refusal :=
  vxPlain s grd src (.vmerge grd src t v)

def execVrecv (grd : Guard) (src : Src) (t : ElTy) (v : BitVec 5) (s : State) : Host.Outcome State Fault Refusal :=
  vxWord s grd src (.vrecv grd src t v) (fun _ => (0, 0))

/-- Messages of a `vsnd`: 8 words each but the last (R161). -/
def vsndCount (b : Word) : Nat := (min (b.extractLsb' 0 6).toNat 32 + 7) / 8

def execVsnd (grd : Guard) (src : Src) (k : BitVec 4) (s : State) : Host.Outcome State Fault Refusal :=
  vxWord s grd src (.vsnd grd src k) (fun o => (0, vsndCount o.b))

def execVcvt (grd : Guard) (src : Src) (blk : BitVec 2) (k : BitVec 4) (amx sr nan : Bool) (vd : BitVec 4) (s : State) :
    Host.Outcome State Fault Refusal := vxPlain s grd src (.vcvt grd src blk k amx sr nan vd)

/-! ## Start (R143, R145, R148) -/

def putVx (c : Nat) (s : State) (o : EngOp) : State := modCell s c (fun x => { x with vxf := some o })

/-- The seed L, the slice tag, i0 and the band scale of e4 and e5 (R154). -/
def opSeed (o : EngOp) : BitVec 32 := (rget o.e 4#3).extractLsb' 32 32

def opTag (o : EngOp) : BitVec 16 := (rget o.e 4#3).extractLsb' 0 16

def opI0 (o : EngOp) : BitVec 32 := (rget o.e 5#3).extractLsb' 32 32

def opBand (o : EngOp) : Nat := ((rget o.e 5#3).extractLsb' 0 16).toNat

/-- The checks of operands that name no memory: the first fault by cause code. DEDUCED (log 29). -/
def vxOperandFault (s : State) (c : Nat) (ctx : Nat) (o : EngOp) : Option Cause :=
  if !numbersOk o then some .illegal
  else
    match o.insn with
    | .vcvt _ _ blk k _ sr _ _ =>
      if blk = 3#2 && k = 15#4 && vNum o.t = 31#5 then some .illegal
      else if sr && !sliceTagOk (opTag o) then some .format
      else if (vcvtSrc blk k == .lbf4 || vcvtDst blk k == .lbf4) && !bandOk (opBand o) then some .format
      else none
    | .vmerge _ _ _ _ =>
      let a := o.a.extractLsb' 0 16
      let b := o.b.extractLsb' 0 16
      if sliceTagOk a && sliceTagOk b && a.extractLsb' 12 4 == b.extractLsb' 12 4 then none else some .format
    | .vrecv _ _ _ _ =>
      if (hNum o.t).isNone then some .illegal
      else match checkEnd s c ctx o.h with
        | some (.recv _) => none
        | _ => some .handle
    | .vsnd _ _ k =>
      if (hNum o.t).isNone || 32 < o.b.toNat then some .illegal
      else match sendTarget s c ctx o.h k with
        | .ok _ => none
        | .error e => some e
    | _ => none

/-- A conversion from or to a format narrower than 8 bits, where its paths are not up (R387). -/
def vxNarrow (s : State) (c : Nat) (o : EngOp) : Bool :=
  match o.insn with
  | .vcvt _ _ blk k _ _ _ _ => f4Down s (dieOf c) && (decide (fmtWidth (vcvtSrc blk k) < 8) || decide (fmtWidth (vcvtDst blk k) < 8))
  | _ => false

/-- The memory operand of `vld` and `vst` (R148). -/
def vmemPlaces (s : State) (c : Nat) (t : BitVec 3) (o : EngOp) (sp : VSpace) (part : Part) (w : Bool) : Except Cause (List (Place × Nat)) :=
  let a := (o.t.extractLsb' 0 56).toNat
  if !tagValid o.t then .error .format
  else if a % 16 != 0 then .error .align
  else placesOf s c t (spaceOf sp) w [(a, partBytes part)]

/-- The vector engine starts an operation and makes its checks. -/
def beginVx (s : State) (c : Nat) (t : BitVec 3) (o : EngOp) : Option State :=
  match withNarrow (vxNarrow s c o) (vxOperandFault s c (thr s c t).ctx.toNat o) with
  | some e => some (engineFault (putVx c s o) c t o e)
  | none =>
    match o.insn with
    | .vld _ _ sp part _ => beginOp s c t o (putVx c) (vmemPlaces s c t o sp part false)
    | .vst _ _ sp part _ => beginOp s c t o (putVx c) (vmemPlaces s c t o sp part true)
    | _ => beginOp s c t { o with amax := rget (thr s c t).amax (o.t.extractLsb' 0 2) } (putVx c) (.ok [])

/-- The head of the queue starts once nothing runs and no earlier `mx` operation stands in its way, at most one per cycle (R144, R165). -/
def startVx (s : State) (c : Nat) : Option State :=
  let x := cellAt s c
  match x.vxf, x.vxq with
  | none, o :: r =>
    if decide (s.cyc.toNat ≤ o.pushed) || decide (s.cyc.toNat < x.vxPop) || crossWaits (x.mxf.toList ++ x.mxq) o then none
    else
      let t := BitVec.ofNat 3 o.th
      let s := modCell s c (fun x => freedQueue 11 1 s.cyc.toNat { x with vxq := r, vxPop := s.cyc.toNat + 1 })
      beginVx (perf s c (thr s c t).ctx.toNat 0x0C 1) c t o
  | _, _ => none

def execVxOpStart (cell : Nat) (s : State) : Host.Outcome State Fault Refusal := event s (startVx s cell)

/-! ## Results -/

/-- What a register operation writes: v registers, Y, the flags sat, nan and nv, and an amax register. -/
structure VRes where
  v : List (Nat × Vec)
  y : Word
  sat : Bool
  nan : Bool
  nv : Bool
  amax : Option Word
  deriving DecidableEq, Repr

def VRes.vec (d : BitVec 5) (v : Vec) : VRes := ⟨[(d.toNat, v)], 0, false, false, false, none⟩

/-- The new value of each element, and what it adds to nv and nan. -/
abbrev ElRes := Nat × Bool × Bool

def foldRes (w : Nat) (d : BitVec 5) (l : List ElRes) : VRes :=
  ⟨[(d.toNat, ofElems w (l.map (·.1)))], 0, false, l.any (·.2.2), l.any (·.2.1), none⟩

/-- nan: the operation was invalid and no operand held a NaN (R150). -/
def elFp (t : ElTy) (ops : List Nat) (r : Nat × FFlags) : ElRes :=
  (r.1, r.2.nv, r.2.nv && !(ops.any (fun x => decodeFp (elSpec t) x == .nan)))

def wrap32 (x : Nat) : ElRes := (x % 2 ^ 32, false, false)

/-- The additive inverse modulo 2^32. -/
def neg32 (x : Nat) : Nat := (2 ^ 32 - x % 2 ^ 32) % 2 ^ 32

/-- The exact sum as the elementwise operations take it: an exact zero sum is +0 (R150). DEDUCED (log 98). -/
def sumPos (a b : FV) : Option FV :=
  match addFV .rne a b with
  | some (.fin n m e) => some (.fin (n && m != 0) m e)
  | r => r

def addPos (f : FSpec) (a b : Nat) : Nat × FFlags := packFV f .rne (sumPos (decodeFp f a) (decodeFp f b))

def subPos (f : FSpec) (a b : Nat) : Nat × FFlags := packFV f .rne (sumPos (decodeFp f a) (negFV (decodeFp f b)))

def fmaPos (f : FSpec) (a b c : Nat) : Nat × FFlags := fmaWith sumPos f .rne a b c

def elAdd (t : ElTy) (a b : Nat) : ElRes := if t = .i32 then wrap32 (a + b) else elFp t [a, b] (addPos (elSpec t) a b)

/-- The addition of reductions, scans and merges: IEEE 754's (R122, R156–R158). DEDUCED (log 98). -/
def elSum (t : ElTy) (a b : Nat) : ElRes := if t = .i32 then wrap32 (a + b) else elFp t [a, b] (addFp (elSpec t) .rne a b)

def elSub (t : ElTy) (a b : Nat) : ElRes := if t = .i32 then wrap32 (a + neg32 b) else elFp t [a, b] (subPos (elSpec t) a b)

def elMul (t : ElTy) (a b : Nat) : ElRes := if t = .i32 then wrap32 (a * b) else elFp t [a, b] (mulFp (elSpec t) .rne a b)

def elFma (t : ElTy) (a b x : Nat) : ElRes := if t = .i32 then wrap32 (a * b + x) else elFp t [a, b, x] (fmaPos (elSpec t) a b x)

def lessInt (a b : Nat) : Bool := decide (intBits 32 true a < intBits 32 true b)

def elMinMax (t : ElTy) (wantMin : Bool) (a b : Nat) : ElRes :=
  if t = .i32 then ((if lessInt a b == wantMin then a else b), false, false)
  else (minmaxFp (elSpec t) wantMin a b, false, false)

def elAbs (t : ElTy) (x : Nat) : ElRes :=
  if t = .i32 then ((if intBits 32 true x < 0 then neg32 x else x), false, false) else (x % 2 ^ (elWidth t - 1), false, false)

def elNeg (t : ElTy) (x : Nat) : ElRes :=
  if t = .i32 then (neg32 x, false, false) else (x ^^^ 2 ^ (elWidth t - 1), false, false)

/-- One comparison of `vcmp`, and whether it is invalid (R151). -/
def elCmp (k : VCond) (t : ElTy) (a b : Nat) : Bool × Bool :=
  let o : Option Ordering := if t = .i32 then some (compare (intBits 32 true a) (intBits 32 true b))
    else cmpFV (decodeFp (elSpec t) a) (decodeFp (elSpec t) b)
  match k with
  | .eq => (o == some .eq, false)
  | .ne => (o != some .eq, false)
  | .lt => (o == some .lt, o.isNone)
  | .le => (o == some .lt || o == some .eq, o.isNone)

def map1 (t : ElTy) (d : BitVec 5) (f : Nat → ElRes) (x : Vec) : VRes := foldRes (elWidth t) d ((elems (elWidth t) x).map f)

def map2 (t : ElTy) (d : BitVec 5) (f : Nat → Nat → ElRes) (a x : Vec) : VRes :=
  foldRes (elWidth t) d (((elems (elWidth t) a).zip (elems (elWidth t) x)).map (fun e => f e.1 e.2))

def map3 (t : ElTy) (d : BitVec 5) (f : Nat → Nat → Nat → ElRes) (a b x : Vec) : VRes :=
  let w := elWidth t
  foldRes w d (((elems w a).zip ((elems w b).zip (elems w x))).map (fun e => f e.1 e.2.1 e.2.2))

def transFp (f : FSpec → Nat → Nat × FFlags) (t : ElTy) (x : Nat) : ElRes := elFp t [x] (f (elSpec t) x)

def cmpRes (k : VCond) (t : ElTy) (d : BitVec 5) (a x : Vec) : VRes :=
  let w := elWidth t
  let l := ((elems w a).zip (elems w x)).map (fun e => elCmp k t e.1 e.2)
  ⟨[(d.toNat, ofElems w (l.map (fun e => if e.1 then 2 ^ w - 1 else 0)))], BitVec.ofNat 64 (l.filter (·.1)).length, false, false,
    l.any (·.2), none⟩

/-! ### Reductions, scans, merges (R156–R158) -/

/-- An element as FP32 bits, exactly; an INT32 element as it stands. -/
def toF32 (t : ElTy) (x : Nat) : Nat :=
  match t with
  | .f32 => x
  | .i32 => x
  | t => (packFV specF32 .rne (some (decodeFp (elSpec t) x))).1

def pairUp (f : Nat → Nat → ElRes) : List ElRes → List ElRes
  | a :: b :: r =>
    let e := f a.1 b.1
    (e.1, e.2.1 || a.2.1 || b.2.1, e.2.2 || a.2.2 || b.2.2) :: pairUp f r
  | l => l

def treeRes (f : Nat → Nat → ElRes) : Nat → List ElRes → List ElRes
  | 0, l => l
  | fuel + 1, l => treeRes f fuel (pairUp f l)

/-- The element of a reduction's type in Y: INT32 sign-extended. -/
def elY (t : ElTy) (x : Nat) : Word := if t = .i32 then BitVec.ofInt 64 (intBits 32 true x) else BitVec.ofNat 64 x

def reduceRes (t : ElTy) (f : ElTy → Nat → Nat → ElRes) (x : Vec) : VRes :=
  let t' := if t = .i32 then .i32 else .f32
  let l := (elems (elWidth t) x).map (fun e => ((toF32 t e, false, false) : ElRes))
  match treeRes (f t') 7 l with
  | r :: _ => ⟨[], elY t' r.1, false, r.2.2, r.2.1, none⟩
  | [] => ⟨[], 0, false, false, false, none⟩

def scanList (t : ElTy) : Nat → List Nat → List ElRes
  | _, [] => []
  | k, x :: r =>
    let e := elSum t k x
    e :: scanList t e.1 r

def scanRes (t : ElTy) (d : BitVec 5) (a : Word) (x : Vec) : VRes :=
  let w := elWidth t
  let l := scanList t (a.toNat % 2 ^ w) (elems w x)
  { foldRes w d l with y := elY t ((l.getLast?.map (·.1)).getD 0) }

/-- One step of the merge. The first step copies the partial as it stands, a NaN that is not canonical too. DEDUCED (log 103). -/
def mergeRes (t : ElTy) (d : BitVec 5) (a b : Word) (old x : Vec) : VRes :=
  let n := (b.extractLsb' 12 4).toNat
  let cur := (b.extractLsb' 0 10).toNat
  let sl := (a.extractLsb' 0 10).toNat
  if sl ≠ cur then ⟨[], (b.extractLsb' 0 16).setWidth 64 ||| 0x4000000000000000#64, false, false, false, none⟩
  else
    let r := if sl = 0 then VRes.vec d x else map2 t d (elSum t) old x
    let y := BitVec.ofNat 64 (n * 2 ^ 12 + (sl + 1) % 1024)
    { r with y := if sl + 1 = 2 ^ n then y ||| 0x8000000000000000#64 else y }

/-! ### Conversion (R153, R154) -/

/-- The source elements of a `vcvt` as exact values. -/
def vcvtValues (v : RegFile 5 Vec) (o : EngOp) (blk : BitVec 2) (k : BitVec 4) : List FV :=
  let x := (rget v (vNum o.t)).toNat
  let f := vcvtSrc blk k
  if blk = 3#2 then
    imageValues f (opBand o) 128 (if k = 15#4 then x + 2 ^ 2048 * (rget v (vNum o.t + 1)).toNat else x)
  else (unpackBits (fmtWidth f) (2048 / fmtWidth f) x).map (decodeElem f)

def vcvtRes (x : Thread) (v : RegFile 5 Vec) (o : EngOp) (blk : BitVec 2) (k : BitVec 4) (amx sr nan : Bool) (vd : BitVec 4) : VRes :=
  let vs := vcvtValues v o blk k
  let d := vcvtDst blk k
  let q := quantise d nan (opBand o) (vs.zip (drawModes sr (opSeed o) (sliceOf (opTag o)) (opI0 o) vs.length))
  let bits := quantBits d q
  ⟨(vcvtDest blk k vd).zip [BitVec.ofNat 2048 bits, BitVec.ofNat 2048 (bits / 2 ^ 2048)], BitVec.ofNat 64 q.sats, decide (0 < q.sats), false,
    q.inv, if amx then some (amaxAll (rget x.amax (o.b.extractLsb' 0 2)) vs) else none⟩

/-- The results of a register operation, from the registers as they stand; none for the operations on memory and channels. -/
def vxResult (x : Thread) (v : RegFile 5 Vec) (o : EngOp) : Option VRes :=
  let a := rget v (vNum o.a)
  let b := rget v (vNum o.b)
  let t := rget v (vNum o.t)
  match o.insn with
  | .vmv _ _ d => some (VRes.vec d t)
  | .vand _ _ d => some (VRes.vec d (a &&& t))
  | .vor _ _ d => some (VRes.vec d (a ||| t))
  | .vxor _ _ d => some (VRes.vec d (a ^^^ t))
  | .vbcast _ _ ty d => some (VRes.vec d (ofElems (elWidth ty) (List.replicate (elCount ty) o.t.toNat)))
  | .vperm _ _ ty d =>
    let l := elems (elWidth ty) a
    some (VRes.vec d (ofElems (elWidth ty) ((elems (elWidth ty) t).map (fun i => l.getD (i % elCount ty) 0))))
  | .vsel _ _ ty d => some (map3 ty d (fun p q m => (if m ≠ 0 then p else q, false, false)) a b t)
  | .vadd _ _ ty d => some (map2 ty d (elAdd ty) a t)
  | .vsub _ _ ty d => some (map2 ty d (elSub ty) a t)
  | .vmul _ _ ty d => some (map2 ty d (elMul ty) a t)
  | .vfma _ _ ty d => some (map3 ty d (elFma ty) a b t)
  | .vmax _ _ ty d => some (map2 ty d (elMinMax ty false) a t)
  | .vmin _ _ ty d => some (map2 ty d (elMinMax ty true) a t)
  | .vabs _ _ ty d => some (map1 ty d (elAbs ty) t)
  | .vneg _ _ ty d => some (map1 ty d (elNeg ty) t)
  | .vexp2 _ _ ty d => some (map1 ty d (transFp exp2Fp ty) t)
  | .vlog2 _ _ ty d => some (map1 ty d (transFp log2Fp ty) t)
  | .vrcp _ _ ty d => some (map1 ty d (transFp (fun f => rcpFp f .rne) ty) t)
  | .vrsq _ _ ty d => some (map1 ty d (transFp rsqFp ty) t)
  | .vcmp _ _ k ty d => some (cmpRes k ty d a t)
  | .vamax _ _ (.acc ty) =>
    some ⟨[], 0, false, false, false,
      some (amaxAll (rget x.amax (o.b.extractLsb' 0 2)) ((elems (elWidth ty) t).map (decodeElem (elFmt ty))))⟩
  | .vamax _ _ .clr => some ⟨[], 0, false, false, false, some 0⟩
  | .vamax _ _ .rd =>
    some ⟨[], (o.amax.extractLsb' 0 31).setWidth 64, false, false, false, none⟩
  | .vamax _ _ .nanc =>
    some ⟨[], (o.amax.extractLsb' 32 32).setWidth 64, false, false, false, none⟩
  | .vredadd _ _ ty => some (reduceRes ty elSum t)
  | .vredmax _ _ ty => some (reduceRes ty (fun ty => elMinMax ty false) t)
  | .vscan _ _ ty d => some (scanRes ty d o.a t)
  | .vmerge _ _ ty d => some (mergeRes ty d o.a o.b (rget v d) t)
  | .vcvt _ _ blk k amx sr nan vd => some (vcvtRes x v o blk k amx sr nan vd)
  | _ => none

/-! ## Completion (R144) -/

def writeVs (v : RegFile 5 Vec) (l : List (Nat × Vec)) : RegFile 5 Vec := l.foldl (fun v e => rset v (BitVec.ofNat 5 e.1) e.2) v

def setAmax (x : Thread) (o : EngOp) : Option Word → Thread
  | none => x
  | some w => { x with amax := rset x.amax (BitVec.ofNat 2 ((amaxNum o).getD 0)) w }

/-- The operation in flight leaves the engine, its results written in one step. -/
def finishVx (s : State) (c : Nat) (t : BitVec 3) (o : EngOp) (r : VRes) : State :=
  let s := modCell s c (fun x => { x with vxf := none, v := writeVs x.v r.v })
  let s := modThr s c t (fun x => addVxst (setAmax x o r.amax) r.sat r.nan r.nv)
  opDone s c t 11#4 r.y (!(opsOf t (cellAt s c).vxq).isEmpty)

def doneVx (s : State) (c : Nat) (t : BitVec 3) (o : EngOp) (y : Word) : State := finishVx s c t o ⟨[], y, false, false, false, none⟩

/-- Bytes of a register, and a register with some of its bytes replaced. -/
def vecBytes (v : Vec) (off n : Nat) : List Byte := leBytes n (v.toNat / 2 ^ (8 * off))

def putVecBytes (v : Vec) (off : Nat) (bs : List Byte) : Vec :=
  BitVec.ofNat 2048 (leNat (spliceBytes (leBytes 256 v.toNat) off bs))

def partOff : Part → Nat
  | .hi => 128
  | _ => 0

def completeVld (s : State) (c : Nat) (t : BitVec 3) (o : EngOp) (part : Part) (d : BitVec 5) : Option State :=
  o.data.map (fun bs => finishVx s c t o (VRes.vec d (putVecBytes (rget (cellAt s c).v d) (partOff part) bs)))

/-! ### Streams (R159–R161) -/

/-- The head of the receive end that the operation reads. -/
def recvHead (s : State) (c : Nat) (o : EngOp) : Option (RecvEnd × Note × ChanSlot) :=
  (findRecv (cellAt s c) (hEid o.h)).bind (fun r =>
    (headNow s r).bind (fun n => (noteSlot s r.home r.eid n).map (fun m => (r, n, m))))

/-- `vrecv` ends with `y`: elements beyond those received are 0; an irrevocable take frees the slots now (R159, R160). -/
def endVrecv (s : State) (c : Nat) (t : BitVec 3) (o : EngOp) (d : BitVec 5) (y : Word) : State :=
  let x := thr s c t
  let s := if x.phase == .irrevocable then
      modThr (consumeAll s c x.consumed) c t (fun x => { x with consumed := [] })
    else s
  finishVx s c t o { VRes.vec d o.part with y := y }

/-- A message consumed by `vrecv` is held for print (R160). -/
def holdHead (s : State) (c : Nat) (t : BitVec 3) (r : RecvEnd) (n : Note) : State :=
  let s := modRecv s c r.eid (fun r => takeNote r n)
  modThr s c t (fun x => { x with consumed := x.consumed ++ [⟨r.eid, n, r.home⟩] })

/-- One message of a `vrecv` (R159). DESIGN CHOICE (log 36). -/
def stepVrecv (s : State) (c : Nat) (t : BitVec 3) (o : EngOp) (ty : ElTy) (d : BitVec 5) : Option State :=
  (recvHead s c o).map (fun h =>
    let k := BitVec.ofNat 64 o.cnt
    if isEvent h.2.2 then endVrecv s c t o d (k ||| 0x4000000000000000#64)
    else
      let ws := h.2.2.msg.payload
      let got := ws.takeWhile (fun w => w != o.b)
      let n := got.length * (64 / elWidth ty)
      if elCount ty < o.cnt + n then endVrecv s c t o d k
      else
        let s := holdHead s c t h.1 h.2.1
        let o := { o with
          cnt := o.cnt + n,
          part := o.part ||| BitVec.ofNat 2048 (packBits 64 (got.map (·.toNat)) * 2 ^ (o.cnt * elWidth ty)) }
        if ws.any (fun w => w == o.b) then endVrecv s c t o d (BitVec.ofNat 64 o.cnt ||| 0x8000000000000000#64)
        else putVx c s o)

/-- The timeout of a `vrecv` whose end has no message (R159). DESIGN CHOICE (log 36). -/
def timeoutVrecv (s : State) (c : Nat) : Option State :=
  match (cellAt s c).vxf with
  | some o =>
    match o.insn with
    | .vrecv _ _ _ d =>
      let a := (o.a.extractLsb' 0 32).toNat
      if a != 0 && (recvHead s c o).isNone && decide (a ≤ s.cyc.toNat - o.start) then
        some (endVrecv s c (BitVec.ofNat 3 o.th) o d (BitVec.ofNat 64 o.cnt ||| 0x2000000000000000#64))
      else none
    | _ => none
  | none => none

def execVrecvTimeout (cell : Nat) (s : State) : Host.Outcome State Fault Refusal := event s (timeoutVrecv s cell)

/-- The payloads of a `vsnd` (R161). -/
def vsndPayloads (v : Vec) (b : Word) : List (List Word) :=
  let n := (b.extractLsb' 0 6).toNat
  let ws := (unpackBits 64 32 v.toNat).map (BitVec.ofNat 64)
  (List.range (vsndCount b)).map (fun i => ((ws.take n).drop (8 * i)).take 8)

/-- The target of a `vsnd`, checked at its start. -/
def vsndKind (h : Handle) : SendKind := if hKind h = 3 then .stage (hEid h % 32) (hEid h / 32 % 256) else .chan (hEid h)

/-- The places of operation `id` take its messages in order. -/
def fillSends (id : Nat) : List Effect → List Effect → List Effect
  | _, [] => []
  | ps, e :: r =>
    match e, ps with
    | .send (.vsnd i) _ _ _ _, p :: ps' => if i = id then p :: fillSends id ps' r else e :: fillSends id (p :: ps') r
    | e, ps => e :: fillSends id ps r

/-- The messages fill the places they took; an irrevocable take sends them one by one, as credits allow. -/
def completeVsnd (s : State) (c : Nat) (t : BitVec 3) (o : EngOp) (k : BitVec 4) : Option State :=
  let ps := vsndPayloads (rget (cellAt s c).v (vNum o.a)) o.b
  let mk : List Word → Effect := fun p => .send (vsndKind o.h) (k.setWidth 5) 0 p 1
  let y := BitVec.ofNat 64 ps.length
  if (thr s c t).phase == .irrevocable then
    match ps.drop o.cnt with
    | [] => some (doneVx s c t o y)
    | p :: r =>
      (performNow s c t o (mk p)).map (fun s =>
        if r.isEmpty then doneVx s c t o y else putVx c s { o with cnt := o.cnt + 1 })
  else
    some (doneVx (modThr s c t (fun x => { x with effects := fillSends o.id (ps.map mk) x.effects })) c t o y)

/-- The operation in flight completes, or takes its next message; none while it waits. -/
def completeVx (s : State) (c : Nat) : Option State :=
  match (cellAt s c).vxf with
  | none => none
  | some o =>
    let t := BitVec.ofNat 3 o.th
    match (if o.req.isSome then none else o.keys) with
    | none => none
    | some ks =>
      match o.insn with
      | .vld _ _ _ part d => completeVld s c t o part d
      | .vst _ _ sp part v =>
        (storeRuns s c t o (sp == .scr) ks [vecBytes (rget (cellAt s c).v v) (partOff part) (partBytes part)]).map
          (fun s => doneVx s c t o 0)
      | .vrecv _ _ ty d => stepVrecv s c t o ty d
      | .vsnd _ _ k => completeVsnd s c t o k
      | _ => (vxResult (thr s c t) (cellAt s c).v o).map (fun r => finishVx s c t o r)

def execVxOpComplete (cell : Nat) (s : State) : Host.Outcome State Fault Refusal := event s (completeVx s cell)

end Sys2Proof.Machine
end

