-- ==== Sys2Proof/Machine/Tiles.lean ====
section
/-! DEFINITION. How a tile span holds rows, scales and band scales, and the products of rows (08_matrix_ops R167, R168, R172–R174). -/

namespace Sys2Proof.Machine

/-- The layout of a tile operand (R168). -/
structure Shape where
  fmt : Fmt
  rows : Nat
  rowb : Nat
  /-- elements per stored row (Table 8.2) -/
  e : Nat
  sb : Nat
  band : Nat
  /-- stored rows per tile, and tiles of the span -/
  p : Nat
  s : Nat
  deriving DecidableEq, Repr

/-- Table 8.2. -/
def elemsPerRow (f : Fmt) (rowb : Nat) : Nat :=
  let w := fmtWidth f
  if w = 4 then 2 * rowb else if w ≤ 8 then rowb else rowb * 8 / w

/-- P: the largest power of two of rows that fit one tile (R168). -/
def rowsPerTile (cap rowb sb band : Nat) : Nat :=
  ([256, 128, 64, 32, 16, 8, 4, 2, 1].find? (fun p => decide (p ≤ cap) && decide (p * (rowb + sb) + band ≤ 8192))).getD 1

def mkShape (f : Fmt) (rows rowb : Nat) : Shape :=
  let e := elemsPerRow f rowb
  let sb := scaleBytes f e
  let band := if f == .lbf4 then 2 else 0
  let cap := if fmtWidth f < 8 || blockLen f != 0 then 64 else 256
  let p := rowsPerTile cap rowb sb band
  ⟨f, rows, rowb, e, sb, band, p, (rows + p - 1) / p⟩

/-- The layout that a tcfg value describes; none where its format code is out of range (R101). -/
def shapeOf (w : Word) : Option Shape := (fmtOfCode (tcfgFmt w)).map (fun f => mkShape f (tcfgRows w) (tcfgRowBytes w))

/-- The last tile of the span exists, and E is a multiple of the block length (R168). -/
def spanOk (sh : Shape) (n : BitVec 3) : Bool :=
  decide (n.toNat + sh.s ≤ 8) && (blockLen sh.fmt == 0 || sh.e % blockLen sh.fmt == 0)

/-- `n` bytes of a tile from byte `off`, as a number. -/
def tileBytes (t : Tile) (off n : Nat) : Nat := t.toNat / 2 ^ (8 * off) % 2 ^ (8 * n)

def tileOf (ts : RegFile 3 Tile) (n : BitVec 3) (k : Nat) : Tile := rget ts (n + BitVec.ofNat 3 k)

/-- The image of stored row `r`: its elements, then its scales (R109, R168). -/
def rowImage (sh : Shape) (ts : RegFile 3 Tile) (n : BitVec 3) (r : Nat) : Nat :=
  let t := tileOf ts n (r / sh.p)
  let eb := elemBytes sh.fmt sh.e
  tileBytes t (r % sh.p * sh.rowb) eb + 2 ^ (8 * eb) * tileBytes t (sh.p * sh.rowb + r % sh.p * sh.sb) sh.sb

/-- The band scale of the tile that holds stored row `r`. -/
def rowBand (sh : Shape) (ts : RegFile 3 Tile) (n : BitVec 3) (r : Nat) : Nat :=
  tileBytes (tileOf ts n (r / sh.p)) (sh.p * (sh.rowb + sh.sb)) sh.band

def rowValues (sh : Shape) (ts : RegFile 3 Tile) (n : BitVec 3) (r : Nat) : List FV :=
  imageValues sh.fmt (rowBand sh ts n r) sh.e (rowImage sh ts n r)

/-- The rows of a span as exact values. -/
def spanValues (sh : Shape) (ts : RegFile 3 Tile) (n : BitVec 3) : List (List FV) := (List.range sh.rows).map (rowValues sh ts n)

/-- Bands of 64 rows (R108). -/
def bandCount (rows : Nat) : Nat := (rows + 63) / 64

/-- Every band scale of the span is one that R108 allows. DEDUCED (log 32). -/
def bandsOk (sh : Shape) (ts : RegFile 3 Tile) (n : BitVec 3) : Bool :=
  sh.fmt != .lbf4 || (List.range sh.s).all (fun k => bandOk (rowBand sh ts n (k * sh.p)))

/-- One tile of a span from row images; every unused byte is 0 (R168). -/
def tileOfRows (sh : Shape) (k : Nat) (rows : List Nat) (bands : List Nat) : Tile :=
  let eb := elemBytes sh.fmt sh.e
  let l := (rows.drop (k * sh.p)).take sh.p
  let els := packBits (8 * sh.rowb) (l.map (fun r => r % 2 ^ (8 * eb)))
  let scs := packBits (8 * sh.sb) (l.map (fun r => r / 2 ^ (8 * eb)))
  BitVec.ofNat 65536 (els + 2 ^ (8 * (sh.p * sh.rowb)) * scs
    + 2 ^ (8 * (sh.p * (sh.rowb + sh.sb))) * (if sh.band = 0 then 0 else bands.getD (k * sh.p / 64) 0))

/-- The span written from row images and band scales. -/
def writeSpan (sh : Shape) (ts : RegFile 3 Tile) (n : BitVec 3) (rows bands : List Nat) : RegFile 3 Tile :=
  (List.range sh.s).foldl (fun ts k => rset ts (n + BitVec.ofNat 3 k) (tileOfRows sh k rows bands)) ts

/-! ## Products (R118–R120, R172) -/

/-- The classes of Table 8.7. -/
inductive MClass | c16 | c8 | c4 | int8 | int4
  deriving DecidableEq, Repr

def classOf : Fmt → Option MClass
  | .bf16 => some .c16 | .f16 => some .c16
  | .e4m3 => some .c8 | .e5m2 => some .c8 | .e2m3 => some .c8 | .e3m2 => some .c8
  | .mx8e4 => some .c8 | .mx8e5 => some .c8 | .mx6e2 => some .c8 | .mx6e3 => some .c8
  | .e2m1 => some .c4 | .mx4 => some .c4 | .lbf4 => some .c4
  | .i8 => some .int8 | .uint8 => some .int8
  | .i4 => some .int4
  | _ => none

def classG : MClass → Nat
  | .c16 => 16 | .c8 => 32 | .c4 => 64 | .int8 => 32 | .int4 => 64

def classInt : MClass → Bool
  | .int8 => true | .int4 => true | _ => false

def classCode : MClass → Nat
  | .c16 => 0 | .c8 => 1 | .c4 => 2 | .int8 => 3 | .int4 => 4

/-- Rows as columns. -/
def transpose (cols : Nat) (rows : List (List FV)) : List (List FV) :=
  (List.range cols).map (fun j => rows.map (fun r => r.getD j .nan))

/-- An accumulator element and what it adds to mxst: nan, iov. -/
abbrev AccRes := Nat × Bool × Bool

/-- One element of a product; an absent term is a skipped one (R118–R120, R173). -/
def accElem (cl : MClass) (old : Nat) (ts : List (Option (FV × FV))) : AccRes :=
  if classInt cl then
    let v : Int := intBits 32 true old + (ts.map (fun e => match e with | some (a, b) => intOfFV a * intOfFV b | none => 0)).sum
    ((v % 2 ^ 32).toNat, false, decide (v < -(2 ^ 31)) || decide (2 ^ 31 ≤ v))
  else
    let (r, n) := groupSums (classG cl) ts.length old (ts.map (fun e => e.map (fun ab => mulV ab.1 ab.2)))
    (r, n, false)

def accGet (a : Acc) (i j : Nat) : Nat := a.toNat / 2 ^ (32 * (64 * i + j)) % 2 ^ 32

/-- The product of rows A(i) and columns B(j) added from (i0, j0) on; other elements unchanged. -/
def productAcc (cl : MClass) (acc : Acc) (i0 j0 : Nat) (as : List (List (Option FV))) (bs : List (List FV)) : Acc × Bool × Bool :=
  let new := (as.zip (List.range as.length)).map (fun ra => (bs.zip (List.range bs.length)).map (fun rb =>
    accElem cl (accGet acc (i0 + ra.2) (j0 + rb.2))
      ((ra.1.zip rb.1).map (fun e => e.1.map (fun a => (a, e.2))))))
  let words := (List.range 64).flatMap (fun i => (List.range 64).map (fun j =>
    if i0 ≤ i && j0 ≤ j then
      match new[i - i0]?.bind (fun r => r[j - j0]?) with
      | some e => e.1
      | none => accGet acc i j
    else accGet acc i j))
  (BitVec.ofNat 131072 (packBits 32 words), new.any (·.any (·.2.1)), new.any (·.any (·.2.2)))

/-- Placement in the accumulator (R172). -/
def placeI (o : EngOp) : Nat := ((rget o.e 0#3).extractLsb' 0 6).toNat

def placeJ (o : EngOp) : Nat := ((rget o.e 0#3).extractLsb' 8 6).toNat

/-- The limits of a product: one class, K a multiple of G and at most 4G, and room in the accumulator (R172). -/
def productOk (fa fb : Fmt) (k m n i0 j0 : Nat) : Bool :=
  match classOf fa, classOf fb with
  | some ca, some cb => ca == cb && k % classG ca == 0 && decide (k ≤ 4 * classG ca) && decide (i0 + m ≤ 64) && decide (j0 + n ≤ 64)
  | _, _ => false

/-! ## Skip lists (R173) -/

/-- What a skip list says of one row: the kept blocks. -/
inductive Skip
  | row (keep : List Bool) (next : Nat)
  | fault (e : Cause)
  deriving DecidableEq, Repr

/-- The walk of one row over `byte`, which is none outside the context's regions. -/
def skipRow (byte : Nat → Option Nat) (blocks : Nat) : Nat → Nat → List Bool → Skip
  | 0, _, _ => .fault .perm
  | fuel + 1, off, keep =>
    if blocks ≤ keep.length then .row keep off
    else
      match byte off with
      | none => .fault .perm
      | some x =>
        if blocks < keep.length + x / 16 + x % 16 then .fault .format
        else skipRow byte blocks fuel (off + 1) (keep ++ List.replicate (x / 16) false ++ List.replicate (x % 16) true)

/-- The walk of `m` rows. -/
def skipRows (byte : Nat → Option Nat) (blocks cap : Nat) : Nat → Nat → Except Cause (List (List Bool) × Nat)
  | 0, off => .ok ([], off)
  | m + 1, off =>
    match skipRow byte blocks 0x16001 off [] with
    | .fault e => .error e
    | .row keep next =>
      if cap < 8 * (keep.filter (fun b => b)).length then .error .format
      else
        match skipRows byte blocks cap m next with
        | .error e => .error e
        | .ok (l, n) => .ok (keep :: l, n)

/-- Row i of A spread over K: kept blocks in order, skipped ones absent. -/
def spreadRow (keep : List Bool) (els : List FV) : List (Option FV) :=
  match keep with
  | [] => []
  | false :: r => List.replicate 8 none ++ spreadRow r els
  | true :: r => (els.take 8).map some ++ spreadRow r (els.drop 8)

end Sys2Proof.Machine
end

