-- ==== Sys2Proof/Machine/Mx.lean ====
section
/-! DEFINITION. Unit `mx`: the trigger words, and the start and the completion of the matrix engine's operations (08_matrix_ops). -/

namespace Sys2Proof.Machine

/-! ## Memory operands (R169, R170) -/

/-- Rows of `n` bytes at a distance. -/
def rowRuns (base stride n count : Nat) : List (Nat × Nat) := (List.range count).map (fun r => (base + r * stride, n))

def ptrAddr (w : Word) : Nat := (w.extractLsb' 0 56).toNat

def ptrFmt (w : Word) : Option Fmt := if tagValid w then fmtOfCode (w.extractLsb' 59 5).toNat else none

def rowDist (o : EngOp) : Nat := (o.a.extractLsb' 0 32).toNat

/-- w of R169: the element bytes that an address must be a multiple of. -/
def alignBytes (f : Fmt) : Nat := if fmtWidth f = 16 then 2 else if fmtWidth f = 32 then 4 else if fmtWidth f = 64 then 8 else 1

/-- The run of band scales at e3. -/
def bandRuns (o : EngOp) (f : Fmt) (rows : Nat) : List (Nat × Nat) :=
  if f = .lbf4 then [(ptrAddr (rget o.e 3#3), 2 * bandCount rows)] else []

/-- The runs of `tld` and `tst`: the format in memory is the tag's, or the tile's where the tag is 0. -/
def tileRuns (o : EngOp) (sh : Shape) (tag : Fmt) : List (Nat × Nat) :=
  rowRuns (ptrAddr o.t) (rowDist o) (imageLen (if tag = .byte then sh.fmt else tag) sh.e) sh.rows ++ bandRuns o sh.fmt sh.rows

/-- The runs of `tcst`. -/
def tcstRuns (o : EngOp) (sh : Shape) (d : Fmt) : List (Nat × Nat) :=
  rowRuns (ptrAddr o.t) (rowDist o) (imageLen d sh.rows) sh.e ++ bandRuns o d sh.e

/-- The naturally aligned 16-B granules that runs touch (R165). -/
def granules (rs : List (Nat × Nat)) : Nat :=
  ((rs.flatMap (fun r => if r.2 = 0 then [] else (List.range ((r.1 + r.2 - 1) / 16 - r.1 / 16 + 1)).map (r.1 / 16 + ·))).eraseDups).length

/-- Store-buffer entries of a deferred `tst` or `tcst`; none where its operands name no image. -/
def storeNeed (o : EngOp) (runs : EngOp → Shape → Fmt → List (Nat × Nat)) : Nat :=
  match shapeOf o.tcfgA, ptrFmt o.t with
  | some sh, some d => granules (runs o sh d)
  | _, _ => 0

/-! ## Trigger words (R164, R165) -/

/-- The tcfg of the tile named in the modifier field is sampled with that of the tile that T names (R87). -/
def mxWord (s : State) (grd : Guard) (src : Src) (i : Instr) (n : BitVec 3) (need : EngOp → Nat × Nat) :
    Host.Outcome State Fault Refusal :=
  engineWord s grd src 12#4 (·.mxq) (fun x o => { x with mxq := x.mxq ++ [o] })
    (fun s c t v => mkOp s c t i 12#4 v (rget (cellAt s c).tcfg n) (rget (cellAt s c).tcfg (v.extractLsb' 0 3))) need

def mxPlain (s : State) (grd : Guard) (src : Src) (i : Instr) (n : BitVec 3) : Host.Outcome State Fault Refusal :=
  mxWord s grd src i n (fun _ => (0, 0))

def execTld (grd : Guard) (src : Src) (sp : VSpace) (t : BitVec 3) (s : State) : Host.Outcome State Fault Refusal :=
  mxWord s grd src (.tld grd src sp t) t (fun _ => (0, 0))

def execTst (grd : Guard) (src : Src) (sp : VSpace) (t : BitVec 3) (s : State) : Host.Outcome State Fault Refusal :=
  mxWord s grd src (.tst grd src sp t) t (fun o => (if sp = .scr then 0 else storeNeed o tileRuns, 0))

/-- DEDUCED (log 31). -/
def execTcst (grd : Guard) (src : Src) (sp : VSpace) (amx sr nan : Bool) (t : BitVec 3) (s : State) : Host.Outcome State Fault Refusal :=
  mxWord s grd src (.tcst grd src sp amx sr nan t) t (fun o => (if sp = .scr then 0 else storeNeed o tcstRuns, 0))

def execTzero (grd : Guard) (src : Src) (t : BitVec 3) (s : State) : Host.Outcome State Fault Refusal :=
  mxPlain s grd src (.tzero grd src t) t

def execTmv (grd : Guard) (src : Src) (t : BitVec 3) (s : State) : Host.Outcome State Fault Refusal := mxPlain s grd src (.tmv grd src t) t

def execMma (grd : Guard) (src : Src) (ta tb : Bool) (t : BitVec 3) (a : BitVec 2) (s : State) : Host.Outcome State Fault Refusal :=
  mxPlain s grd src (.mma grd src ta tb t a) t

def execMmsk (grd : Guard) (src : Src) (sk : BitVec 2) (t : BitVec 3) (a : BitVec 2) (s : State) : Host.Outcome State Fault Refusal :=
  mxWord s grd src (.mmsk grd src sk t a) t (fun _ => (0, 0))

def execGmma (grd : Guard) (src : Src) (ta tb : Bool) (t : BitVec 3) (a : BitVec 2) (s : State) : Host.Outcome State Fault Refusal :=
  mxWord s grd src (.gmma grd src ta tb t a) t (fun _ => (0, 0))

def execTaccTile (grd : Guard) (src : Src) (amx sr : Bool) (t : BitVec 3) (a : BitVec 2) (s : State) : Host.Outcome State Fault Refusal :=
  mxPlain s grd src (.taccTile grd src amx sr t a) t

def execTaccVector (grd : Guard) (src : Src) (v : BitVec 5) (a : BitVec 2) (s : State) : Host.Outcome State Fault Refusal :=
  mxPlain s grd src (.taccVector grd src v a) 0#3

def execAclr (grd : Guard) (src : Src) (a : BitVec 2) (s : State) : Host.Outcome State Fault Refusal :=
  mxPlain s grd src (.aclr grd src a) 0#3

def execSkset (grd : Guard) (src : Src) (k : BitVec 2) (s : State) : Host.Outcome State Fault Refusal :=
  mxPlain s grd src (.skset grd src k) 0#3

/-! ## Checks at the start (R164, R169–R176) -/

/-- Stores the operation in flight. -/
def putMx (c : Nat) (s : State) (o : EngOp) : State :=
  modCell s c (fun x => { x with mxf := some o })

/-- T carries a tile number with no higher bit. -/
def tileNumOk (o : EngOp) : Bool := o.t.extractLsb' 3 61 == 0

/-- The pointer at e3 to band scales, where the format has them: misaligned, or no BF16 pointer. -/
def bandPtrFault (o : EngOp) (f : Fmt) (align : Bool) : Option Cause :=
  if f != .lbf4 then none
  else if align && ptrAddr (rget o.e 3#3) % 2 != 0 then some .align
  else if ptrFmt (rget o.e 3#3) != some .bf16 then some .format
  else none

def alignFault (o : EngOp) (d : Fmt) : Bool := ptrAddr o.t % alignBytes d != 0 || rowDist o % alignBytes d != 0

/-- `tld` and `tst`: ALIGN before FORMAT (R327). -/
def tileFault (o : EngOp) (sh : Shape) (n : BitVec 3) (load : Bool) : Option Cause :=
  match ptrFmt o.t with
  | none => some .format
  | some d =>
    let bad := d != sh.fmt && d != .byte && (!load || blockLen d != 0 || blockLen sh.fmt != 0)
    if alignFault o d then some .align
    else if bandPtrFault o sh.fmt true == some .align then some .align
    else if bad || !spanOk sh n then some .format
    else bandPtrFault o sh.fmt true

/-- `.sr` has no effect on an integer or FP32 destination: FORMAT (R170, R176). -/
def srBad (d : Fmt) : Bool := isIntFmt d || d == .f32

/-- `tcst` (R170). DEDUCED (log 31). -/
def tcstFault (o : EngOp) (sh : Shape) (n : BitVec 3) (sr nan : Bool) : Option Cause :=
  match ptrFmt o.t with
  | none => some .format
  | some d =>
    if alignFault o d then some .align
    else if bandPtrFault o d true == some .align then some .align
    else if d == .byte || blockLen sh.fmt != 0 || !spanOk sh n then some .format
    else if blockLen d != 0 && sh.rows % blockLen d != 0 then some .format
    else if fmtWidth d < 8 && sh.rows * fmtWidth d % 8 != 0 then some .format
    else if nan && !d.hasNan && blockLen d == 0 then some .format
    else if sr && (srBad d || !sliceTagOk (opTag o)) then some .format
    else if d == .lbf4 && opBand o != 0 && !bandOk (opBand o) then some .format
    else bandPtrFault o d true

/-- K and M of A, K and N of B (Table 8.6). -/
def aK (sh : Shape) (ta : Bool) : Nat := if ta then sh.rows else sh.e

def aM (sh : Shape) (ta : Bool) : Nat := if ta then sh.e else sh.rows

def bN (sh : Shape) (tb : Bool) : Nat := if tb then sh.e else sh.rows

/-- `mma` (R172). -/
def mmaFault (o : EngOp) (a b : Shape) (n : BitVec 3) (ta tb : Bool) : Option Cause :=
  if spanOk a n && spanOk b (o.t.extractLsb' 0 3) && aK a ta == aK b tb
      && productOk a.fmt b.fmt (aK a ta) (aM a ta) (bN b tb) (placeI o) (placeJ o) then none
  else some .format

/-- `mmsk` (R173). DEDUCED (log 32). -/
def mmskFault (o : EngOp) (a b : Shape) (n : BitVec 3) : Option Cause :=
  if spanOk a n && spanOk b (o.t.extractLsb' 0 3) && blockLen a.fmt != 32
      && productOk a.fmt b.fmt b.e a.rows b.rows (placeI o) (placeJ o) then none
  else some .format

/-- N of a `gmma`. -/
def gN (o : EngOp) : Nat := (o.a.extractLsb' 32 8).toNat

/-- Elements of a stored row of the `gmma`'s B, and its rows (R174). -/
def gRowE (o : EngOp) (a : Shape) (ta tb : Bool) : Nat := if tb then gN o else aK a ta

def gRows (o : EngOp) (a : Shape) (ta tb : Bool) : Nat := if tb then aK a ta else gN o

/-- `gmma` (R174). A stored row of B that is no whole number of bytes takes the bytes that its bits need, and faults nothing. DEDUCED (log 30);
DESIGN CHOICE (log 126). -/
def gmmaFault (o : EngOp) (a : Shape) (n : BitVec 3) (ta tb : Bool) : Option Cause :=
  match ptrFmt o.t with
  | none => some .format
  | some d =>
    if spanOk a n && decide (1 ≤ gN o) && decide (gN o ≤ 64)
        && productOk a.fmt d (aK a ta) (aM a ta) (gN o) (placeI o) (placeJ o)
        && (blockLen d == 0 || gRowE o a ta tb % blockLen d == 0) then bandPtrFault o d false
    else some .format

/-- `tacc` to a tile (R176). -/
def taccFault (o : EngOp) (sh : Shape) (n : BitVec 3) (sr : Bool) : Option Cause :=
  if sh.fmt == .byte || !spanOk sh n || !decide (placeI o + sh.rows ≤ 64) || !decide (placeJ o + sh.e ≤ 64) then some .format
  else if sr && (srBad sh.fmt || !sliceTagOk (opTag o)) then some .format
  else if sh.fmt == .lbf4 && opBand o != 0 && !bandOk (opBand o) then some .format
  else none

def withShape (w : Word) (f : Shape → Option Cause) : Option Cause :=
  match shapeOf w with
  | some sh => f sh
  | none => some .format

/-- The checks that need no memory. DEDUCED (log 29). -/
def mxOperandFault (o : EngOp) : Option Cause :=
  if !numbersOk o then some .illegal
  else
    match o.insn with
    | .tld _ _ _ n => withShape o.tcfgA (fun sh => tileFault o sh n true)
    | .tst _ _ _ n => withShape o.tcfgA (fun sh => tileFault o sh n false)
    | .tcst _ _ _ _ sr nan n => withShape o.tcfgA (fun sh => tcstFault o sh n sr nan)
    | .tmv _ _ _ => if tileNumOk o then none else some .illegal
    | .mma _ _ ta tb n _ =>
      if !tileNumOk o then some .illegal
      else withShape o.tcfgA (fun a => withShape o.tcfgB (fun b => mmaFault o a b n ta tb))
    | .mmsk _ _ _ n _ =>
      if !tileNumOk o then some .illegal
      else withShape o.tcfgA (fun a => withShape o.tcfgB (fun b => mmskFault o a b n))
    | .gmma _ _ ta tb n _ => withShape o.tcfgA (fun a => gmmaFault o a n ta tb)
    | .taccTile _ _ _ sr n _ => withShape o.tcfgA (fun sh => taccFault o sh n sr)
    | .skset _ _ _ => if o.t.extractLsb' 17 47 == 0 then none else some .illegal
    | _ => none

/-- The layout of the operation's tile, once checked. -/
def opShape (w : Word) : Shape := (shapeOf w).getD (mkShape .byte 1 32)

def opFmt (o : EngOp) : Fmt := (ptrFmt o.t).getD .byte

/-- The formats an operation names. -/
def mxFormats (o : EngOp) : List Fmt :=
  match o.insn with
  | .tld _ _ _ _ => [(opShape o.tcfgA).fmt, opFmt o]
  | .tst _ _ _ _ => [(opShape o.tcfgA).fmt, opFmt o]
  | .tcst _ _ _ _ _ _ _ => [(opShape o.tcfgA).fmt, opFmt o]
  | .mma _ _ _ _ _ _ => [(opShape o.tcfgA).fmt, (opShape o.tcfgB).fmt]
  | .mmsk _ _ _ _ _ => [(opShape o.tcfgA).fmt, (opShape o.tcfgB).fmt]
  | .gmma _ _ _ _ _ _ => [(opShape o.tcfgA).fmt, opFmt o]
  | .taccTile _ _ _ _ _ _ => [(opShape o.tcfgA).fmt]
  | _ => []

/-- A format narrower than 8 bits, where its paths are not up (R387). -/
def mxNarrow (s : State) (c : Nat) (o : EngOp) : Bool := f4Down s (dieOf c) && (mxFormats o).any (fun f => decide (fmtWidth f < 8))

/-! ## The grove join (R175) -/

/-- A `gmma` enters its context's join; parameters that differ fault FORMAT. -/
def enterJoin (s : State) (c : Nat) (t : BitVec 3) (o : EngOp) (ta tb : Bool) : State :=
  let ctx := (thr s c t).ctx.toNat
  let sh := opShape o.tcfgA
  let cls := ((classOf sh.fmt).map classCode).getD 0
  let put : State → State := fun s => putMx c s { o with joined := true, start := s.cyc.toNat }
  match (groveAt s (groveOf c)).joins.find? (fun j => j.ctx == ctx) with
  | none =>
    put (modGrove s (groveOf c) (fun g => { g with joins := g.joins ++ [⟨ctx, o.t, o.a, tb, aK sh ta, cls, [c]⟩] }))
  | some j =>
    if j.t == o.t && j.a == o.a && j.tb == tb && j.k == aK sh ta && j.fmtClass == cls then
      put (modGrove s (groveOf c) (fun g => { g with
        joins := g.joins.map (fun j => if j.ctx == ctx then { j with cells := j.cells ++ [c] } else j) }))
    else engineFault (putMx c s o) c t o .format

/-- The band scales of the tiles that a product reads, checked as it starts (R108, R164). -/
def tileBandFault (s : State) (c : Nat) (o : EngOp) : Option Cause :=
  let ts := (cellAt s c).t
  let a := opShape o.tcfgA
  let both : BitVec 3 → Option Cause := fun n =>
    if bandsOk a ts n && bandsOk (opShape o.tcfgB) ts (o.t.extractLsb' 0 3) then none else some .format
  match o.insn with
  | .mma _ _ _ _ n _ => both n
  | .mmsk _ _ _ n _ => both n
  | .gmma _ _ _ _ n _ => if bandsOk a ts n then none else some .format
  | _ => none

/-- A byte of a skip list, with the take's own stores; none outside its regions (R173). -/
def skipByte (s : State) (c : Nat) (t : BitVec 3) (o : EngOp) (off : Nat) : Option Nat :=
  let x := thr s c t
  if localOk (posOf s c x.ctx.toNat) off 1 false false then
    some (leNat (viewDirect s (x.effects.take o.neff) (.loc c off) 1))
  else none

/-- Where the skip list of an `mmsk` begins. -/
def skipStart (s : State) (c : Nat) (t : BitVec 3) (k : BitVec 2) : Nat := ((rget (thr s c t).sk k).extractLsb' 0 17).toNat

/-- The skip list as bytes `get` spells it: the kept blocks of each row of A, and the offset after the list (R173). -/
def skipRead (o : EngOp) (get : Nat → Option Nat) (off : Nat) : Except Cause (List (List Bool) × Nat) :=
  skipRows get ((opShape o.tcfgB).e / 8) (opShape o.tcfgA).e (opShape o.tcfgA).rows off

/-- An `mmsk` reads its skip list as it starts (R164, R173). DEDUCED (log 32). -/
def readSkip (s : State) (c : Nat) (t : BitVec 3) (o : EngOp) (k : BitVec 2) : HomeAns (Except Cause (List Byte)) :=
  let off := skipStart s c t k
  if s.opErrors.contains o.id then .ecc
  else
    match skipRead o (skipByte s c t o) off with
    | .error e => .ok (.error e)
    | .ok (_, next) =>
      if viewUnknown ((thr s c t).effects.take o.neff) (locKey c off) (next - off) || directAhead s c t (keysFrom (locKey c off) (next - off)) then .wait
      else .ok (.ok ((List.range (next - off)).map (fun i => BitVec.ofNat 8 ((skipByte s c t o (off + i)).getD 0))))

/-- The band scales that `tld` has read, where R108 does not allow them. -/
def loadedBandFault (o : EngOp) (bs : List Byte) : Option Cause :=
  let sh := opShape o.tcfgA
  match o.insn with
  | .tld _ _ _ _ =>
    let rows := (splitRuns o.runs bs).map (·.2.2)
    if sh.fmt == .lbf4 && !((unpackBits 16 (bandCount sh.rows) (leNat (rows.drop sh.rows).flatten)).all bandOk) then some .format else none
  | _ => none

/-- An operation in flight whose bytes are read, and break a rule of theirs, faults (R108, R145). -/
def checkLoaded (s : State) (c : Nat) (t : BitVec 3) : State :=
  match (cellAt s c).mxf with
  | some o =>
    match o.data.bind (loadedBandFault o) with
    | some e => engineFault s c t o e
    | none => s
  | none => s

/-- The checks made of an operation's operands and registers as it starts. -/
def mxStartFault (s : State) (c : Nat) (o : EngOp) : Option Cause :=
  (withNarrow (mxNarrow s c o) (mxOperandFault o)).or (tileBandFault s c o)

/-- The matrix engine starts an operation and makes its checks. -/
def beginMx (s : State) (c : Nat) (t : BitVec 3) (o : EngOp) : Option State :=
  match mxStartFault s c o with
  | some e => some (engineFault (putMx c s o) c t o e)
  | none =>
    let sh := opShape o.tcfgA
    match o.insn with
    | .tld _ _ sp _ =>
      (beginOp s c t o (putMx c) (placesOf s c t (spaceOf sp) false (tileRuns o sh (opFmt o)))).map (fun s => checkLoaded s c t)
    | .tst _ _ sp _ => beginOp s c t o (putMx c) (placesOf s c t (spaceOf sp) true (tileRuns o sh (opFmt o)))
    | .tcst _ _ sp _ _ _ _ => beginOp s c t o (putMx c) (placesOf s c t (spaceOf sp) true (tcstRuns o sh (opFmt o)))
    | .gmma _ _ ta tb _ _ => some (enterJoin s c t o ta tb)
    | .mmsk _ _ k _ _ =>
      match readSkip s c t o k with
      | .ok (.ok bs) => beginOp s c t { o with data := some bs } (putMx c) (.ok [])
      | .ok (.error e) => some (engineFault (putMx c s o) c t o e)
      | .ecc => some (engineFault (putMx c s o) c t o .ecc)
      | .refused r => some (engineFault (putMx c s o) c t o (reasonCause r))
      | .wait => none
    | _ => beginOp s c t o (putMx c) (.ok [])

/-- The tiles of an operand's span. -/
def spanTiles (w : Word) (n : BitVec 3) : List Nat := (List.range (opShape w).s).map (n.toNat + ·)

/-- Accumulators and sk registers, numbered after the tiles. -/
def accRes (a : BitVec 2) : Nat := 16 + a.toNat

def skRes (k : BitVec 2) : Nat := 20 + k.toNat

/-- The tiles, accumulators and sk registers that an operation reads (R164, R169–R177). -/
def mxSources (o : EngOp) : List Nat :=
  match o.insn with
  | .tst _ _ _ n => spanTiles o.tcfgA n
  | .tcst _ _ _ _ _ _ n => spanTiles o.tcfgA n
  | .tmv _ _ _ => [(o.t.extractLsb' 0 3).toNat]
  | .mma _ _ _ _ n a => accRes a :: spanTiles o.tcfgA n ++ spanTiles o.tcfgB (o.t.extractLsb' 0 3)
  | .mmsk _ _ k n a => accRes a :: skRes k :: spanTiles o.tcfgA n ++ spanTiles o.tcfgB (o.t.extractLsb' 0 3)
  | .gmma _ _ _ _ n a => accRes a :: spanTiles o.tcfgA n
  | .taccTile _ _ _ _ _ a => [accRes a]
  | .taccVector _ _ _ a => [accRes a]
  | .skset _ _ k => [skRes k]
  | _ => []

/-- Those that it writes. -/
def mxTargets (o : EngOp) : List Nat :=
  match o.insn with
  | .tld _ _ _ n => spanTiles o.tcfgA n
  | .tzero _ _ n => [n.toNat]
  | .tmv _ _ n => [n.toNat]
  | .mma _ _ _ _ _ a => [accRes a]
  | .mmsk _ _ k _ a => [accRes a, skRes k]
  | .gmma _ _ _ _ _ a => [accRes a]
  | .taccTile _ _ _ _ n _ => spanTiles o.tcfgA n
  | .aclr _ _ a => [accRes a]
  | .skset _ _ k => [skRes k]
  | _ => []

/-- Operation `o` waits for the earlier `p` that is in flight: one writes what the other reads or writes (R43, R164), or a memory operand of
each is ordered (R207). DEDUCED (log 113). -/
def mxClash (p o : EngOp) : Bool :=
  (mxTargets p).any (fun k => (mxSources o ++ mxTargets o).contains k) || (mxSources p).any (mxTargets o).contains || conflicts p o

/-! ### The join completes -/

/-- The runs of B in grove memory, checked against the context's windows: what a refusal says, and whether another grove's tables gave it.
DEDUCED (log 30). -/
def joinKeys (s : State) (own ctx : Nat) : List (Nat × Nat) → Except (Reason × Bool) (List Nat)
  | [] => .ok []
  | (a, n) :: r =>
    match grvAddr own a with
    | none => .error (.permission, false)
    | some (g, off) =>
      match groveCheck s g ctx off n false with
      | some e => .error (e, g != own)
      | none => (joinKeys s own ctx r).map (fun l => keysFrom (grvKey g off) n ++ l)

def joinRuns (o : EngOp) (ta tb : Bool) : List (Nat × Nat) :=
  let sh := opShape o.tcfgA
  let d := opFmt o
  rowRuns (ptrAddr o.t) (rowDist o) (imageLen d (gRowE o sh ta tb)) (gRows o sh ta tb) ++ bandRuns o d (gRows o sh ta tb)

/-- The `gmma` with which a cell stands in its grove's join. -/
def joinOp (s : State) (c : Nat) : Option EngOp := (cellAt s c).mxf.filter (·.joined)

/-- B's runs as the first entrant names them. -/
def entrantRuns (o : EngOp) : List (Nat × Nat) :=
  match o.insn with
  | .gmma _ _ ta tb _ _ => joinRuns o ta tb
  | _ => []

/-- How the read of B ends: its bytes, a failed check, or an uncorrectable error, which State.opErrors gives for the first entrant's operation.
DEDUCED (log 30); DESIGN CHOICE (log 86). -/
inductive JoinRead
  | bytes (bs : List Byte)
  | refused (r : Reason) (away : Bool)
  | ecc

def joinRead (s : State) (j : Join) (grove : Nat) : JoinRead :=
  match j.cells.head?.bind (joinOp s) with
  | some o =>
    match joinKeys s grove j.ctx (entrantRuns o) with
    | .error e => .refused e.1 e.2
    | .ok ks => if s.opErrors.contains o.id then .ecc else .bytes (readKeys s.mem ks)
  | none => .bytes []

/-- An entrant's `gmma` faults: what another grove refused is REFUSED where its thread has moved on (R145, R190). -/
def failEntrant (f : State → Nat → BitVec 3 → EngOp → State) (s : State) (c : Nat) : State :=
  match joinOp s c with
  | some o => f s c (BitVec.ofNat 3 o.th) o
  | none => s

/-- B of a `gmma` from the bytes that the join read: its rows, and whether its band scales are allowed. -/
def joinRows (d : Fmt) (e rows : Nat) (bs : List Byte) : List (List FV) × Bool :=
  let n := imageLen d e
  let bands := unpackBits 16 (bandCount rows) (leNat (bs.drop (n * rows)))
  ((List.range rows).map (fun r => imageValues d (bands.getD (r / 64) 0) e (leNat ((bs.drop (r * n)).take n))),
    d != .lbf4 || bands.all bandOk)

/-- The band scales of the B that an entrant receives are those that R108 allows. -/
def entrantBandsOk (o : EngOp) (bs : List Byte) : Bool :=
  match o.insn with
  | .gmma _ _ ta tb _ _ =>
    (joinRows (opFmt o) (gRowE o (opShape o.tcfgA) ta tb) (gRows o (opShape o.tcfgA) ta tb) bs).2
  | _ => true

/-- B reaches an entrant: its product has its operands, unless B's band scales are none that R108 allows. -/
def giveEntrant (bs : List Byte) (s : State) (c : Nat) : State :=
  match joinOp s c with
  | some o =>
    if entrantBandsOk o bs then putMx c s { o with joined := false, data := some bs, keys := some [] }
    else engineFault s c (BitVec.ofNat 3 o.th) { o with joined := false } .format
  | none => s

/-- The 16th cell has entered: B is checked and read once, for every entrant (R175). DEDUCED (log 30). -/
def completeJoin (s : State) (grove ctx : Nat) : Option State :=
  match (groveAt s grove).joins.find? (fun j => j.ctx == ctx && j.cells.length == 16) with
  | none => none
  | some j =>
    match joinRead s j grove with
    | .refused e away =>
      some (j.cells.foldl (failEntrant (fun s c t o =>
        if away then refuseRequest s c t o.words (thr s c t).pc 0 (some o.id) e else engineFault s c t o (reasonCause e))) s)
    | .ecc => some (j.cells.foldl (failEntrant (fun s c t o => engineFault s c t o .ecc)) s)
    | .bytes bs =>
      some (j.cells.foldl (giveEntrant bs) (modGrove s grove (fun g => { g with joins := g.joins.filter (fun k => k.ctx != ctx) })))

def execGmmaJoinComplete (grove ctx : Nat) (s : State) : Host.Outcome State Fault Refusal := event s (completeJoin s grove ctx)

/-! ## Completion -/

/-- A later operation of the thread has the unit's result latch, or has had it (R42). -/
def laterMx (s : State) (c : Nat) (t : BitVec 3) (o : EngOp) : Bool :=
  (mxOps (cellAt s c) t).any (fun p => decide (o.id < p.id)) || rget (thr s c t).y 12#4 != .pending .engine

/-- The operation leaves the engine: the cell's files and the thread's registers change, in one step (R164). -/
def finishMx (s : State) (c : Nat) (t : BitVec 3) (o : EngOp) (y : Word) (f : Cell → Cell) (g : Thread → Thread) : State :=
  let s := modCell s c (fun x => f { x with mxf := x.mxf.filter (·.id != o.id) })
  let s := modThr s c t g
  opDone s c t 12#4 y (laterMx s c t o)

def setTiles (ts : RegFile 3 Tile) (x : Cell) : Cell := { x with t := ts }

/-- A row image in the tile's format from one in memory: its bits, and whether an element saturated (R169). -/
def loadRow (tag f : Fmt) (e : Nat) (bs : List Byte) : Nat × Bool :=
  let w := leNat bs
  if tag = f || tag = .byte then (w, false)
  else
    let xs := unpackBits (fmtWidth tag) e w
    if f = .byte then (packBits 8 (xs.map (fun x => (Config.byteElem tag.code x).toNat)), false)
    else
      let l := xs.map (fun x => convert f .rne false (decodeElem tag x))
      (packBits (fmtWidth f) (l.map (·.bits)), l.any (·.sat))

def completeTld (s : State) (c : Nat) (t : BitVec 3) (o : EngOp) (n : BitVec 3) : Option State :=
  let sh := opShape o.tcfgA
  o.data.map (fun bs =>
    let bss := (splitRuns o.runs bs).map (·.2.2)
    let rows := (bss.take sh.rows).map (loadRow (opFmt o) sh.fmt sh.e)
    let bands := unpackBits 16 (bandCount sh.rows) (leNat (bss.drop sh.rows).flatten)
    if sh.fmt == .lbf4 && !(bands.all bandOk) then engineFault s c t o .format
    else
      let ts := writeSpan sh (cellAt s c).t n (rows.map (·.1)) bands
      finishMx s c t o (BitVec.ofNat 64 bs.length) (setTiles ts) (fun x => addMxst x false (rows.any (·.2)) false))

/-- The images that `tst` stores. -/
def tstImages (sh : Shape) (ts : RegFile 3 Tile) (n : BitVec 3) : List (List Byte) :=
  (List.range sh.rows).map (fun r => leBytes (imageLen sh.fmt sh.e) (rowImage sh ts n r))
    ++ (if sh.fmt = .lbf4 then [(List.range (bandCount sh.rows)).flatMap (fun b => leBytes 2 (rowBand sh ts n (64 * b)))] else [])

/-- `tst` stores the span as it stands, an LBF4 band scale with it whether R108 allows it or not. DESIGN CHOICE (log 125). -/
def completeTst (s : State) (c : Nat) (t : BitVec 3) (o : EngOp) (scr : Bool) (n : BitVec 3) (ks : List Nat) : Option State :=
  let bss := tstImages (opShape o.tcfgA) (cellAt s c).t n
  (storeRuns s c t o scr ks bss).map (fun s => finishMx s c t o (BitVec.ofNat 64 bss.flatten.length) id id)

/-- The band scale of converted rows: the operand's, or the one that fits the rows (R116, R170, R176). -/
def bandFor (o : EngOp) (d : Fmt) (vs : List FV) : Nat :=
  if d != .lbf4 then 0 else if opBand o ≠ 0 then opBand o else bandScale vs false

/-- Rows of values converted to images, with their band scales: row `r` draws from index `i0 + r * step`. DEDUCED (log 83). -/
def convertRows (o : EngOp) (d : Fmt) (sr nan : Bool) (i0 : BitVec 32) (step : Nat) (bands : List Nat) (rows : List (List FV)) : List Quant :=
  (rows.zip (List.range rows.length)).map (fun r =>
    quantise d nan (bands.getD (r.2 / 64) 0)
      (r.1.zip (drawModes sr (opSeed o) (sliceOf (opTag o)) (i0 + BitVec.ofNat 32 (r.2 * step)) r.1.length)))

def satCount (qs : List Quant) : Nat := (qs.map (·.sats)).sum

/-- Sat and amax of a conversion (R82, R170, R176). -/
def convThread (o : EngOp) (amx : Bool) (sats : Nat) (vs : List FV) (x : Thread) : Thread :=
  let x := addMxst x false (decide (0 < sats)) false
  if amx then { x with amax := rset x.amax (o.b.extractLsb' 0 2) (amaxAll (rget x.amax (o.b.extractLsb' 0 2)) vs) } else x

def completeTcst (s : State) (c : Nat) (t : BitVec 3) (o : EngOp) (scr amx sr nan : Bool) (n : BitVec 3) (ks : List Nat) : Option State :=
  let sh := opShape o.tcfgA
  let d := opFmt o
  let cols := transpose sh.e (spanValues sh (cellAt s c).t n)
  let bands := (List.range (bandCount sh.e)).map (fun b => bandFor o d ((cols.drop (64 * b)).take 64).flatten)
  let qs := convertRows o d sr nan (opI0 o) sh.rows bands cols
  let bss := qs.map (fun q => leBytes (imageLen d sh.rows) (quantBits d q))
    ++ (if d = .lbf4 then [bands.flatMap (leBytes 2)] else [])
  (storeRuns s c t o scr ks bss).map (fun s =>
    finishMx s c t o (BitVec.ofNat 64 (satCount qs)) id (convThread o amx (satCount qs) cols.flatten))

/-- The accumulator gains a product, and mxst its flags. DEDUCED (log 32, 97). -/
def finishProduct (s : State) (c : Nat) (t : BitVec 3) (o : EngOp) (cl : MClass) (q : BitVec 2) (as : List (List (Option FV)))
    (bs : List (List FV)) (g : Thread → Thread) : State :=
  let r := productAcc cl (rget (cellAt s c).acc q) (placeI o) (placeJ o) as bs
  let s := perf s c (thr s c t).ctx.toNat 0x0B ((as.map (fun r => (r.filterMap id).length)).sum * bs.length / 64)
  finishMx s c t o 0 (fun x => { x with acc := rset x.acc q r.1 }) (fun x => g (addMxst x r.2.1 false r.2.2))

def classFor (f : Fmt) : MClass := (classOf f).getD .c16

/-- A read as rows of length K. -/
def aRows (sh : Shape) (ts : RegFile 3 Tile) (n : BitVec 3) (ta : Bool) : List (List FV) :=
  if ta then transpose sh.e (spanValues sh ts n) else spanValues sh ts n

def completeMma (s : State) (c : Nat) (t : BitVec 3) (o : EngOp) (ta tb : Bool) (n : BitVec 3) (q : BitVec 2) : State :=
  let a := opShape o.tcfgA
  let b := opShape o.tcfgB
  let m := o.t.extractLsb' 0 3
  let ts := (cellAt s c).t
  finishProduct s c t o (classFor a.fmt) q ((aRows a ts n ta).map (·.map some)) (aRows b ts m tb) id

/-- DEDUCED (log 32). -/
def completeMmsk (s : State) (c : Nat) (t : BitVec 3) (o : EngOp) (sk : BitVec 2) (n : BitVec 3) (q : BitVec 2) : Option State :=
  let a := opShape o.tcfgA
  let b := opShape o.tcfgB
  let ts := (cellAt s c).t
  let off := skipStart s c t sk
  let bs := o.data.getD []
  match skipRead o (fun i => (bs[i - off]?).map (·.toNat)) off with
  | .error e => some (engineFault s c t o e)
  | .ok (keeps, next) =>
    let as := (keeps.zip (spanValues a ts n)).map (fun e => spreadRow e.1 e.2)
    some (finishProduct s c t o (classFor a.fmt) q as (spanValues b ts (o.t.extractLsb' 0 3))
      (fun x => { x with sk := rset x.sk sk (BitVec.ofNat 64 next) }))

def completeGmma (s : State) (c : Nat) (t : BitVec 3) (o : EngOp) (ta tb : Bool) (n : BitVec 3) (q : BitVec 2) (bs : List Byte) : State :=
  let a := opShape o.tcfgA
  let e := gRowE o a ta tb
  let rows := (joinRows (opFmt o) e (gRows o a ta tb) bs).1
  finishProduct s c t o (classFor a.fmt) q ((aRows a (cellAt s c).t n ta).map (·.map some)) (if tb then transpose e rows else rows) id

/-- An accumulator element as `tacc` reads it, times the scale (R176). The integer 0 times a negative scale is −0. DESIGN CHOICE (log 127). -/
def taccValue (o : EngOp) (acc : Acc) (i j : Nat) : FV :=
  let w := accGet acc i j
  mulV (if o.a[0] then fvOfInt (intBits 32 true w) else decodeFp specF32 w) (decodeFp specF32 (o.t.extractLsb' 0 32).toNat)

def completeTaccTile (s : State) (c : Nat) (t : BitVec 3) (o : EngOp) (amx sr : Bool) (n : BitVec 3) (q : BitVec 2) : State :=
  let sh := opShape o.tcfgA
  let acc := rget (cellAt s c).acc q
  let rows := (List.range sh.rows).map (fun r => (List.range sh.e).map (fun k => taccValue o acc (placeI o + r) (placeJ o + k)))
  let band := bandFor o sh.fmt rows.flatten
  let qs := convertRows o sh.fmt sr false (opI0 o + BitVec.ofNat 32 (64 * placeI o + placeJ o)) 64 [band] rows
  let ts := writeSpan sh (cellAt s c).t n (qs.map (quantBits sh.fmt)) [band]
  finishMx s c t o (BitVec.ofNat 64 (satCount qs)) (setTiles ts) (convThread o amx (satCount qs) rows.flatten)

def completeTaccVector (s : State) (c : Nat) (t : BitVec 3) (o : EngOp) (v : BitVec 5) (q : BitVec 2) : State :=
  let row := (o.a.extractLsb' 8 6).toNat
  let vs := (List.range 64).map (taccValue o (rget (cellAt s c).acc q) row)
  let r := quantise .f32 false 0 (vs.map (fun x => (x, RMode.rne)))
  finishMx s c t o (BitVec.ofNat 64 r.sats) (fun x => { x with v := rset x.v v (BitVec.ofNat 2048 (packBits 32 r.codes)) })
    (convThread o false r.sats [])

/-- An operation in flight completes; none while it waits. -/
def completeOp (s : State) (c : Nat) (o : EngOp) : Option State :=
  let t := BitVec.ofNat 3 o.th
  match (if o.req.isSome then none else o.keys) with
  | none => none
  | some ks =>
    match o.insn with
    | .tld _ _ _ n => completeTld s c t o n
    | .tst _ _ sp n => completeTst s c t o (sp == .scr) n ks
    | .tcst _ _ sp amx sr nan n => completeTcst s c t o (sp == .scr) amx sr nan n ks
    | .tzero _ _ n => some (finishMx s c t o 0 (fun x => { x with t := rset x.t n 0 }) id)
    | .tmv _ _ n => some (finishMx s c t o 0 (fun x => { x with t := rset x.t n (rget x.t (o.t.extractLsb' 0 3)) }) id)
    | .mma _ _ ta tb n q => some (completeMma s c t o ta tb n q)
    | .mmsk _ _ sk n q => completeMmsk s c t o sk n q
    | .gmma _ _ ta tb n q => o.data.map (completeGmma s c t o ta tb n q)
    | .taccTile _ _ amx sr n q => some (completeTaccTile s c t o amx sr n q)
    | .taccVector _ _ v q => some (completeTaccVector s c t o v q)
    | .aclr _ _ q => some (finishMx s c t o 0 (fun x => { x with acc := rset x.acc q 0 }) id)
    | .skset _ _ k =>
      some (finishMx s c t o (rget (thr s c t).sk k) id (fun x => { x with sk := rset x.sk k ((o.t.extractLsb' 0 17).setWidth 64) }))
    | _ => none

/-- The operation in flight completes; none while it waits. -/
def completeMx (s : State) (c : Nat) : Option State := (cellAt s c).mxf.bind (completeOp s c)

/-- The operation reads and writes registers only. -/
def registersOnly (o : EngOp) : Bool := !memReads o.insn && !memWrites o.insn

/-- The head of the queue starts, at most one per cycle, once no earlier `vx` operation stands in its way (R164, R165). One operation is in
flight (R97); an operation on registers alone that neither reads nor writes what that one does starts and completes beside it, once its cycles have
passed. DEDUCED (log 113). -/
def startMx (s : State) (c : Nat) : Option State :=
  let x := cellAt s c
  match x.mxq with
  | o :: r =>
    let t := BitVec.ofNat 3 o.th
    let s1 := modCell s c (fun x => freedQueue 12 1 s.cyc.toNat { x with mxq := r, mxPop := s.cyc.toNat + 1 })
    if decide (s.cyc.toNat ≤ o.pushed) || decide (s.cyc.toNat < x.mxPop) || crossWaits (x.vxf.toList ++ x.vxq) o then none
    else
      match x.mxf with
      | none => beginMx s1 c t o
      | some p =>
        if mxClash p o || !registersOnly o || decide (s.cyc.toNat < o.pushed + Config.engineDelay o.id) then none
        else
          match mxStartFault s c o with
          | some e => some (engineFault s c t o e)
          | none => completeOp s1 c { o with start := s.cyc.toNat, keys := some [] }
  | [] => none

def execMxOpStart (cell : Nat) (s : State) : Host.Outcome State Fault Refusal := event s (startMx s cell)

def execMxOpComplete (cell : Nat) (s : State) : Host.Outcome State Fault Refusal := event s (completeMx s cell)

end Sys2Proof.Machine
end

