-- ==== Sys2Proof/Machine/Finish.lean ====
section
/-! DEFINITION. How what a thread waits for comes to an end: unit completions, timeouts, wired barrier sets, the budget, and the print of
a take (01_machine R18–R23, 02_notation R42, 14_counters R307–R313, R320, 15_traps R337). -/

namespace Sys2Proof.Machine

/-! ## Unit operations (R42) -/

def setY (s : State) (c : Nat) (t : BitVec 3) (u : BitVec 4) (v : Word) : State :=
  modThr s c t (fun x => { x with y := rset x.y u (.ready v) })

/-- A header check of the thread's `rawait` has not returned. DESIGN CHOICE (log 24). -/
def headerWait (s : State) (c : Nat) (t : BitVec 3) : Bool :=
  s.reqs.any (fun r => r.cell == c && r.th == t.toNat && !r.discarded && (match r.kind with | .header _ _ _ .wait => true | _ => false))

/-- A nonzero timeout has passed since `start`. -/
def timedOut (s : State) (start : Nat) (timeout : BitVec 32) : Bool := timeout != 0 && decide (timeout.toNat ≤ s.cyc.toNat - start)

/-- The operation of unit `u` completes: its value is ready, or what it waits for has come; none while it waits. An `mwait` returns with every
reason present (R273). DESIGN CHOICE (log 8). -/
def unitDone (s : State) (c : Nat) (t : BitVec 3) (u : BitVec 4) : Option State :=
  match rget (thr s c t).y u with
  | .busy v => some (setY s c t u v)
  | .pending (.woken b gen) => some (setY s c t u (wokenY (barAt s c b.toNat) gen))
  | .pending .engine =>
    match (cellAt s c).cpq with
    | o :: _ => if u = 13#4 && o.th == t.toNat then serveCp s c else none
    | [] => none
  | .pending (.rawait hdr a i seen) =>
    let h := headerAt s hdr
    if seen && !headerWait s c t && reelOk h && slotFilled h i then some (setY s c t u (slotAddr a h i)) else none
  | .pending (.mwait start lim) =>
    if mwaitReasons s c t false = 0 then none else some (mwaitReturn s c t (mwaitReasons s c t (timedOut s start lim)))
  | _ => none

def execUnitOpComplete (cell th : Nat) (u : BitVec 4) (s : State) : Host.Outcome State Fault Refusal :=
  event s (unitDone s cell (BitVec.ofNat 3 th) u)

/-! ## Timeouts -/

/-- BWAIT_TIMEOUT (R307). -/
def bwaitExpire (s : State) (c : Nat) (t : BitVec 3) : Option State :=
  match rget (thr s c t).y 14#4 with
  | .pending (.bwait b _ start lim) => if timedOut s start lim then some (setY s c t 14#4 (bwaitY (barAt s c b.toNat) false true)) else none
  | _ => none

def execBwaitTimeout (cell th : Nat) (s : State) : Host.Outcome State Fault Refusal := event s (bwaitExpire s cell (BitVec.ofNat 3 th))

/-- MWAIT_TIMEOUT (R273). -/
def mwaitExpire (s : State) (c : Nat) (t : BitVec 3) : Option State :=
  match rget (thr s c t).y 15#4 with
  | .pending (.mwait start lim) => if timedOut s start lim then some (mwaitReturn s c t (mwaitReasons s c t true)) else none
  | _ => none

def execMwaitTimeout (cell th : Nat) (s : State) : Host.Outcome State Fault Refusal := event s (mwaitExpire s cell (BitVec.ofNat 3 th))

/-! ## Wired barrier sets (R310–R313) -/

def waitsOn (x : Thread) (set : BitVec 2) : Bool :=
  match rget x.y 14#4 with
  | .pending (.hwbar n _ _) => n == set
  | _ => false

/-- A completion of the set for the context waits to be delivered, and the cell is one of those it goes to (R312). -/
def delivering (s : State) (c ctx : Nat) (set : BitVec 2) : Bool :=
  (rget (dieAt s (dieOf c)).wiredAt set).any (fun e => e.ctx == ctx && e.cells.contains c)

/-- A cell's flag is raised while one of its threads waits on the set, until the set completes (R312, R313). DESIGN CHOICE (log 72). -/
def flagRaised (s : State) (c : Nat) (set : BitVec 2) : Bool :=
  (cellAt s c).threads.toList.any (fun x => waitsOn x set && !delivering s c x.ctx.toNat set)

/-- The cells of die `d` that take part in a set. -/
def participants (d : Nat) (w : Word) : List Nat := ((List.range 256).map (d * 256 + ·)).filter (participant w)

/-- Every participant's flag is raised in this cycle. DESIGN CHOICE (log 72). -/
def wiredComplete (s : State) (d : Nat) (set : BitVec 2) : Bool :=
  let w := rget (dieAt s d).wired set
  w[63] && !(participants d w).isEmpty && (participants d w).all (fun c => flagRaised s c set)

/-- The evaluation of a set at the end of a cycle: it completes, every flag is cleared, and gen grows (R312). DESIGN CHOICE (log 72). -/
def wiredEvaluate (s : State) (d : Nat) (set : BitVec 2) : State :=
  if wiredComplete s d set then
    modDie s d (fun x =>
      let w := rget x.wired set
      { x with
        wired := rset x.wired set (w.extractLsb' 16 48 ++ (w.extractLsb' 0 16 + 1)),
        wiredAt := rset x.wiredAt set (rget x.wiredAt set ++ [⟨s.cyc.toNat, participants d w, w.extractLsb' 0 16 + 1, (w.extractLsb' 48 12).toNat⟩]) })
  else s

/-- L: cycles from the completion of a set to its delivery (R312). -/
def wiredDelay (cs : List Nat) : Nat := if cs.all (fun c => groveOf c == groveOf (cs.headD 0)) then 4 else 12

/-- WIRED_COMPLETION_DELIVERY: every thread of the context that waits on the set at a cell that took part returns gen as the completion left it (R312, R313).
DESIGN CHOICE (log 72). -/
def wiredDeliver (s : State) (d : Nat) (set : BitVec 2) : Option State :=
  ((rget (dieAt s d).wiredAt set).find? (fun e => decide (e.at_ + wiredDelay e.cells ≤ s.cyc.toNat))).map (fun (e : Delivery) =>
    let s := modDie s d (fun x => { x with wiredAt := rset x.wiredAt set ((rget x.wiredAt set).erase e) })
    e.cells.foldl (fun s c => modCell s c (fun x => { x with
      threads := x.threads.map (fun th => if waitsOn th set && th.ctx.toNat == e.ctx then { th with y := rset th.y 14#4 (.ready (e.gen.setWidth 64)) }
        else th) })) s)

def execWiredCompletionDelivery (die set : Nat) (s : State) : Host.Outcome State Fault Refusal :=
  event s (wiredDeliver s die (BitVec.ofNat 2 set))

/-- HWBAR_TIMEOUT: a completion in the same cycle or before wins (R311, R312). -/
def hwbarExpire (s : State) (c : Nat) (t : BitVec 3) : Option State :=
  match rget (thr s c t).y 14#4 with
  | .pending (.hwbar set start lim) =>
    if timedOut s start lim && !delivering s c (thr s c t).ctx.toNat set && !wiredComplete s (dieOf c) set then some (faultWord s c t .timeout) else none
  | _ => none

def execHwbarTimeout (cell th : Nat) (s : State) : Host.Outcome State Fault Refusal := event s (hwbarExpire s cell (BitVec.ofNat 3 th))

/-! ## The budget (R320) -/

/-- The cycles of the take count (R23). -/
def budgeted (x : Thread) : Bool := x.phase == .revocable || x.phase == .irrevocable || x.phase == .settling

/-- The cell's flag on the set that the thread waits for still counts in the cycle in which the budget ends the wait (R311, R312). -/
def countFlag (s : State) (c : Nat) (t : BitVec 3) : State :=
  match rget (thr s c t).y 14#4 with
  | .pending (.hwbar set _ _) => wiredEvaluate s (dieOf c) set
  | _ => s

/-- BUDGET: unless the take enters Printing in this cycle (R320). -/
def budgetEnds (s : State) (c : Nat) (t : BitVec 3) : Option State :=
  let x := thr s c t
  if budgeted x && x.bdgt == 0 && !(x.phase == .settling && x.orc == 0) then some (faultWord (countFlag s c t) c t .budget)
  else none

def execBudget (cell th : Nat) (s : State) : Host.Outcome State Fault Refusal := event s (budgetEnds s cell (BitVec.ofNat 3 th))

/-! ## Print (R20, R337) -/

/-- Performs held effects as far as nothing waits: the effects that are no sends, then the slots of consumed messages, then the sends.
The state, and whether something happened (R20, R160). DEDUCED (log 22). -/
def performHeld (s : State) (c : Nat) (t : BitVec 3) : State × Bool :=
  let es := (thr s c t).effects
  let (s, rest, moved) := performAll c t (es.filter (fun e => !isSend e)) s
  let waits : Bool → Thread → Option Nat := fun moved x => if moved then none else x.waits
  if !rest.isEmpty then (modThr s c t (fun x => { x with effects := rest ++ es.filter isSend, waits := waits moved x }), moved)
  else
    let used := (thr s c t).consumed
    let s := modThr (consumeAll s c used) c t (fun x => { x with consumed := [] })
    let (s, rest, moved') := performAll c t (es.filter isSend) s
    (modThr s c t (fun x => { x with effects := rest, waits := waits (moved || moved') x }), moved || !used.isEmpty || moved')

/-- The triggering message's lane still holds a send end whose close must wait for a credit (R250, R252). DEDUCED (log 15). -/
def laneWaits (s : State) (x : Thread) : Bool :=
  match x.msg.lane with
  | some (.installed h) =>
    hKind h == 1 && (match findSend (cellAt s (hCell h)) (hEid h) with
      | some e => !e.orphan && credits e == 0
      | none => false)
  | _ => false

/-- A printing take: it performs what it holds, and is Printed once nothing is left (Table 1.3).
DEDUCED (log 15); DESIGN CHOICE (log 16). -/
def printTake (s : State) (c : Nat) (t : BitVec 3) : Option State :=
  let (s', moved) := performHeld s c t
  if (thr s' c t).effects.isEmpty && !laneWaits s' (thr s' c t) then some (finishPrint s' c t)
  else if moved then some s' else none

/-- An irrevocable take performs what it holds: after `pin`, or an effect whose grant has come (R22, R337). DEDUCED (log 13, 14). -/
def performPinned (s : State) (c : Nat) (t : BitVec 3) : Option State :=
  let x := thr s c t
  if !x.pinning && (x.orc != 0 || x.effects.all isHeldAred) then none
  else
    let (s', moved) := performHeld s c t
    if (thr s' c t).effects.isEmpty then some (modThr s' c t (fun x => { x with pinning := false, undo := [] }))
    else if moved then some s' else none

/-- The place of a copy request that has no entry yet: its `cpush` takes one, and kicks it, after the take has become irrevocable (R218). -/
def waitsEntry (e : Effect) : Bool := match e with | .kick _ none => true | _ => false

/-- PRINT: what the take's state lets happen next to its held effects. DEDUCED (log 13); DESIGN CHOICE (log 16). -/
def printStep (s : State) (c : Nat) (t : BitVec 3) : Option State :=
  let x := thr s c t
  match x.phase with
  | .settling => if x.orc = 0 then printTake (modThr s c t (fun x => { x with phase := .printing })) c t |>.or
      (some (modThr s c t (fun x => { x with phase := .printing }))) else none
  | .printing => printTake s c t
  | .revocable =>
    if x.pinning && x.orc == 0 && enginesIdle (cellAt s c) t then
      let s' := modThr s c t (fun x => { x with phase := .irrevocable, effects := x.effects.filter (fun e => !waitsEntry e) })
      (performPinned s' c t).or (some s')
    else none
  | .irrevocable => performPinned s c t
  | .reporting =>
    let s := modThr s c t (fun x => { x with effects := x.effects.filter (fun e => !blockedForGood s c t e) })
    let (s', moved) := performHeld s c t
    if moved || (thr s c t).effects != x.effects then some s' else none
  | .idle => none

def execPrint (cell th : Nat) (s : State) : Host.Outcome State Fault Refusal := event s (printStep s cell (BitVec.ofNat 3 th))

end Sys2Proof.Machine
end

