-- ==== Sys2Proof/Machine/Remote.lean ====
section
/-! DEFINITION. Remote requests and posted accesses: their arrival at a home, the walks they wait for, their answers and
acknowledgements, the proxy lanes, and what the links can do to them (09_memories R187–R200, 10_consistency R209, 16_system R359–R364). -/

namespace Sys2Proof.Machine

/-! ## Translating a request (R185–R188) -/

/-- What a peer refuses (R359, R360). DESIGN CHOICE (log 34). -/
def peerRefuses (s : State) (key n : Nat) (w : Bool) : Option Reason :=
  if !isPeerKey key then none
  else if !s.domain[63] then some .unreachable
  else if Config.peerAllows ((key - 2 ^ 64) / 2 ^ 56) (key % 2 ^ 56) n w s.fresh then none
  else some .permission

/-- What a home refuses on its own account: also bytes beyond the 384 GiB of HBM (R1, R359, R360, R371, R387). `up` are the dies whose stacks
were up when the access started (R388). DESIGN CHOICE (log 50). -/
def homeDenies (s : State) (up : BitVec 4) (ctx key n : Nat) (w : Bool) : Option Reason :=
  if isProtected s ctx && (isSystemKey key || (isHbmKey key && (sealedRange s ctx (key - 2 ^ 60) n).isNone)) then some .permission
  else if isHbmKey key && (pastHbm (key - 2 ^ 60) n || hbmDown up (key - 2 ^ 60) n) then some .unreachable
  else peerRefuses s key n w

/-- The home keys of one run within a 64 KiB unit. -/
def runKeys (s : State) (up : BitVec 4) (g ctx : Nat) (leaves : List TlbEntry) (w : Bool) (va n : Nat) : Except Reason (List Nat) :=
  match leafFor s g ctx leaves va with
  | none => .error .notMapped
  | some e =>
    match (if w then leafWrite e.pte else none) with
    | some r => .error r
    | none =>
      let k := leafKey e.level e.pte va
      match homeDenies s up ctx k n w with
      | some r => .error r
      | none => .ok (keysFrom k n)

def runsKeys (s : State) (up : BitVec 4) (g ctx : Nat) (leaves : List TlbEntry) (w : Bool) : List (Nat × Nat) → Except Reason (List Nat)
  | [] => .ok []
  | (va, n) :: r => do
    let a ← runKeys s up g ctx leaves w va n
    let b ← runsKeys s up g ctx leaves w r
    return a ++ b

/-- The home keys of a target, checked for the requester's context (R179, R184, R188, Table 9.7). -/
def targetKeys (s : State) (r : Req) (w : Bool) (t : Target) (n : Nat) : Except Reason (List Nat) :=
  match t with
  | .loc c o =>
    match peerCheck s c r.ctx o n w with
    | some e => .error e
    | none => .ok (keysFrom (locKey c o) n)
  | .grv g o =>
    match groveCheck s g r.ctx o n w with
    | some e => .error e
    | none => .ok (keysFrom (grvKey g o) n)
  | .glb va => runsKeys s r.up (groveOf r.cell) r.ctx r.leaves w (runsOf va n)

/-- Hits become the most recently used ways. -/
def touchRuns (s : State) (g ctx : Nat) (rs : List (Nat × Nat)) : State :=
  rs.foldl (fun s e => match tlbHit s g ctx e.1 with | some h => tlbTouch s g h | none => s) s

/-- The request waits for a walk of this page in this grove. -/
def waitsWalk (s : State) (g ctx va : Nat) (r : Req) : Bool :=
  wantsWalk r && groveOf r.cell == g && r.ctx == ctx &&
    (match missing s r with
      | some a => a / 2 ^ 16 == va / 2 ^ 16
      | none => false)

/-- A walk ends: its leaf is installed and answers every request that waits for it, or they fail (R187, R188). DESIGN CHOICE (log 74). -/
def walkDone (s : State) (g ctx va : Nat) : Option State :=
  let waiting := s.reqs.filter (waitsWalk s g ctx va)
  if !((missQueue s g).take 16).contains (ctx, va / 2 ^ 16) then none
  else match waiting with
  | [] => none
  | r0 :: _ =>
    let ids := waiting.map (·.id)
    let s := waiting.foldl (fun s r => perf s r.cell r.ctx 0x0F 1) s
    match walk s (dieOf r0.cell) ctx va with
    | none => some { s with reqs := s.reqs.map (fun r => if ids.contains r.id then { r with stage := .answered (.refused .notMapped) } else r) }
    | some (lvl, e) =>
      let leaf : TlbEntry := ⟨ctx, lvl, va / 2 ^ pageBits lvl, e⟩
      let s := tlbInstall s g leaf
      some { s with reqs := s.reqs.map (fun r => if ids.contains r.id then { r with leaves := leaf :: r.leaves } else r) }

/-- DESIGN CHOICE (log 74). -/
def execTlbWalkComplete (grove ctx : Nat) (va : Word) (s : State) : Host.Outcome State Fault Refusal :=
  event s (walkDone s grove ctx va.toNat)

/-! ## Arrival (R190–R199) -/

/-- The host's protocol carries the operation (R198, R364). DESIGN CHOICE (log 84). -/
def hostCarries (size : Nat) : Rmw → Bool
  | .amo .add _ => Config.hostAtomics && (size == 4 || size == 8)
  | .amo _ _ => false
  | .swp _ => Config.hostAtomics && (size == 4 || size == 8)
  | .cas _ _ => Config.hostAtomics && (size == 4 || size == 8 || size == 16)

/-- The reduction window that holds an address (R199, Table 9.9). DEDUCED (log 27). -/
def windowOf (s : State) (va : Nat) : Option Word :=
  s.windows.toList.find? (fun w => w[63] && decide ((w.extractLsb' 21 19).toNat * 2 ^ 21 ≤ va)
    && decide (va < ((w.extractLsb' 21 19).toNat + (w.extractLsb' 40 8).toNat + 1) * 2 ^ 21))

/-- An `ared`'s keys stand at its window's home. DEDUCED (log 27). -/
def windowKeys (s : State) (w : Word) (ks : List Nat) : List Nat :=
  let home := w.extractLsb' 48 9
  ks.map (fun k => if home == s.domain.extractLsb' 48 9 then hbmKey (k % 2 ^ 48) else peerKey home.toNat (k % 2 ^ 48))

/-- A held effect of the word numbered `insn` gets its keys, and the view of an atomic. -/
def fillEffect (insn : Nat) (ks : List Nat) (v : Option (BitVec 128)) (e : Effect) : Effect :=
  match e with
  | .store ps n none none sr i => if i = insn then .store ps n none (some ks) sr i else e
  | .rmw t n what none ared none i => if i = insn then .rmw t n what (some ks) ared (if ared then none else v) i else e
  | .rbr src dst n cls t none i => if i = insn then .rbr src dst n cls t (some ks) i else e
  | e => e

def fillEffects (s : State) (r : Req) (insn : Nat) (ks : List Nat) (v : Option (BitVec 128)) : State :=
  modThr s r.cell (BitVec.ofNat 3 r.th) (fun x => { x with
    effects := x.effects.map (fillEffect insn ks v), grants := x.grants ++ [(insn, r.seq)], pages := x.pages ++ globalRuns s r })

/-- DEDUCED (log 27). -/
def isAredAt (s : State) (r : Req) (insn : Nat) : Bool :=
  (thr s r.cell (BitVec.ofNat 3 r.th)).effects.any (fun e => match e with
    | .rmw _ _ _ none true _ i => i == insn
    | _ => false)

def answer (s : State) (id : Nat) (a : Answer) : State := modReq s id (fun r => { r with stage := .answered a })

def answerData (s : State) (id : Nat) (v : BitVec 128) : State := answer s id (.data v)

/-- A home reports an uncorrectable error on the request's read (R188, R190). DESIGN CHOICE (log 86). -/
def readError (s : State) (r : Req) : Bool := s.reqErrors.contains r.id

def answerEcc (s : State) (id : Nat) : State := modReq s id (fun r => { r with stage := .ecc })

/-- The value that the requester's view has of granted bytes; waits, refusals and errors of the home. -/
def viewAt (s : State) (r : Req) (neff : Nat) (t : Target) (ks : List Nat) (k : Nat → State) : Option State :=
  let es := (thr s r.cell (BitVec.ofNat 3 r.th)).effects.take neff
  if viewUnknown es (identOf t) ks.length then none
  else
    match (if readError s r then HomeAns.ecc else readParts s r.ctx ks) with
    | .ok bs => some (k (leNat (overlay es (identOf t) (some ks) (earlyBytes s r.cell (BitVec.ofNat 3 r.th) false r.id ks bs))))
    | .refused e => some (answer s r.id (.refused e))
    | .ecc => some (answerEcc s r.id)
    | .wait => none

/-- P1: an earlier posted access of the thread to one of the lines is unacknowledged (R209). -/
def postedBefore (s : State) (r : Req) (ks : List Nat) : Bool :=
  s.reqs.any (fun q => q.id < r.id && q.cell == r.cell && q.th == r.th && (match q.kind with
    | .posted l _ _ => l.any (fun a => ks.any (fun b => a / 64 == b / 64))
    | _ => false))

/-- A sweep has halted on a block that the bytes touch (R379). -/
def haltedKeys (s : State) (ctx : Nat) (ks : List Nat) : Bool :=
  (partsOf (ks.map (fun k => (k, 0)))).any (fun p => haltedAt s ctx p.1 p.2.length)

/-- The check of a held effect (R190). An `ared` is checked at its window's home too (R360, R371). -/
def arriveCheck (s : State) (r : Req) (t : Target) (n : Nat) (rmw : Option Rmw) (insn neff : Nat) : Option State :=
  match rmw, t with
  | some _, .glb va =>
    if isAredAt s r insn then
      match windowOf s va, targetKeys s r true t n with
      | none, _ => some (answer s r.id (.refused .outsideWindows))
      | some _, .error e => some (answer s r.id (.refused e))
      | some w, .ok ks =>
        let ks := windowKeys s w ks
        match homeDenies s r.up r.ctx (ks.headD 0) n true with
        | some e => some (answer s r.id (.refused e))
        | none => if haltedKeys s r.ctx ks then some (answerEcc s r.id) else some (answerData (fillEffects s r insn ks none) r.id 0)
    else arriveRmw s r t n rmw insn neff
  | some _, _ => arriveRmw s r t n rmw insn neff
  | none, _ =>
    match targetKeys s r true t n with
    | .error e => some (answer s r.id (.refused e))
    | .ok ks => if haltedKeys s r.ctx ks then some (answerEcc s r.id) else some (answerData (fillEffects s r insn ks none) r.id 0)
where
  /-- An atomic's grant carries the value that its take's view has (R196). -/
  arriveRmw (s : State) (r : Req) (t : Target) (n : Nat) (rmw : Option Rmw) (insn neff : Nat) : Option State :=
    match rmw, targetKeys s r true t n with
    | _, .error e => some (answer s r.id (.refused e))
    | none, .ok _ => none
    | some what, .ok ks =>
      if ks.any isHostKey && !hostCarries n what then some (answer s r.id (.refused .unsupported))
      else
        viewAt s r neff t ks (fun old =>
          let new := (rmwNew what n old).getD old
          answerData (fillEffects s r insn ks (some (BitVec.ofNat 128 new))) r.id (BitVec.ofNat 128 old))

/-- An irrevocable take's atomic is performed at its home; one to host memory goes to a proxy lane (R198). A MAC mismatch or a halted sweep at
its block is an uncorrectable error of the take (R371, R374, R379). DEDUCED (log 23). -/
def arriveAtomic (s : State) (r : Req) (t : Target) (n : Nat) (what : Rmw) : Option State :=
  match targetKeys s r true t n with
  | .error e => some (answer s r.id (.refused e))
  | .ok ks =>
    if ks.any isHostKey then
      if hostCarries n what then none else some (answer s r.id (.refused .unsupported))
    else if postedBefore s r ks then none
    else if readError s r then some (answerEcc s r.id)
    else
      match homeRead s r.ctx (ks.headD 0) n with
      | .ecc => some (answerEcc s r.id)
      | .refused e => some (answer s r.id (.refused e))
      | .wait => none
      | .ok _ =>
        (rmwHere s r.ctx ks n what).map (fun e =>
          modReq (answerData e.2 r.id (BitVec.ofNat 128 e.1)) r.id (fun r =>
            { r with fires := if (rmwNew what n e.1).isSome then ks.filter isSystemKey else [] }))

/-- A header or granule access: an `rl` word reads the header as it stands in memory (R266–R272). DESIGN CHOICE (log 24). -/
def arriveHeader (s : State) (r : Req) (t : Target) (n : Nat) (w : Bool) (use : HeaderUse) : Option State :=
  match targetKeys s r w t n with
  | .error e => some (answer s r.id (.refused e))
  | .ok ks =>
    let h := BitVec.ofNat 128 (leNat (readKeys s.mem ks))
    match use with
    | .access => some (answerData s r.id 0)
    | .block insn => some (answerData (fillEffects s r insn ks none) r.id 0)
    | _ => if readError s r then some (answerEcc s r.id) else
    match use with
    | .access => none
    | .block _ => none
    | .wait => some (if reelOk h then answerData s r.id 0 else answer s r.id .format)
    | .release i => some (if reelOk h && relOk h i then answerData s r.id 0 else answer s r.id .format)
    | .peek => some (if reelOk h then answerData s r.id (h.extractLsb' 0 64 |>.setWidth 128) else answer s r.id .format)
    | .watch => some (answerData (armWatch s r.cell r.th r.ctx (ks.headD 0)) r.id 0)

/-- The keys of every run of an engine operation. DESIGN CHOICE (log 35). -/
def opKeys (s : State) (r : Req) (w : Bool) : List (Target × Nat) → Except Reason (List Nat)
  | [] => .ok []
  | (t, n) :: l => do
    let a ← targetKeys s r w t n
    let b ← opKeys s r w l
    return a ++ b

/-- The memory operand of an engine operation is checked at its homes, and what it loads is read there (R144, R164, R190).
DESIGN CHOICE (log 35). -/
def arriveEngine (s : State) (r : Req) (id : Nat) : Option State :=
  match engineOp s r.cell id with
  | none => some (answerData s r.id 0)
  | some (vx, o) =>
    match opKeys s r (memWrites o.insn) o.runs with
    | .error e => some (answer s r.id (.refused e))
    | .ok ks =>
      if (memReads o.insn && readError s r) || (memWrites o.insn && haltedKeys s r.ctx ks) then some (answerEcc s r.id) else
      match readNow s r.cell (BitVec.ofNat 3 r.th) o ks with
      | .ok data =>
        let o := { o with keys := some ks, data := data }
        let s := modThr s r.cell (BitVec.ofNat 3 r.th) (fun x => { x with pages := x.pages ++ globalRuns s r })
        some (answerData (if vx then putVx r.cell s o else putMx r.cell s o) r.id 0)
      | .refused e => some (answer s r.id (.refused e))
      | .ecc => some (answerEcc s r.id)
      | .wait => none

/-- The home of a block read refuses it at print time (R200). -/
def blockDenied (s : State) (r : Req) (src : Target) (ks : List Nat) : Option Reason :=
  match src with
  | .glb _ => (partsOf (ks.map (fun k => (k, 0)))).findSome? (fun p => homeDenies s r.up r.ctx p.1 p.2.length false)
  | t => match targetKeys s r false t ks.length with
    | .error e => some e
    | .ok _ => none

/-- A posted access that the thread issued before the request is not acknowledged: a release at system scope waits for it (P5, R208, R209). -/
def postedEarlier (s : State) (r : Req) : Bool :=
  s.reqs.any (fun q => q.id < r.id && q.cell == r.cell && q.th == r.th && (match q.kind with | .posted _ _ _ => true | _ => false))

/-- A block read issued at print: its bytes land, and its message, a release at system scope, is placed once the thread's earlier posted accesses
are acknowledged and the completion queue has room (R200, R208). The status of a failed
one quotes the cause that R190 gives the home's reason at a word, NOTMAPPED or PERM, or ECC. DEDUCED (log 112). -/
def arriveBlock (s : State) (r : Req) (src : Target) (ks : List Nat) (dst : Nat) (cls : BitVec 4) (t : Word) : Option State :=
  if postedEarlier s r || !cqTurn s r.cell r.ctx (.block r.id) then none
  else
    let n := ks.length
    let done : State → Nat → State := fun s st =>
      let (m, s) := raised s r.cell r.ctx cls.toNat 0 [BitVec.ofNat 64 dst, t, BitVec.ofNat 64 n, BitVec.ofNat 64 st] r.launch
      dropReq (cqPlace s r.cell r.ctx (.block r.id) m) r.id
    match blockDenied s r src ks with
    | some e => some (done s (0x100 + causeCode (reasonCause e)))
    | none =>
      match (if readError s r then .ecc else readParts s r.ctx ks) with
      | .wait => none
      | .refused e => some (done s (0x100 + causeCode (reasonCause e)))
      | .ecc => some (done s (0x100 + causeCode .ecc))
      | .ok bs =>
        let s := if isProtected s r.ctx then
            match (groveOfKey (ks.headD 0)).filter (· != groveOf r.cell) with
            | some g => countRecords s g (partsOf (ks.zip bs)) (fun _ => true)
            | none => s
          else s
        some (done (applyWrite s (keysFrom (locKey r.cell dst) n) bs) 0)

/-- The parts of a posted write that their home still allows (R190, R360, R365). -/
def allowedParts (s : State) (ks : List Nat) (bs : List Byte) : List (Nat × Byte) :=
  ((partsOf (ks.zip bs)).filter (fun p => (peerRefuses s p.1 p.2.length true).isNone)).flatMap (fun p => (keysFrom p.1 p.2.length).zip p.2)

/-- The home is done with a posted access, which has written these keys. -/
def applied (s : State) (id : Nat) (ks : List Nat) : State :=
  modReq s id (fun r => { r with stage := .applied, fires := ks.filter isSystemKey })

/-- A posted write or atomic is applied at its home (R209); one to host memory that is an atomic goes to a proxy lane. What a peer no longer
allows is discarded, part by part (R190, R365). -/
def arrivePosted (s : State) (r : Req) (ks : List Nat) (bs : List Byte) (rmw : Option (Nat × Rmw)) : Option State :=
  match rmw with
  | none =>
    let l := allowedParts s ks bs
    some (applied { s with mem := writeKeys s.mem (l.map (·.1)) (l.map (·.2)) } r.id (l.map (·.1)))
  | some (n, what) =>
    if (peerRefuses s (ks.headD 0) n true).isSome then some (applied s r.id [])
    else if ks.any isHostKey then (if hostCarries n what then none else some (applied s r.id []))
    else (rmwHere s r.ctx ks n what).map (fun e => applied e.2 r.id (if (rmwNew what n e.1).isSome then ks else []))

/-- Some byte of one access is a byte of the other. -/
def overlaps (l l' : List Nat) : Bool := l.any (fun a => l'.contains a)

/-- The keys of bytes at a target, as its translations stand. -/
def prospectKeys (s : State) (r : Req) (t : Target) (n : Nat) : List Nat :=
  match t with
  | .glb va => (runsOf va n).flatMap (fun e =>
      match (leafFor s (groveOf r.cell) r.ctx r.leaves e.1).map (fun f => (f.level, f.pte)) |>.or (walk s (dieOf r.cell) r.ctx e.1) with
      | some (lvl, p) => keysFrom (leafKey lvl p e.1) e.2
      | none => [])
  | t => (directKeys t n).getD []

/-- The bytes that a request of the thread reads, or has still to change, at homes. -/
def requestKeys (s : State) (r : Req) : List Nat :=
  match r.kind with
  | .load t n _ _ _ => prospectKeys s r t n
  | .check t n (some _) _ _ => prospectKeys s r t n
  | .atomic t n _ => prospectKeys s r t n
  | .header t n _ _ => prospectKeys s r t n
  | .engine id =>
    match engineOp s r.cell id with
    | some (_, o) => o.runs.flatMap (fun e => prospectKeys s r e.1 e.2)
    | none => []
  | .posted ks _ (some _) => ks
  | _ => []

/-- An earlier request of the thread goes before a load: a load or atomic on a byte of it that has not been performed, or an `lda` whose scope
holds the location (P1, P4, R207, R208). DEDUCED (log 111). -/
def goesBefore (s : State) (r q : Req) (ks : List Nat) : Bool :=
  q.cell == r.cell && q.th == r.th && (q.stage == .sent || q.stage == .lane || q.stage == .expired) &&
    (overlaps ks (requestKeys s q) || (match q.kind with
      | .load _ _ _ (some sc) _ => ks.any (fun k => keyRank r.cell k ≤ scopeRank sc)
      | _ => false))

/-- No earlier request of the thread that goes before this one is still on its way: before a load those that P1 and P4 order, before any other
request all but posted accesses and block reads. DEDUCED (log 111). -/
def firstInLine (s : State) (r : Req) : Bool :=
  (s.reqs.takeWhile (fun q => q.id != r.id)).all (fun q =>
    match r.kind with
    | .load t n _ _ _ => !goesBefore s r q (prospectKeys s r t n)
    | k => !(q.cell == r.cell && q.th == r.th &&
        (q.stage == .sent && (match q.kind with | .posted _ _ _ => false | .block _ _ _ _ _ => false | _ => true) ||
          (match k with | .engine _ => goesBefore s r q (requestKeys s r) | .header _ _ _ _ => goesBefore s r q (requestKeys s r) | _ => false))))

/-- The device number in a peer key. -/
def peerOf (k : Nat) : Nat := (k - 2 ^ 64) / 2 ^ 56

/-- The peers a request goes to, by device number. -/
def reqPeers (s : State) (r : Req) : List Nat :=
  match r.kind with
  | .posted ks _ _ => ((ks.find? isPeerKey).map peerOf).toList
  | .block _ ks _ _ _ => ((ks.filter isPeerKey).map peerOf).eraseDups
  | _ => (globalRuns s r).filterMap (fun e =>
      (leafFor s (groveOf r.cell) r.ctx r.leaves e.1).bind (fun f =>
        if isPeerKey (leafKey f.level f.pte e.1) then some (peerOf (leafKey f.level f.pte e.1)) else none))

def reqLeaves (s : State) (r : Req) : Bool := !(reqPeers s r).isEmpty

/-- The lifetime of the request's packet has run out (R344). -/
def outlived (s : State) (r : Req) : Bool := reqLeaves s r && decide (r.born + 2 ^ 21 ≤ s.cyc.toNat)

/-- A request of this device reaches its home; none while it waits for a walk, a view or room, and where its packet's lifetime has run
out (R344). -/
def arriveOwn (s : State) (id : Nat) : Option State :=
  (findReq s id).bind (fun r =>
    if r.stage != .sent || outlived s r then none
    else
      match r.kind with
      | .posted ks bs rmw => arrivePosted s r ks bs rmw
      | .block src ks dst cls t => arriveBlock s r src ks dst cls t
      | .atomic t n what =>
        if (missing s r).isSome then none else arriveAtomic (touchRuns s (groveOf r.cell) r.ctx (globalRuns s r)) r t n what
      | k =>
        if r.discarded then some (answerData s id 0)
        else if (missing s r).isSome || !firstInLine s r then none
        else
          let s := touchRuns s (groveOf r.cell) r.ctx (globalRuns s r)
          match k with
          | .load t n _ _ neff =>
            match targetKeys s r false t n with
            | .error e => some (answer s id (.refused e))
            | .ok ks => viewAt s r neff t ks (fun v => answerData s id (BitVec.ofNat 128 v))
          | .check t n rmw insn neff => arriveCheck s r t n rmw insn neff
          | .barr c b =>
            let w := barAt s c b.toNat
            some (if !barV w then answer s id (.refused .notMapped)
              else if barCtx w != r.ctx then answer s id (.refused .permission) else answerData s id 0)
          | .header t n w use => arriveHeader s r t n w use
          | .engine o => arriveEngine s r o
          | _ => none)

/-- An inbound entry allows the peer's access (R360, Table 16.5). -/
def inboundAllows (s : State) (src pa n : Nat) (w : Bool) : Bool :=
  s.inbound.any (fun e =>
    let v := e.2
    let first := (v.extractLsb' 117 9).toNat
    let base := (v.extractLsb' 0 48).toNat
    v[127] && (!w || v[126]) && decide (first ≤ src) && decide (src ≤ first + (v.extractLsb' 108 9).toNat)
      && decide (base ≤ pa) && decide (pa + n ≤ base + (v.extractLsb' 48 48).toNat) && decide (pa + n ≤ 16 * Config.hbmGranules))

/-- A peer's atomic at this device's HBM. -/
def peerRmw (s : State) (pa n : Nat) (what : Rmw) : Option State :=
  let ks := keysFrom (hbmKey pa) n
  (rmwNew what n (leNat (readKeys s.mem ks))).map (fun x => applyWrite s ks (leBytes n x))

/-- What reaches a home: an access of this device, of a peer, a packet merged from several devices, or an access of an agent outside
(R190, R360, R361). -/
def arrival (s : State) (a : Arrival) : Option State :=
  match a with
  | .own id => arriveOwn s id
  | .peerWrite src pa bs => if inboundAllows s src pa bs.length true then some (applyWrite s (keysFrom (hbmKey pa) bs.length) bs) else none
  | .peerAmo src pa op n v => if inboundAllows s src pa n true then peerRmw s pa n (.amo op v) else none
  | .peerSwp src pa n v => if inboundAllows s src pa n true then peerRmw s pa n (.swp v) else none
  | .peerCas src pa n e v => if inboundAllows s src pa n true then peerRmw s pa n (.cas e v) else none
  | .merged srcs pa op n v =>
    if !srcs.isEmpty && srcs.all (fun src => inboundAllows s src pa n true) then peerRmw s pa n (.amo op v) else none
  | .outsideWrite k bs =>
    if isSystemKey k then some { s with mem := writeKeys s.mem (keysFrom k bs.length) bs } else none

/-- DESIGN CHOICE (log 88). -/
def execRemoteRequestArrival (what : Arrival) (s : State) : Host.Outcome State Fault Refusal := event s (arrival s what)

/-! ## Answers (R190) -/

/-- A value reaches the latch that still waits for this request. -/
def latchResult (s : State) (r : Req) (u : BitVec 4) (v : Word) : State :=
  modThr s r.cell (BitVec.ofNat 3 r.th) (fun x =>
    match rget x.y u with
    | .pending (.request id) => if id = r.id then { x with y := rset x.y u (.ready v) } else x
    | _ => x)

/-- Data of a load or an atomic: Y, and e3 for 16 bytes (R194, R195). -/
def loadResult (s : State) (r : Req) (n : Nat) (sx : Bool) (v : BitVec 128) : State :=
  let s := latchResult s r 7#4 (loadY n sx v.toNat)
  if n = 16 then modThr s r.cell (BitVec.ofNat 3 r.th) (fun x => { x with e := rset x.e 3#3 (v.extractLsb' 64 64) }) else s

def deliver (s : State) (r : Req) (v : BitVec 128) : State :=
  match r.kind with
  | .load _ n sx _ _ => loadResult s r n sx v
  | .atomic _ n _ => loadResult s r n false v
  | .check _ n (some _) _ _ => loadResult s r n false v
  | .header _ _ _ .peek => latchResult s r 15#4 (v.extractLsb' 0 64)
  | .header _ _ _ .watch => latchResult s r 15#4 0
  | .engine id =>
    match engineOp s r.cell id with
    | some (true, o) => putVx r.cell s { o with req := none }
    | some (false, o) => putMx r.cell s { o with req := none }
    | none => s
  | _ => s

/-- The operation that a failed request of an engine faults, with the PC that its fault quotes (R145). -/
def reqOp (r : Req) : Option Nat :=
  match r.kind with
  | .engine id => some id
  | _ => none

def reqPc (s : State) (r : Req) : Word :=
  match r.kind with
  | .engine _ => (thr s r.cell (BitVec.ofNat 3 r.th)).pc
  | _ => r.pc

/-- The take that asked for an owed `ared`'s grant has ended: a refusal leaves the `ared` out (R190, R331). DEDUCED (log 95). -/
def dropOwed (s : State) (r : Req) : State :=
  modThr s r.cell (BitVec.ofNat 3 r.th) (fun x => { x with effects := x.effects.filter (fun e => match e with
    | .rmw _ _ _ none true _ i => match r.kind with
      | .check _ _ _ insn _ => i != insn
      | _ => true
    | _ => true) })

/-- An answer reaches the thread: watch entries on what the request wrote fire, orc falls, and data, a grant or a fault takes effect (R190, R272). -/
def takeAnswer (s : State) (id : Nat) : Option State :=
  (findReq s id).bind (fun r =>
    let t := BitVec.ofNat 3 r.th
    let s' := fireWatches (dropReq s id) r.fires
    let ended := (thr s r.cell t).phase == .reporting
    let out := if r.discarded then s' else modThr s' r.cell t (fun x => { x with orc := x.orc - 1 })
    match r.stage with
    | .answered a =>
      if r.discarded then some out
      else if ended then some (match a with | .data _ => out | _ => dropOwed out r)
      else
        match a with
        | .data v => some (deliver out r v)
        | .refused e => some (refuseRequest out r.cell t r.word (reqPc s r) r.seq (reqOp r) e)
        | .format =>
          let x := thr out r.cell t
          some (trapEntry out r.cell t ⟨.format, if x.words ≤ r.word then r.pc else x.pc, 0, 0xFF, none, 0, 0⟩)
    | .ecc => if r.discarded then some out else if ended then some (dropOwed out r) else some (eccRequest out r.cell t r.word (reqPc s r) r.seq (reqOp r))
    | _ => none)

def execRemoteAnswer (id : Nat) (s : State) : Host.Outcome State Fault Refusal := event s (takeAnswer s id)

/-- The acknowledgement of a posted access: watch entries on its granules fire where it wrote (R209, R272). DEDUCED (log 91). -/
def acknowledge (s : State) (id : Nat) : Option State :=
  (findReq s id).bind (fun r =>
    match r.kind, r.stage with
    | .posted _ _ _, .applied => some (fireWatches (dropReq s id) r.fires)
    | _, _ => none)

def execAcknowledgement (id : Nat) (s : State) : Host.Outcome State Fault Refusal := event s (acknowledge s id)

/-! ## The proxy lanes (R198, R364) -/

/-- The lane of a host address. -/
def laneOf (pa : Nat) : Nat := (pa / 2 ^ 6 % 16) ^^^ (pa / 2 ^ 10 % 16)

def laneAt (s : State) (d l : Nat) : List LaneEntry := tget (dieAt s d).lanes l []

def setLane (s : State) (d l : Nat) (q : List LaneEntry) : State := modDie s d (fun x => { x with lanes := tput x.lanes l q })

/-- The routine issues the atomic at the head of a lane; the ones behind it are queued (R198, R364). -/
def issueHead : List LaneEntry → List LaneEntry
  | [] => []
  | e :: q => { e with issued := true } :: q

/-- The keys, size and operation of a host atomic on its way. -/
def hostAtomic (s : State) (r : Req) : Option (List Nat × Nat × Rmw) :=
  match r.kind with
  | .posted ks _ (some (n, what)) => if ks.any isHostKey && hostCarries n what then some (ks, n, what) else none
  | .atomic t n what =>
    if (missing s r).isSome then none
    else
      match targetKeys s r true t n with
      | .ok ks => if ks.any isHostKey && hostCarries n what then some (ks, n, what) else none
      | .error _ => none
  | _ => none

/-- PROXY_ATOMIC: a host atomic enters its lane, behind the thread's earlier posted accesses to its line (P1, R209); a full lane keeps it waiting
in the network. -/
def enterLane (s : State) (id : Nat) : Option State :=
  (findReq s id).bind (fun r =>
    if r.stage != .sent then none
    else
      (hostAtomic s r).bind (fun a =>
        let d := dieOf r.cell
        let l := laneOf (a.1.headD 0 % 2 ^ 48)
        if postedBefore s r a.1 then none
        else if 32 ≤ (laneAt s d l).length then none
        else some (setLane (modReq s id (fun r => { r with stage := .lane })) d l (issueHead (laneAt s d l ++ [⟨id, false, a.1⟩])))))

def execProxyAtomic (id : Nat) (s : State) : Host.Outcome State Fault Refusal := event s (enterLane s id)

/-- A posted access is lost: it is never acknowledged, and what waits for its acknowledgement waits on; its take, where it has not printed,
faults (Table 10.5). -/
def loseRequest (s : State) (r : Req) : State := lateUnreachable (modReq s r.id (fun r => { r with stage := .lost })) r

/-- HOST_ATOMIC_COMPLETION: the host completes the atomic at the head of a lane, or its completion times out (R364). -/
def laneDone (s : State) (d l : Nat) (lost : Bool) : Option State :=
  match laneAt s d l with
  | [] => none
  | e :: q =>
    let s := setLane s d l (issueHead q)
    match findReq s e.req with
    | none => some s
    | some r =>
      match r.kind with
      | .posted ks _ (some (n, what)) =>
        if lost then some (loseRequest s r)
        else match rmwNew what n (leNat (readKeys s.mem ks)) with
          | some v => some (applied { s with mem := writeKeys s.mem ks (leBytes n v) } r.id ks)
          | none => some (applied s r.id [])
      | .atomic _ n what =>
        if lost then some (answer s r.id (.refused .unreachable))
        else if readError s r then some (answerEcc s r.id)
        else
          let old := leNat (readKeys s.mem e.keys)
          let s' := answerData s r.id (BitVec.ofNat 128 old)
          some (match rmwNew what n old with
            | some v => modReq { s' with mem := writeKeys s.mem e.keys (leBytes n v) } r.id (fun r => { r with fires := e.keys })
            | none => s')
      | _ => some s

def execHostAtomicCompletion (die lane : Nat) (timedOut : Bool) (s : State) : Host.Outcome State Fault Refusal :=
  event s (laneDone s die lane timedOut)

/-! ## What the links do (R344, R359, R364) -/

/-- Some plane delivers the request (R359). DESIGN CHOICE (log 34). -/
def deliverable (s : State) (r : Req) : Bool := (reqPeers s r).all Config.peerReached

/-- The message of a failed block read may be placed. -/
def failRoom (s : State) (r : Req) : Bool :=
  match r.kind with
  | .block _ _ _ _ _ => !postedEarlier s r && cqTurn s r.cell r.ctx (.block r.id)
  | _ => true

/-- Ends a request without an answer of its home. -/
def failReq (s : State) (r : Req) : State :=
  match r.kind with
  | .posted _ _ _ => loseRequest s r
  | .block _ ks dst cls t =>
    let (m, s) := raised s r.cell r.ctx cls.toNat 0
      [BitVec.ofNat 64 dst, t, BitVec.ofNat 64 ks.length, BitVec.ofNat 64 (0x100 + causeCode (reasonCause .unreachable))] r.launch
    dropReq (cqPlace s r.cell r.ctx (.block r.id) m) r.id
  | _ => answer s r.id (.refused .unreachable)

/-- REQUEST_LOST: a peer request that no plane delivers is refused after 2^22 cycles (R359). DESIGN CHOICE (log 34); DEDUCED (log 90). -/
def requestLost (s : State) (id : Nat) : Option State :=
  (findReq s id).bind (fun r =>
    if (r.stage == .sent || r.stage == .expired) && reqLeaves s r && failRoom s r && decide (r.born + 2 ^ 22 ≤ s.cyc.toNat) then
      some (failReq s r)
    else none)

def execRequestLost (id : Nat) (s : State) : Host.Outcome State Fault Refusal := event s (requestLost s id)

/-- PACKET_LIFETIME_EXPIRY: a packet held for 2^21 cycles is discarded unapplied (R344). DEDUCED (log 90). -/
def lifetimeExpires (s : State) (id : Nat) : Option State :=
  (findReq s id).bind (fun r =>
    if r.stage == .sent && outlived s r then some (modReq s id (fun r => { r with stage := .expired }))
    else none)

def execPacketLifetimeExpiry (id : Nat) (s : State) : Host.Outcome State Fault Refusal := event s (lifetimeExpires s id)

/-- PLANE_LOSS: the packets in flight on the plane are resent on another; no state and no order changes (R359, Table 16.6).
DEDUCED (log 93). -/
def execPlaneLoss (_plane : Nat) (s : State) : Host.Outcome State Fault Refusal := .next s

/-- A read that goes to host memory, the one for a deferred atomic's view included (R364). -/
def readsHost (s : State) (r : Req) : Bool :=
  (match r.kind with
    | .block _ ks _ _ _ => ks.any isHostKey
    | _ => false) ||
  (match r.kind with
    | .load _ _ _ _ _ => true | .engine _ => true | .header _ _ _ _ => true | .check _ _ (some _) _ _ => true | _ => false) &&
  (globalRuns s r).any (fun e =>
    match leafFor s (groveOf r.cell) r.ctx r.leaves e.1 with
    | some f => isHostKey (leafKey f.level f.pte e.1)
    | none => false)

/-- A host read that times out fails with reason 3 (R364). -/
def hostReadLost (s : State) (id : Nat) : Option State :=
  (findReq s id).bind (fun r => if r.stage == .sent && readsHost s r && failRoom s r then some (failReq s r) else none)

/-! ## Invalidation (R189) -/

/-- Bytes of a global address lie in the page of this level. -/
def inPage (va lvl a n : Nat) : Bool := meets a n (va / 2 ^ pageBits lvl * 2 ^ pageBits lvl) (2 ^ pageBits lvl)

/-- The effect was granted through a page of this level. DESIGN CHOICE (log 33). -/
def granted (va lvl : Nat) (e : Effect) : Bool :=
  let hits : Target → Nat → Bool := fun t n => match t with
    | .glb a => inPage va lvl a n
    | _ => false
  match e with
  | .store ps _ _ (some _) _ _ => ps.any (fun p => hits p.tgt p.bytes.length)
  | .rmw t n _ (some _) _ _ _ => hits t n
  | .rbr t _ n _ _ (some _) _ => hits t n
  | _ => false

/-- Every take that was granted a check on the page is in a final state and owes no effect of its own through it, and no posted access, block read
or host atomic in a lane of the context is unacknowledged (R189). DESIGN CHOICE (log 33). -/
def pageIdle (s : State) (ctx va lvl : Nat) : Bool :=
  s.cells.all (fun e => e.2.threads.toList.all (fun x => x.ctx.toNat != ctx ||
      (x.effects.all (fun f => !granted va lvl f) && x.pages.all (fun r => !inPage va lvl r.1 r.2)))) &&
    s.reqs.all (fun r => r.ctx != ctx || (match r.kind with
      | .posted _ _ _ => false
      | .block _ _ _ _ _ => false
      | .atomic _ _ _ => r.stage != .lane
      | _ => true))

/-- The page leaves every translation unit. -/
def dropPage (s : State) (ctx va lvl : Nat) : State :=
  let keep : TlbEntry → Bool := fun e => !(e.ctx == ctx && e.level == lvl && e.page == va / 2 ^ pageBits lvl)
  { s with
    groves := s.groves.map (fun g => (g.1, { g.2 with tlb := g.2.tlb.filter keep })),
    reqs := s.reqs.map (fun r => { r with leaves := r.leaves.filter keep }) }

/-- INVALIDATION: performed once the page is idle; until then it waits. DESIGN CHOICE (log 33). -/
def execInvalidation (ctx : Nat) (va : Word) (level : BitVec 2) (s : State) : Host.Outcome State Fault Refusal :=
  let i := (ctx, va, level)
  if pageIdle s ctx va.toNat level.toNat then
    .next { dropPage s ctx va.toNat level.toNat with invalidations := s.invalidations.filter (· != i) }
  else .next { s with invalidations := if s.invalidations.contains i then s.invalidations else s.invalidations ++ [i] }

end Sys2Proof.Machine
end

