-- ==== Sys2Proof/Machine/Splice.lean ====
section
/-! DEFINITION. The packets of the splice protocol, each delivered to the record it is meant for (12_queues R250–R261). -/

namespace Sys2Proof.Machine

/-- The context of a packet that a router discards in a kill's sweep. FREE, the closes of ends and what takes a discarded message's place go
on: R345 has slots freed, credits returned and ends closed. DEDUCED (log 63). -/
def sweptCtx : Packet → Option Nat
  | .data _ ctx _ _ _ _ isClose _ => if isClose then none else some ctx
  | .note _ ctx _ => some ctx
  | .fwd _ ctx _ _ => some ctx
  | .free _ _ _ _ _ => none
  | .ret _ ctx _ _ => some ctx
  | .credit ctx _ _ => some ctx
  | .reg _ ctx _ _ _ => some ctx
  | .moved _ ctx _ _ _ => some ctx
  | .pull _ ctx _ => some ctx
  | .ship _ ctx _ _ _ _ _ _ _ => some ctx
  | .move _ ctx _ _ _ => some ctx
  | .fin _ ctx _ => some ctx
  | .closer _ _ => none
  | .skip _ _ _ _ => none
  | .closure _ _ => none

/-- The routers on the packet's way discard the packets of its context: their sweep has not ended (R343). -/
def sweeping (s : State) (f : Flight) : Bool :=
  s.kills.any (fun k => sweptCtx f.pkt == some k.ctx && !k.routers.contains (dieOf f.dst))

/-- A packet that arrives: its effect on the state without it; it stays in flight where `f` answers none. -/
def arrivePkt (s : State) (id : Nat) (f : Nat → Packet → State → Option State) : Option State :=
  (findFlight s id).bind (fun p => if sweeping s p then none else f p.dst p.pkt (dropFlight s id))

def pktEvent (s : State) (id : Nat) (f : Nat → Packet → State → Option State) : Host.Outcome State Fault Refusal :=
  event s (arrivePkt s id f)

/-! ## At the home (R256, R259) -/

def findSender (h : Home) (sid : Nat) : Option Sender := h.senders.find? (fun e => e.sid == sid)

def modSender (h : Home) (sid : Nat) (f : Sender → Sender) : Home :=
  { h with senders := h.senders.map (fun e => if e.sid == sid then f e else e) }

def freeSlotOf (h : Home) : Option Nat := (List.range h.depth).find? (fun i => !(h.slots.any (fun e => e.1 == i)))

/-- A consumed count grows and is told to the end's cell. -/
def creditSender (s : State) (hc chan sid : Nat) : State :=
  let s := modHome s hc chan (fun h => modSender h sid (fun d => { d with cnsm := d.cnsm + 1 }))
  match (findHome (cellAt s hc) chan).bind (fun h => (findSender h sid).map (fun d => (h.ctx, d))) with
  | some (ctx, d) => sendPkt s d.loc (.credit ctx sid d.cnsm)
  | none => s

/-- Messages of `sid` in sequence are queued, and a note goes to the holder for each. -/
def acceptSeq (s : State) (hc chan sid : Nat) : Nat → State
  | 0 => s
  | fuel + 1 =>
    match findHome (cellAt s hc) chan with
    | none => s
    | some h =>
      match findSender h sid with
      | none => s
      | some d =>
        match h.slots.find? (fun e => e.2.sid == sid && e.2.seq == d.nx && e.2.early) with
        | none => s
        | some (i, m) =>
          if m.void then
            let s := modHome s hc chan (fun h => { modSender h sid (fun d => { d with nx := d.nx + 1 }) with slots := tdel h.slots i })
            acceptSeq (creditSender s hc chan sid) hc chan sid fuel
          else
          let s := modHome s hc chan (fun h =>
            { modSender h sid (fun d => { d with nx := d.nx + 1 }) with
              slots := tput h.slots i { m with early := false }, ai := h.ai + 1 })
          acceptSeq (sendPkt s h.holder (.note chan h.ctx ⟨h.ai, i, sid, m.seq⟩)) hc chan sid fuel

/-- A protected sender's message is dispatched only at an end of its own tenant (R373). DEDUCED (log 45). -/
def tenantOk (s : State) (sender receiver : Nat) : Bool :=
  !isProtected s sender || (isProtected s receiver && tslotOf s sender == tslotOf s receiver)

/-- The context that holds the receive end. DEDUCED (log 45). -/
def holderCtx (s : State) (h : Home) : Nat := ((findRecv (cellAt s h.holder) h.chan).map (·.ctx)).getD h.ctx

/-- The home accepts a DATA packet; one for a closed channel is discarded, and so is one that fails the check of R373: its slot is freed and its
credit returned once its number's turn has come (R240, R246, R256). DEDUCED (log 46). -/
def onData (hc : Nat) (p : Packet) (s : State) : Option State :=
  match p with
  | .data chan ctx _ sid seq _ isClose msg =>
    match findHome (cellAt s hc) chan with
    | none => some (closeLane s msg.launch msg.lane)
    | some h =>
      if h.closed then some (closeLane s msg.launch msg.lane)
      else
        match findSender h sid, freeSlotOf h with
        | some _, some i =>
          if !tenantOk s ctx (holderCtx s h) then
            let s := modHome s hc chan (fun h => { h with slots := tput h.slots i ⟨sid, seq, true, false, true, Msg.none⟩ })
            some (acceptSeq (closeLane s msg.launch msg.lane) hc chan sid (h.depth + 1))
          else
            let s := modHome s hc chan (fun h => { h with slots := tput h.slots i ⟨sid, seq, true, isClose, false, msg⟩ })
            some (acceptSeq s hc chan sid (h.depth + 1))
        | _, _ => none
  | .skip chan _ sid seq =>
    match findHome (cellAt s hc) chan with
    | none => some s
    | some h =>
      match h.closed, findSender h sid, freeSlotOf h with
      | false, some _, some i =>
        let s := modHome s hc chan (fun h => { h with slots := tput h.slots i ⟨sid, seq, true, false, true, Msg.none⟩ })
        some (acceptSeq s hc chan sid (h.depth + 1))
      | false, some _, none => none
      | _, _, _ => some s
  | _ => none

def execDataPkt (id : Nat) (s : State) : Host.Outcome State Fault Refusal := pktEvent s id onData

/-- A closed channel's record goes once no slot is in use and no MOVE waits for the one before it (R250, R259). DEDUCED (log 44). -/
def tryFreeHome (s : State) (hc chan : Nat) : State :=
  modCell s hc (fun x => { x with homes := x.homes.filter (fun h => !(h.chan == chan && h.closed && h.slots.isEmpty && h.moves.isEmpty)) })

/-- A slot becomes free and its credit returns; a consumed close ends the sender's record. DEDUCED (log 44). -/
def onFree (hc : Nat) (p : Packet) (s : State) : Option State :=
  match p with
  | .free chan _ _ slot sid =>
    match findHome (cellAt s hc) chan with
    | none => some s
    | some h =>
      if !h.slots.any (fun e => e.1 == slot && e.2.sid == sid) then some s
      else
      let shut := h.slots.any (fun e => e.1 == slot && e.2.isClose)
      let s := modHome s hc chan (fun h => { h with slots := tdel h.slots slot })
      let s := if shut then modHome s hc chan (fun h => { h with senders := h.senders.filter (fun d => d.sid != sid) })
        else creditSender s hc chan sid
      some (tryFreeHome s hc chan)
  | _ => none

def execFreePkt (id : Nat) (s : State) : Host.Outcome State Fault Refusal := pktEvent s id onFree

/-- An end's cell becomes known; a closed channel answers with its closure (R253, R256). DEDUCED (log 44). -/
def onPlace (hc chan ctx sid cell mv : Nat) (s : State) : State :=
  match findHome (cellAt s hc) chan with
  | none => sendPkt s cell (.closure ctx sid)
  | some h =>
    if h.closed then sendPkt s cell (.closure ctx sid)
    else
      match findSender h sid with
      | none =>
        sendPkt (modHome s hc chan (fun h => { h with senders := h.senders ++ [⟨sid, cell, mv, 0, 0⟩] })) cell (.credit ctx sid 0)
      | some d =>
        if d.mv ≤ mv then
          sendPkt (modHome s hc chan (fun h => modSender h sid (fun d => { d with loc := cell, mv := mv }))) cell (.credit ctx sid d.cnsm)
        else s

/-- DEDUCED (log 44). -/
def onReg (hc : Nat) (p : Packet) (s : State) : Option State :=
  match p with
  | .reg chan ctx sid cell mv => some (onPlace hc chan ctx sid cell mv s)
  | _ => none

def execRegPkt (id : Nat) (s : State) : Host.Outcome State Fault Refusal := pktEvent s id onReg

/-- DEDUCED (log 44). -/
def onMoved (hc : Nat) (p : Packet) (s : State) : Option State :=
  match p with
  | .moved chan ctx sid cell mv => some (onPlace hc chan ctx sid cell mv s)
  | _ => none

def execMovedPkt (id : Nat) (s : State) : Host.Outcome State Fault Refusal := pktEvent s id onMoved

/-- Applies waiting moves in increasing gen order (R259). -/
def applyMoves (s : State) (hc chan : Nat) : Nat → State
  | 0 => s
  | fuel + 1 =>
    match findHome (cellAt s hc) chan with
    | none => s
    | some h =>
      match h.moves.find? (fun m => m.gen == h.gen + 1) with
      | none => s
      | some m =>
        let s := modHome s hc chan (fun h => { h with holder := m.dest, gen := m.gen, moves := h.moves.filter (· != m) })
        applyMoves (sendPkt s m.frm (.fin chan h.ctx h.ai)) hc chan fuel

/-- MOVE: the home applies it in gen order; a home that a close has removed sends the END of an empty range (R250, R260). DEDUCED (log 44). -/
def onMove (hc : Nat) (p : Packet) (s : State) : Option State :=
  match p with
  | .move chan ctx prev new gen =>
    match findHome (cellAt s hc) chan with
    | none => some (sendPkt s prev (.fin chan ctx 0))
    | some h =>
      some (tryFreeHome (applyMoves (modHome s hc chan (fun h => { h with moves := h.moves ++ [⟨prev, new, gen⟩] })) hc chan (h.moves.length + 1)) hc chan)
  | _ => none

def execMovePkt (id : Nat) (s : State) : Host.Outcome State Fault Refusal := pktEvent s id onMove

/-! ## At the holder (R252, R257) -/

/-- Changes the message in a slot of the channel. DEDUCED (log 43). -/
def modSlotMsg (s : State) (home chan slot : Nat) (f : Msg → Msg) : State :=
  modHome s home chan (fun h => { h with slots := h.slots.map (fun e => if e.1 == slot then (e.1, { e.2 with msg := f e.2.msg }) else e) })

/-- The record is moved on: it dispatches nothing more (R257). -/
def leave (r : RecvEnd) : RecvEnd :=
  { r with st := match r.st with | .active => .frozen | .inbound => .leaving | st => st }

/-- A record that was moved on is held again: the end came back to the cell it had not left. DEDUCED (log 43). -/
def regain (ctx : Nat) (r : RecvEnd) : RecvEnd :=
  { r with ctx := ctx, since := none, st := match r.st with | .frozen => .active | .leaving => .inbound | st => st }

/-- What a lane carries as it leaves a cell at which it was installed and not yet loaded: its message is queued at another cell now (R252,
R257). DEDUCED (log 43). -/
def uninstalled (s : State) (h : Handle) : Option (EndRec × State) :=
  let c := hCell h
  if hKind h == 1 then (findSend (cellAt s c) (hEid h)).map (fun e => (.send { e with mv := e.mv + 1 }, delSend s c (hEid h)))
  else (findRecv (cellAt s c) (hEid h)).map (fun q => (.recv q.eid q.home q.gen q.depth q.pri c, modRecv s c q.eid leave))

/-- A send end is installed at cell `c` for a context (R258). -/
def installSend (s : State) (c ctx : Nat) (e : SendEnd) : Handle × State :=
  let s := modCell s c (fun x => { x with sends := x.sends ++ [{ e with ctx := ctx, registered := true }] })
  (mkHandle 1 ctx e.eid c, sendPkt s e.home (.moved e.chan ctx e.eid c e.mv))

/-- An inbound record of a receive end, with its PULL to the previous holder (R257). -/
def installRecv (s : State) (c ctx eid home gen depth pri holder : Nat) : State :=
  let s := modCell s c (fun x => { x with
    recvs := x.recvs ++ [⟨eid, ctx, home, gen, [], 0, 0, .inbound, false, depth, pri, none, [], none, false, none, (0, [])⟩] })
  sendPkt s holder (.pull eid ctx c)

/-- A message is queued at the holder's cell: the end that it carries is installed there, and a closing message becomes the event that the cell
raises (R237, R252, R253, R257, R258); none while the end table is full. Every level of the fuel is an end that came back to its own cell.
DEDUCED (log 43). -/
def installLane : Nat → State → Nat → RecvEnd → Note → Option State
  | 0, s, _, _, _ => some s
  | fuel + 1, s, c, r, n =>
    match noteSlot s r.home r.eid n with
    | none => some s
    | some m =>
      let put : State → Handle → State := fun s h => modSlotMsg s r.home r.eid n.slot (fun x => { x with lane := some (.installed h) })
      let start : Option (EndRec × State) := match m.msg.lane with
        | some (.installed h) => if hCell h == c then none else uninstalled s h
        | some l => some (l, s)
        | none => none
      match start with
      | some (.send e, s) =>
        if freeEnds (cellAt s c) = 0 then none
        else
          let (h, s) := installSend s c r.ctx e
          some (put s h)
      | some (.recv eid home gen depth pri holder, s) =>
        let h := mkHandle 2 r.ctx eid c
        if holder == c then
          match findRecv (cellAt s c) eid with
          | some q =>
            let q := regain r.ctx q
            let s := put (modRecv s c eid (regain r.ctx)) h
            if q.st == .active then q.notes.foldlM (fun s m => installLane fuel s c q m) s else some s
          | none => some (put s h)
        else if freeEnds (cellAt s c) = 0 then none
        else some (put (installRecv s c r.ctx eid home gen depth pri holder) h)
      | _ =>
        if m.isClose then
          let (k, s) := takeMsgCtr s c
          some (modSlotMsg s r.home r.eid n.slot (fun x => { x with slate := mkSlate 0 17 1 false 0 k 1 m.sid }))
        else some s

/-- A stub's range may cover the note: it has not been passed on, and END has not shut it out. -/
def stubTakes (u : Stub) (n : Note) : Bool :=
  decide (u.start ≤ n.ai) && !u.passed.contains n.ai && (match u.limit with | some a => decide (n.ai < a) | none => true)

/-- A note reaches a cell: the stub whose range covers it forwards it, else the record queues it, else a stub passes it on unchanged. Where the
end has come back and END has still to tell which of the two it is, the note waits. Where neither stands, the end is closed and its home
discards the message (R250, R257, R260). DEDUCED (log 43). -/
def noteAt (c chan : Nat) (n : Note) (s : State) : Option State :=
  match (findStub (cellAt s c) chan).filter (fun u => stubTakes u n) with
  | some u =>
    if u.limit.isNone && (findRecv (cellAt s c) chan).isSome then none else
    let s := sendPkt s u.successor (.fwd chan u.ctx none n)
    some (tryFreeStub (modStub s c chan (fun u => { u with passed := n.ai :: u.passed })) c chan)
  | none =>
    match findRecv (cellAt s c) chan, findStub (cellAt s c) chan with
    | some r, _ =>
      if r.closing then some s
      else
        let s' := modRecv s c chan (fun r => queuedNow s.cyc.toNat n.ai { r with notes := noteInsert n r.notes })
        if r.st == .frozen || r.st == .leaving then some s' else installLane 64 s' c r n
    | none, some u => some (sendPkt s u.successor (.fwd chan u.ctx none n))
    | none, none => some s

def onNote (c : Nat) (p : Packet) (s : State) : Option State :=
  match p with
  | .note chan _ n => noteAt c chan n s
  | _ => none

def execNotePkt (id : Nat) (s : State) : Host.Outcome State Fault Refusal := pktEvent s id onNote

/-- The cell at which a channel has its home. -/
def homeCell (s : State) (chan : Nat) : Option Nat := (s.cells.find? (fun e => (findHome e.2 chan).isSome)).map (·.1)

/-- A returned note goes to the head at the record, or on through a stub; where neither stands, the end is closed and the slot is freed
(R240, R250, R257). DEDUCED (log 38). -/
def returnAt (c chan : Nat) (n : Note) (hold : Bool) (s : State) : Option State :=
  match findRecv (cellAt s c) chan, findStub (cellAt s c) chan with
  | some r, _ =>
    if r.closing then some (sendPkt s r.home (.free chan 0 r.home n.slot n.sid))
    else
      let s' := modRecv s c chan (fun r =>
        queuedNow s.cyc.toNat n.ai { r with returned := noteInsert n r.returned, held := r.held || hold, since := none })
      if r.st == .frozen || r.st == .leaving then some s' else installLane 64 s' c r n
  | none, some u => some (tryFreeStub (sendPkt s u.successor (.fwd chan u.ctx (some hold) n)) c chan)
  | none, none =>
    match homeCell s chan with
    | some h => some (sendPkt s h (.free chan 0 h n.slot n.sid))
    | none => some s

/-- DEDUCED (log 38). -/
def onReturn (c : Nat) (p : Packet) (s : State) : Option State :=
  match p with
  | .ret chan _ n hold => returnAt c chan n hold s
  | _ => none

def execReturnPkt (id : Nat) (s : State) : Host.Outcome State Fault Refusal := pktEvent s id onReturn

def onFwd (c : Nat) (p : Packet) (s : State) : Option State :=
  match p with
  | .fwd chan _ none n => noteAt c chan n s
  | .fwd chan _ (some hold) n => returnAt c chan n hold s
  | _ => none

def execFwdPkt (id : Nat) (s : State) : Host.Outcome State Fault Refusal := pktEvent s id onFwd

/-- The holder ships what it has, tells the home, and becomes a stub (R257). -/
def shipTo (s : State) (c : Nat) (r : RecvEnd) (new : Nat) : State :=
  let s := sendPkt s new (.ship r.eid r.ctx r.home (r.gen + 1) r.b r.notes r.returned r.running r.held)
  let s := sendPkt s r.home (.move r.eid r.ctx c new (r.gen + 1))
  modCell (delRecv s c r.eid) c (fun x => { x with
    stubs := x.stubs.filter (fun u => u.chan != r.eid) ++ [⟨r.eid, r.ctx, r.home, new, r.b, r.notes.map (·.ai), none, r.running, r.gen⟩] })

/-- PULL: held while the record is inbound (R257). -/
def onPull (c : Nat) (p : Packet) (s : State) : Option State :=
  match p with
  | .pull chan _ new =>
    match findRecv (cellAt s c) chan with
    | none => some s
    | some r =>
      if r.st == .inbound || r.st == .leaving then some (modRecv s c chan (fun r => { r with pull := some new }))
      else if (findStub (cellAt s c) chan).isSome then none
      else some (shipTo s c r new)
  | _ => none

def execPullPkt (id : Nat) (s : State) : Host.Outcome State Fault Refusal := pktEvent s id onPull

/-- The ends that shipped messages carry are installed. DEDUCED (log 43). -/
def installAll (s : State) (c : Nat) (r : RecvEnd) (l : List Note) : Option State := l.foldlM (fun s n => installLane 64 s c r n) s

/-- The record that SHIP leaves: active, or frozen where it was moved on meanwhile (R257). -/
def shipped (cyc gen b : Nat) (notes returned : List Note) (held : Bool) (r : RecvEnd) : RecvEnd :=
  { (notes ++ returned).foldl (fun r n => queuedNow cyc n.ai r) r with
    gen := gen, b := b, notes := notes.foldl (fun l n => noteInsert n l) r.notes,
    returned := returned.foldl (fun l n => noteInsert n l) r.returned, held := r.held || held,
    st := match r.st with | .inbound => .active | .leaving => .frozen | st => st, pull := none }

/-- SHIP: the record becomes active with the shipped notes, or ships on where a PULL waits. -/
def onShip (c : Nat) (p : Packet) (s : State) : Option State :=
  match p with
  | .ship chan _ _ gen b notes returned _ held =>
    match findRecv (cellAt s c) chan with
    | none => some s
    | some r =>
      let r' := shipped s.cyc.toNat gen b notes returned held r
      let s := modRecv s c chan (fun _ => r')
      match r.pull with
      | some new => if (findStub (cellAt s c) chan).isSome then none else some (shipTo s c r' new)
      | none => if r'.st == .active then installAll s c r' (notes ++ returned) else some s
  | _ => none

def execShipPkt (id : Nat) (s : State) : Host.Outcome State Fault Refusal := pktEvent s id onShip

/-- END: the stub learns where its range ends (R260). -/
def onEnd (c : Nat) (p : Packet) (s : State) : Option State :=
  match p with
  | .fin chan _ a => some (tryFreeStub (modStub s c chan (fun u => { u with limit := some a })) c chan)
  | _ => none

def execEndPkt (id : Nat) (s : State) : Host.Outcome State Fault Refusal := pktEvent s id onEnd

/-! ## Credits and closes (R241, R250, R253) -/

def onCredit (c : Nat) (p : Packet) (s : State) : Option State :=
  match p with
  | .credit _ sid cnsm => some (modSend s c sid (fun e => { e with ck := max e.ck cnsm }))
  | _ => none

def execCreditPkt (id : Nat) (s : State) : Host.Outcome State Fault Refusal := pktEvent s id onCredit

/-- A take runs on the message in a slot of the channel, or has consumed it and its FREE is on its way. -/
def slotRunning (s : State) (chan slot : Nat) : Bool :=
  s.flights.any (fun f => match f.pkt with | .free ch _ _ i _ => ch == chan && i == slot | _ => false) ||
  s.cells.any (fun e => e.2.threads.toList.any (fun x => x.phase != .idle && x.phase != .reporting &&
    ((match x.origin with | .channel eid n _ => eid == chan && n.slot == slot | _ => false) ||
      x.consumed.any (fun k => k.eid == chan && k.note.slot == slot))))

/-- The home discards a message: its slot is freed, its credit returned, the end in its lane closed. DEDUCED (log 42). -/
def discardSlot (hc chan : Nat) (s : State) (e : Nat × ChanSlot) : State :=
  let s := modHome s hc chan (fun h => { h with slots := tdel h.slots e.1 })
  creditSender (closeLane s e.2.msg.launch e.2.msg.lane) hc chan e.2.sid

/-- A receive end is closed: the home discards the queue and tells every registered send end. DEDUCED (log 41). -/
def closeHome (s : State) (hc chan : Nat) : State :=
  match findHome (cellAt s hc) chan with
  | none => s
  | some h =>
    let s := modHome s hc chan (fun h => { h with closed := true })
    let s := (h.slots.filter (fun e => !slotRunning s chan e.1)).foldl (discardSlot hc chan) s
    let s := h.senders.foldl (fun s d => sendPkt s d.loc (.closure h.ctx d.sid)) s
    tryFreeHome s hc chan

/-- CLOSER at the home; a closure event at the cell of a send end, waiting for a completion slot (R253). DEDUCED (log 41). -/
def onCloser (c : Nat) (p : Packet) (s : State) : Option State :=
  match p with
  | .closer chan _ => some (closeHome s c chan)
  | .closure _ sid =>
    match findSend (cellAt s c) sid with
    | none => some s
    | some e =>
      if e.orphan then some s
      else if !resident s c e.ctx then some (modSend s c sid (fun e => { e with orphan := true }))
      else if !cqTurn s c e.ctx (.closure sid) then none
      else
        let (m, s) := raised s c e.ctx 17 2 [BitVec.ofNat 64 sid] 0
        some (cqPlace (modSend s c sid (fun e => { e with orphan := true })) c e.ctx (.closure sid) m)
  | _ => none

def execCloserPkt (id : Nat) (s : State) : Host.Outcome State Fault Refusal := pktEvent s id onCloser

end Sys2Proof.Machine
end

