-- ==== Sys2Proof/Machine/Sched.lean ====
section
/-! DEFINITION. Which message becomes a take, and what every cycle does: dispatch, the moments at which heads become dispatchable,
UNBOUND reports, and the counters of cycles (01_machine R11–R14, 13_tables R277–R279, R288, R295–R296). -/

namespace Sys2Proof.Machine

/-! ## Bindings (R277, R279) -/

/-- A handler-table entry binds its class. -/
def binds (v : Word) : Bool :=
  v[63] && v.extractLsb' 33 20 != 0 && !v[0] && v.extractLsb' 53 10 == 0 && v.extractLsb' 17 16 == 0

def handlerAt (s : State) (c ctx cls : Nat) : Word := tget (posOf s c ctx).handlers cls 0

def bound (s : State) (c ctx cls : Nat) : Bool := binds (handlerAt s c ctx cls)

/-- Takes of the context may be dispatched on the cell's die (R342, R382, R387). -/
def mayDispatch (s : State) (c ctx : Nat) : Bool :=
  let r := ctxRec s (dieOf c) ctx
  !r.pre && !r.kill && !(secWord s ctx)[60] && dieRuns s (dieOf c)

/-! ## Heads of queues -/

/-- The message at the head of a receive end, with its note. -/
def endHead (s : State) (r : RecvEnd) : Option (Note × ChanSlot) :=
  if r.held || r.closing then none
  else (headNote r).bind (fun n => (noteSlot s r.home r.eid n).map (fun (m : ChanSlot) => (n, m)))

/-- The message as its take receives it: a closing DATA is the event of R253, under the number it took where it was queued (R237). -/
def asTaken (r : RecvEnd) (m : ChanSlot) : Msg :=
  if m.isClose then { m.msg with slate := mkSlate r.ctx 17 1 false r.pri (slateSeq m.msg.slate) 1 0xFFFFF }
  else { m.msg with slate := slateFor m.msg.slate r.ctx r.pri }

/-- widx − ridx and the other fields of a stage's reel that a pop reads. -/
def stageReel (s : State) (d : Nat) (g : Stage) : BitVec 128 := word128At s (stageHdr d g)

/-- The index the stage would give next: the lowest returned one, else the next never popped (R288). No index that came back, and no entry that
was published, is popped in the same cycle (R235). -/
def nextIndex (s : State) (d i : Nat) : Option (BitVec 32) :=
  let g := stageAt s d i
  let h := stageReel s d g
  let r := reelR h
  match g.returned with
  | a :: l => if g.backAt ≤ s.cyc.toNat then some (l.foldl (fun m x => if (x - r).toNat < (m - r).toNat then x else m) a) else none
  | [] =>
    let ahead : BitVec 32 → Bool := fun w => decide (1 ≤ (w - g.pidx).toNat) && decide ((w - g.pidx).toNat < 2 ^ 31)
    if ahead (reelW h) && ahead g.seen && (g.pidx - r).toNat < 256 then some g.pidx else none

/-- Every die that the launch names has finished its placement (R30, R283). -/
def launchOpen (s : State) (id : Nat) : Bool := id == 0 || s.launches.any (fun l => l.id == id && l.waiting.isEmpty)

/-- The stage the cell pops for the context, with the index it would pop. -/
def stagePop (s : State) (c ctx : Nat) : Option (Nat × BitVec 32) :=
  let p := posOf s c ctx
  match p.stage, p.retarget with
  | some i, [] =>
    let g := stageAt s (dieOf c) i
    if g.v && !g.hold && g.ctx.toNat == ctx && launchOpen s g.launch && reelOk (stageReel s (dieOf c) g) then
      (nextIndex s (dieOf c) i).map (fun x => (i, x))
    else none
  | _, _ => none

/-- A choice of dispatch. -/
inductive Pick
  | chan (r : RecvEnd) (n : Note) (m : Msg)
  | completion (m : Msg)
  | stage (i : Nat) (x : BitVec 32)
  | landing (ring : Nat) (m : Msg) (size : Nat)

/-- The rank of a choice within its context: priority, the cycle it became dispatchable, sid, seq. -/
structure Rank where
  pri : Nat
  since : Nat
  sid : Nat
  seq : Nat
  deriving DecidableEq, Repr

def Rank.before (a b : Rank) : Bool :=
  if a.pri != b.pri then decide (a.pri < b.pri)
  else if a.since != b.since then decide (a.since < b.since)
  else if a.sid != b.sid then decide (a.sid < b.sid)
  else decide (a.seq < b.seq)

def rankOf (pri : Nat) (since : Word) (m : Msg) : Rank := ⟨pri, since.toNat, slateSid m.slate, slateSeq m.slate⟩

/-- What became dispatchable in cycle `t` may be dispatched in this one (R296). -/
def ripe (s : State) (t : Word) : Bool := decide (t.toNat < s.cyc.toNat)

def chanPicks (s : State) (c ctx : Nat) : List (Rank × Pick) :=
  (cellAt s c).recvs.filterMap (fun r =>
    if r.ctx != ctx then none
    else
      match r.since, endHead s r with
      | some t, some (n, m) =>
        let m' := asTaken r m
        if ripe s t && bound s c ctx (slateCls m'.slate) then some (rankOf r.pri t m', .chan r n m') else none
      | _, _ => none)

def completionPick (s : State) (c ctx : Nat) : List (Rank × Pick) :=
  let p := posOf s c ctx
  match p.cqHeld, p.cqSince, p.cq with
  | false, some t, m :: _ => if ripe s t && bound s c ctx (slateCls m.slate) then [(rankOf 0 t m, .completion m)] else []
  | _, _, _ => []

def bestPick : List (Rank × Pick) → Option (Rank × Pick)
  | [] => none
  | a :: l =>
    match bestPick l with
    | some b => if b.1.before a.1 then some b else some a
    | none => some a

/-- The queue of the context that a thread 0 to 6 takes from next (R296). -/
def pickOf (s : State) (c ctx : Nat) : Option Pick :=
  match bestPick (chanPicks s c ctx ++ completionPick s c ctx) with
  | some (_, p) => some p
  | none =>
    (stagePop s c ctx).bind (fun (e : Nat × BitVec 32) =>
      if (posOf s c ctx).stageSince.any (ripe s) && bound s c ctx (stageAt s (dieOf c) e.1).cls.toNat then some (.stage e.1 e.2) else none)

/-- The landing packet that thread 7 takes next. -/
def landingPick (s : State) (c ctx : Nat) : Option Pick :=
  match (posOf s c ctx).landings with
  | (ring, m, size) :: _ => if (posOf s c ctx).landSince.any (ripe s) && bound s c ctx 18 then some (.landing ring m size) else none
  | [] => none

def isIdle (s : State) (c : Nat) (t : BitVec 3) : Bool := (thr s c t).phase == .idle

/-- The lowest free thread among 0 to 6. -/
def freeThreadOf (s : State) (c : Nat) : Option (BitVec 3) := ([0, 1, 2, 3, 4, 5, 6] : List (BitVec 3)).find? (isIdle s c)

/-- A thread and what it takes, for one context. -/
def ctxPick (s : State) (c ctx : Nat) : Option (BitVec 3 × Pick) :=
  if !mayDispatch s c ctx then none
  else
    match (freeThreadOf s c).bind (fun t => (pickOf s c ctx).map (fun p => (t, p))) with
    | some e => some e
    | none => if isIdle s c 7 then (landingPick s c ctx).map (fun p => (7, p)) else none

/-- The context that slot `i` of the slot table names, when the slot is valid (R295). -/
def slotCtx (x : Cell) (i : Nat) : Option Nat :=
  let v := (x.slots >>> (4 * (i % 16))).extractLsb' 0 4
  if v[3] then (rget x.pos (v.extractLsb' 0 2)).ctx else none

/-- The contexts of slots s, s + 1, …, from the current slot on (R295). -/
def slotScan (s : State) (c : Nat) : List Nat :=
  (List.range 16).filterMap (fun i => slotCtx (cellAt s c) (s.cyc.toNat / 256 % 16 + i))

def positionCtxs (s : State) (c : Nat) : List Nat := fin4.filterMap (fun p => (rget (cellAt s c).pos p).ctx)

/-- A dispatchable message and a free thread permitted for it (R295). -/
def dispatchWork (s : State) (c ctx : Nat) : Bool := (ctxPick s c ctx).isSome

/-- What the cell would dispatch: slotted contexts in scan order, then the others in position order (R296). -/
def cellPick (s : State) (c : Nat) : Option (Nat × BitVec 3 × Pick) :=
  if isProxy c || (cellAt s c).dispatched == some s.cyc then none
  else (slotScan s c ++ positionCtxs s c).findSome? (fun ctx => (ctxPick s c ctx).map (fun e => (ctx, e.1, e.2)))

/-! ## A take starts (R13, R80) -/

/-- The thread's scratch window at a take's start: each byte is zero or keeps the value of an earlier take of the same context, a free
choice (R79, R183). DESIGN CHOICE (log 1). -/
def freshScratch (s : State) (c : Nat) (t : BitVec 3) (ctx : Nat) : State :=
  let b := (posOf s c ctx).scratch
  if b[63] then
    let ks := keysFrom (locKey c ((b.extractLsb' 0 17).toNat + 2048 * t.toNat)) 2048
    let same := rget (cellAt s c).scrCtx t == some ctx
    let bs := ks.mapIdx (fun i k => if same && Config.scratchKept s.fresh i then memGet s.mem k else 0)
    modCell { s with mem := writeKeys s.mem ks bs, fresh := s.fresh + 1 } c (fun x => { x with scrCtx := rset x.scrCtx t (some ctx) })
  else s

def startTake (s : State) (c : Nat) (t : BitVec 3) (ctx cls : Nat) (m : Msg) (o : Origin) : State :=
  let e := handlerAt s c ctx cls
  let old := thr s c t
  let x : Thread := { Thread.reset with
    m := Vector.ofFn (fun (i : Fin 8) => m.payload.getD i.val 0), slate := m.slate, pc := (e.extractLsb' 0 17).setWidth 64,
    bdgt := (e.extractLsb' 33 20).toNat * 64, ctx := BitVec.ofNat 12 ctx, cls := BitVec.ofNat 5 cls, msg := m, origin := o,
    frame := old.frame, reqseq := old.reqseq, takes := old.takes + 1, phase := .revocable,
    past := { Past.reset with mem := some s.mem } }
  let s := modCell (putThr (freshScratch s c t ctx) c t x) c (fun y => { y with dispatched := some s.cyc })
  perf s c ctx 0x05 1

/-- The payload words that an image in a reel slot holds (Table 12.3). -/
def imagePayload (s : State) (k nw : Nat) : List Word := (List.range nw).map (fun i => word64At s (k + 8 + 8 * i))

/-- The launch that a stage's entry belongs to (R321). -/
def entryLaunch (g : Stage) (x : BitVec 32) : Nat := ((g.tags.find? (fun e => e.1 == x)).map (·.2)).getD g.launch

/-- A stage entry is popped: its index and its message (R288). -/
def popStage (s : State) (c i : Nat) (x : BitVec 32) : Msg × State :=
  let d := dieOf c
  let g := stageAt s d i
  let h := stageReel s d g
  let word := slotWord s (stageHdr d g) h x
  let m : Msg := ⟨slateFor (word 0) g.ctx.toNat 0, (List.range (min 8 (slateNw (word 0)))).map (fun j => word (j + 1)), none, entryLaunch g x⟩
  (m, modStage s d i (fun g =>
    if g.returned.contains x then { g with returned := g.returned.filter (· != x) }
    else { g with pidx := g.pidx + 1, popped := g.popped ++ [x] }))

/-- One dispatch of a cell. -/
def performPick (s : State) (c ctx : Nat) (t : BitVec 3) (p : Pick) : State :=
  match p with
  | .chan r n m => startTake (modRecv s c r.eid (fun r => takeNote r n)) c t ctx (slateCls m.slate) m (.channel r.eid n r.home)
  | .completion m =>
    let s := modPos s c ctx (fun p => { p with cq := p.cq.drop 1, cqSince := none })
    startTake s c t ctx (slateCls m.slate) m .completion
  | .stage i x =>
    let g := stageAt s (dieOf c) i
    let (m, s) := popStage s c i x
    startTake (perf s c ctx 0x07 1) c t ctx g.cls.toNat m (.stage i x g.lid.toNat)
  | .landing ring m size =>
    let s := modPos s c ctx (fun p => { p with landings := p.landings.drop 1, landSince := none })
    startTake s c t ctx 18 m (.landing ring size)

/-- DISPATCH (R13, R296). DESIGN CHOICE (log 8). -/
def dispatchCell (s : State) (c : Nat) : Option State := (cellPick s c).map (fun e => performPick s c e.1 e.2.1 e.2.2)

def execDispatch (cell : Nat) (s : State) : Host.Outcome State Fault Refusal := event s (dispatchCell s cell)

/-! ## What a cycle's end does to queues (R279, R296) -/

/-- The UNBOUND report of a blocked queue (R279, R333). DEDUCED (log 40, 47). -/
def unboundReport (s : State) (c ctx : Nat) (slate : Word) : State :=
  (fileReport s c (mkReport ctx (reportWord0 4 ctx 0xFF 0 c 0 (causeCode .unbound)) 0 slate s.cyc 0 0 [] none)).1

/-- The cycle in which a head of class `cls` that stands bound at the end of this cycle becomes dispatchable: this one, or the next after a
write of its handler entry (R279, R296). -/
def dispatchableFrom (s : State) (c ctx cls : Nat) : Word :=
  let n := tget (posOf s c ctx).boundAt cls 0
  if n == s.cyc + 1 then n else s.cyc

/-- The new mark and report state of a queue whose head has class `cls`. -/
def stamp (s : State) (c ctx : Nat) (isBound : Bool) (cls : Nat) (since : Option Word) (reported : Option Nat) : Option Word × Option Nat × Bool :=
  if isBound then (since.or (some (dispatchableFrom s c ctx cls)), reported, false)
  else if reported.isNone then (none, some cls, true) else (none, reported, false)

def markRecv (c : Nat) (s : State) (r : RecvEnd) : State :=
  match endHead s r with
  | none => if r.since.isNone then s else modRecv s c r.eid (fun r => { r with since := none })
  | some (_, m) =>
    let m' := asTaken r m
    let cls := slateCls m'.slate
    let (since, rep, report) := stamp s c r.ctx (bound s c r.ctx cls) cls r.since r.reported
    let s := if since == r.since && rep == r.reported then s else modRecv s c r.eid (fun r => { r with since := since, reported := rep })
    if report then unboundReport s c r.ctx m'.slate else s

def markCompletion (c : Nat) (s : State) (ctx : Nat) : State :=
  let p := posOf s c ctx
  match p.cqHeld, p.cq with
  | false, m :: _ =>
    let cls := slateCls m.slate
    let (since, rep, report) := stamp s c ctx (bound s c ctx cls) cls p.cqSince p.cqReported
    let s := if since == p.cqSince && rep == p.cqReported then s
      else modPos s c ctx (fun p => { p with cqSince := since, cqReported := rep })
    if report then unboundReport s c ctx m.slate else s
  | _, _ => if p.cqSince.isNone then s else modPos s c ctx (fun p => { p with cqSince := none })

/-- A stage head's mark; one whose class is unbound at the cell is reported once. -/
def markStage (c : Nat) (s : State) (ctx : Nat) : State :=
  let p := posOf s c ctx
  match stagePop s c ctx with
  | none => if p.stageSince.isNone then s else modPos s c ctx (fun p => { p with stageSince := none })
  | some (i, x) =>
    let g := stageAt s (dieOf c) i
    let cls := g.cls.toNat
    let (since, rep, report) := stamp s c ctx (bound s c ctx cls) cls p.stageSince p.stageReported
    let s := if since == p.stageSince && rep == p.stageReported then s
      else modPos s c ctx (fun p => { p with stageSince := since, stageReported := rep })
    if report then unboundReport s c ctx (slateFor (slotWord s (stageHdr (dieOf c) g) (stageReel s (dieOf c) g) x 0) ctx 0) else s

/-- A landing head's mark; one that is unbound is reported once (R14). DEDUCED (log 40). -/
def markLanding (c : Nat) (s : State) (ctx : Nat) : State :=
  let p := posOf s c ctx
  match p.landings with
  | (_, m, _) :: _ =>
    let (since, rep, report) := stamp s c ctx (bound s c ctx 18) 18 p.landSince p.landReported
    let s := if since == p.landSince && rep == p.landReported then s
      else modPos s c ctx (fun p => { p with landSince := since, landReported := rep })
    if report then unboundReport s c ctx m.slate else s
  | [] => if p.landSince.isNone then s else modPos s c ctx (fun p => { p with landSince := none })

def markCell (s : State) (c : Nat) : State :=
  let s := (cellAt s c).recvs.foldl (markRecv c) s
  (positionCtxs s c).foldl (fun s ctx => markLanding c (markStage c (markCompletion c s ctx) ctx) ctx) s

/-! ## Waiting reports (R334) -/

/-- The thread of a report has still to perform what its take owes, which goes before the report (R331). DEDUCED (log 95). -/
def owesEffects (s : State) (c : Nat) (r : Report) : Bool :=
  match r.th with
  | some t => !(thr s c (BitVec.ofNat 3 t)).effects.isEmpty && (thr s c (BitVec.ofNat 3 t)).phase == .reporting
  | none => false

/-- The first waiting report of each context that its ring can take is placed, and its thread becomes free. DESIGN CHOICE (log 92). -/
def flushReports (c : Nat) : List Report → List Nat → State → State
  | [], _, s => s
  | r :: l, blocked, s =>
    if blocked.contains r.ctx then flushReports c l blocked s
    else if owesEffects s c r || reportHeld s c r then flushReports c l (r.ctx :: blocked) s
    else
      match placeReport s c r with
      | none => flushReports c l (r.ctx :: blocked) s
      | some s =>
        let s := modCell s c (fun x => { x with reports := x.reports.erase r })
        let s := match r.th with
          | some t => modThr s c (BitVec.ofNat 3 t) (fun x => { x with phase := if x.phase == .reporting then .idle else x.phase })
          | none => s
        flushReports c l blocked s

/-! ## Counters of cycles (R323) -/

def isRunning (x : Thread) : Bool := x.phase == .revocable || x.phase == .irrevocable

def waitsEvent (x : Thread) : Bool :=
  [rget x.y 14#4, rget x.y 15#4].any (fun y => match y with
    | .pending (.bwait _ _ _ _) => true
    | .pending (.hwbar _ _ _) => true
    | .pending (.mwait _ _) => true
    | _ => false)

/-- The sources a word reads, and the unit it triggers (Tables 3.2, 3.4). -/
def sourcesOf (i : Instr) : List Src × Option (BitVec 4) :=
  match i with
  | .plainMove a _ => ([a], none)
  | .pairWord a _ b _ => ([a, b], none)
  | i => match encode i with
    | [lo, _] => if lo.extractLsb' 0 2 == 1#2 then ([Src.ofBits (lo.extractLsb' 3 7)], some (lo.extractLsb' 10 4)) else ([], none)
    | _ => ([], none)

/-- The unit whose queue takes the thread's next word, where nothing but that queue holds the word back (R40, R42, R43, R77, R208). -/
def presents (s : State) (c : Nat) (t : BitVec 3) : Option (BitVec 4) :=
  let x := thr s c t
  let y := cellAt s c
  if !canIssue x then none
  else
    match fetch s c t with
    | .instr i =>
      match i.trigger?, (sourcesOf i).2 with
      | some (grd, src), some u =>
        if !guardHolds x grd || (readSrc s c t src).isNone then none
        else if u == 13#4 then (if kickWaits s c t i then none else some u)
        else if u == 11#4 || u == 12#4 then
          (if y.efOwner == some t.toNat && decide (y.efReady ≤ s.cyc.toNat) && !engineWaits s c t i then some u else none)
        else none
      | _, _ => none
    | _ => none

/-- The queue of unit `u` is full. -/
def queueFull (x : Cell) (u : BitVec 4) : Bool :=
  (u == 11#4 && decide (2 ≤ x.vxq.length)) || (u == 12#4 && decide (2 ≤ x.mxq.length)) || (u == 13#4 && decide (2 ≤ x.cpq.length))

/-- The performance code of what the thread's next word waits for: a `.y`, or a full trigger queue. -/
def stallCode (s : State) (c : Nat) (t : BitVec 3) : Option Nat :=
  match fetch s c t with
  | .instr i =>
    if (sourcesOf i).1.any (fun a => match a with | .y n => unitBusy (thr s c t) n | _ => false) then some 0x02
    else if (presents s c t).any (fun u => queueFull (cellAt s c) u || (cellAt s c).qWait.contains (u.toNat, t.toNat)) then some 0x03
    else none
  | _ => none

/-- The effect at which a print stands waits for a credit or for a reel slot (R20). -/
def waitsCredit (e : Effect) : Bool :=
  match e with
  | .send (.chan _) _ _ _ _ => true
  | .send (.move _ _ _ _) _ _ _ _ => true
  | .send (.closeSend _ _) _ _ _ _ => true
  | .send (.gate _ _ _ _) _ _ _ _ => true
  | .send (.stage _ _) _ _ _ _ => true
  | _ => false

/-- The print waits for a credit, the close of its lane's end included, for a reel slot or for a slot of a completion queue (R246, R252). -/
def waitsSlot (s : State) (x : Thread) : Bool :=
  match standsAt x with
  | none => laneWaits s x
  | some (.send (.group _ _) _ _ _ _) => true
  | some e => waitsCredit e

/-- The thread issued its last word in this cycle. -/
def issuedNow (s : State) (c : Nat) (t : BitVec 3) : Bool := (cellAt s c).issuedAt == s.cyc.toNat + 1 && (cellAt s c).rr == t

/-- The cycle counts of one thread's take. -/
def perfThread (c : Nat) (s : State) (t : BitVec 3) : State :=
  let x := thr s c t
  let ctx := x.ctx.toNat
  let s := if x.phase == .printing && waitsSlot s x then perf s c ctx 0x0A 1 else s
  if !isRunning x then s
  else
    let s := match (if issuedNow s c t then none else stallCode s c t) with
      | some k => perf s c ctx k 1
      | none => s
    let s := if (cellAt s c).efWait.contains t.toNat then perf s c ctx 0x04 1 else s
    if waitsEvent x then perf s c ctx 0x0E 1 else s

/-- Core cycles: a filtered counter counts while its context is resident. -/
def perfCycle (s : State) (c : Nat) : State :=
  modCell s c (fun x => { x with perfCnt := Vector.ofFn (fun (i : Fin 8) =>
    let w := x.perfSel[i.val]'i.isLt
    let k := x.perfCnt[i.val]'i.isLt
    if w[63] && w.extractLsb' 0 8 == 0#8 && (!w[62] || resident s c (w.extractLsb' 48 12).toNat) then k + 1 else k) })

def perfCell (s : State) (c : Nat) : State :=
  if (cellAt s c).perfSel.toList.all (fun w => !w[63]) then s else allThreads.foldl (perfThread c) (perfCycle s c)

/-! ## Waiting at full queues (R235) -/

/-- The threads that wait for a full trigger queue, in the order in which they began to wait. -/
def markQueues (s : State) (c : Nat) : State :=
  let x := cellAt s c
  let full : BitVec 4 → Bool := queueFull x
  if x.qWait.isEmpty && !full 11#4 && !full 12#4 && !full 13#4 then s
  else
    let now := allThreads.filterMap (fun t => (presents s c t).map (fun u => (u.toNat, t.toNat)))
    let new := now.filter (fun e => full (BitVec.ofNat 4 e.1) && !x.qWait.contains e)
    modCell s c (fun x => { x with qWait := x.qWait.filter now.contains ++ new })

/-- The member cell of a group that a message goes to next. -/
def nextMember (s : State) (ctx d g start : Nat) : Option Nat :=
  let e := groupAt s d g
  ((List.range 256).find? (fun i => decide (start ≤ i) && groupFor e ctx && groupHas e i && resident s (d * 256 + i) ctx)).map (d * 256 + ·)

/-- The producers that stand before a completion queue now (R236). -/
def cqWaiters (s : State) (c ctx : Nat) : List Waiter :=
  s.cells.flatMap (fun e => allThreads.filterMap (fun t =>
    let x := rget e.2.threads t
    match standsAt x with
    | some (.send (.group g start) _ _ _ _) =>
      if x.ctx.toNat == ctx && nextMember s ctx (dieOf e.1) g start == some c then some (.print e.1 t.toNat) else none
    | _ => none)) ++
  s.reqs.filterMap (fun r => match r.kind with
    | .block _ _ _ _ _ => if r.cell == c && r.ctx == ctx && !postedEarlier s r && decide (r.born + Config.requestDelay r.id ≤ s.cyc.toNat) then some (.block r.id) else none
    | _ => none) ++
  s.flights.filterMap (fun f => match f.pkt with
    | .closure _ sid =>
      if f.dst == c && ((findSend (cellAt s c) sid).map (·.ctx)) == some ctx && decide (f.born + Config.packetDelay f.id ≤ s.cyc.toNat) then some (.closure sid)
      else none
    | _ => none) ++
  (match (posOf s c ctx).moved, (posOf s c ctx).retarget with
    | m :: _, _ => if m.written then [.retarget] else []
    | [], (_, new, _) :: _ => if (posOf s c ctx).idstage == BitVec.ofNat 64 (2 ^ 63 + new) then [.retarget] else []
    | [], [] => [])

/-- Producers that wait at a completion queue, in the order in which they began to wait. -/
def markProducers (c : Nat) (s : State) (ctx : Nat) : State :=
  let p := posOf s c ctx
  if p.cqWait.isEmpty && !cqFull s c ctx then s
  else
    let now := cqWaiters s c ctx
    modPos s c ctx (fun p => { p with cqWait := p.cqWait.filter now.contains ++ now.filter (fun w => !p.cqWait.contains w) })

/-- A print, or a held effect of an irrevocable take, that has not gone on in this cycle waits. -/
def markPrint (n : Nat) (x : Thread) : Thread :=
  if (x.phase == .printing || x.phase == .irrevocable) && !x.effects.isEmpty && x.waits.isNone then { x with waits := some n } else x

/-- `rawait` sees in the next cycle what the header says at the end of this one (R235, R267). -/
def markWait (c : Nat) (s : State) (t : BitVec 3) : State :=
  match rget (thr s c t).y 15#4 with
  | .pending (.rawait hdr a i false) =>
    let h := headerAt s hdr
    if !headerWait s c t && reelOk h && slotFilled h i then modThr s c t (fun x => { x with y := rset x.y 15#4 (.pending (.rawait hdr a i true)) })
    else s
  | _ => s

def waitsReel (x : Thread) : Bool :=
  match rget x.y 15#4 with
  | .pending (.rawait _ _ _ false) => true
  | _ => false

/-! ## The clock -/

/-- A copy request that still waits for slots of its reel, or for room in its ring, waits since this cycle or before (R235). -/
def markJob (n : Nat) (j : CopyJob) : CopyJob := if (j.claim.isNone || !j.packets.isEmpty) && j.waits.isNone then { j with waits := some n } else j

/-- A cycle's end at one cell: budgets, marks, reports, counters. -/
def tickCell (s : State) (c : Nat) : State :=
  let s := modCell s c (fun x => { x with
    threads := x.threads.map (fun th => markPrint s.cyc.toNat (if budgeted th then { th with bdgt := th.bdgt - 1 } else th)),
    jobs := x.jobs.map (markJob s.cyc.toNat) })
  let s := (allThreads.filter (fun t => waitsReel (thr s c t))).foldl (markWait c) s
  let s := (positionCtxs s c).foldl (markProducers c) (markQueues s c)
  let s := perfCell (markCell s c) c
  flushReports c (cellAt s c).reports [] s

/-- The stage table learns of the advances of its reels' widx (R288). -/
def markStages (s : State) (d : Nat) : State :=
  if (dieAt s d).stages.toList.all (fun g => !g.v) then s
  else modDie s d (fun x => { x with stages := x.stages.map (fun g => if g.v then { g with seen := reelW (stageReel s d g) } else g) })

/-- Claims whose producer is gone are published unwritten once their turn has come; an invalid header drops them (R263, R264). -/
def publishClaims : List (Nat × BitVec 32) → State → State
  | [], s => s
  | (k, start) :: r, s =>
    let h := word128At s k
    let out := publishClaims r
    if !reelOk h then out s
    else if reelW h == start then out (write128 s k (withW h (start + 1)))
    else out { s with claims := s.claims ++ [(k, start)] }

/-- Cells whose threads may issue a word. -/
def busyCells (s : State) : List Nat := (s.cells.filter (fun e => e.2.threads.toList.any isRunning)).map (·.1)

/-- The clock advances by one cycle (R93). One clock counts the cycles of every die, whatever speeds their PLLs hold (R387, R390).
DESIGN CHOICE (log 109). -/
def tick (s : State) : State :=
  let s := ([0, 1, 2, 3].flatMap (fun d => [0, 1, 2, 3].map (fun n => (d, BitVec.ofNat 2 n)))).foldl (fun s e => wiredEvaluate s e.1 e.2) s
  let s := (listedCells s).foldl tickCell (publishClaims s.claims { s with claims := [] })
  let s := [0, 1, 2, 3].foldl markStages s
  { s with cyc := s.cyc + 1, todo := busyCells s }

end Sys2Proof.Machine
end

