-- ==== Sys2Proof/Machine/Copy.lean ====
section
/-! DEFINITION. The copy engine: requests, tensor descriptors, what a request moves, its record, landing packets and network copies
(11_copy R220–R231, 12_queues R271, 13_tables R294, 16_system R362–R363). -/

namespace Sys2Proof.Machine

/-! ## Tensor descriptors (R222) -/

/-- Every byte lies in some readable region of the context (R222). DEDUCED (log 51). -/
def descReadable (s : State) (c ctx a n : Nat) : Bool :=
  localOk (posOf s c ctx) a n false false || (List.range n).all (fun i => localOk (posOf s c ctx) (a + i) 1 false false)

def descWord (s : State) (c a i : Nat) : Word := word64At s (locKey c (a + 8 * i))

def readDim (s : State) (c a d : Nat) : Dim :=
  let w0 := descWord s c a (4 + 3 * d)
  let w1 := descWord s c a (5 + 3 * d)
  let w2 := descWord s c a (6 + 3 * d)
  ⟨(w0.extractLsb' 0 32).toNat, (w0.extractLsb' 32 32).toNat, (w1.extractLsb' 0 32).toNat, (w2.extractLsb' 0 32).toInt,
    (w2.extractLsb' 32 32).toInt⟩

def descRank (s : State) (c a : Nat) : Nat := ((descWord s c a 0).extractLsb' 0 4).toNat

def readDesc (s : State) (c a : Nat) : Desc :=
  let h := descWord s c a 0
  let w := descWord s c a 2
  ⟨(h.extractLsb' 8 5).toNat, (h.extractLsb' 16 5).toNat, (descWord s c a 1).toNat, w.extractLsb' 32 32, (w.extractLsb' 16 16).toNat,
    w.extractLsb' 0 16, (descWord s c a 3).toInt, (List.range (descRank s c a)).map (readDim s c a)⟩

/-! ## Requests (R220, R221) -/

def reqLanding (j : CopyJob) : Bool := j.w0.extractLsb' 60 4 == 1#4

def reqTr (j : CopyJob) : Bool := j.w0[59]

def reqSeal (j : CopyJob) : Nat := (j.w0.extractLsb' 54 2).toNat

def reqSkind (j : CopyJob) : Nat := (j.w0.extractLsb' 52 2).toNat

def reqDkind (j : CopyJob) : Nat := (j.w0.extractLsb' 50 2).toNat

/-- The pinned-region entry that a handle names, valid and of the context (R294). -/
def pinnedEntry (s : State) (c ctx : Nat) (w : Word) : Option (BitVec 128) :=
  let i := (w.extractLsb' 48 16).toNat
  let e := tget (groveAt s (groveOf c)).pinned i 0
  if i ≤ 4095 && e[127] && (e.extractLsb' 112 12).toNat == ctx then some e else none

/-- A side names a network endpoint (R362). -/
def isNetwork (s : State) (c ctx kind : Nat) (w : Word) : Bool :=
  kind == 2 && (match pinnedEntry s c ctx w with | some e => e.extractLsb' 124 2 == 3#2 | none => false)

def netSource (s : State) (c : Nat) (j : CopyJob) : Bool := isNetwork s c j.ctx (reqSkind j) j.w1

def netDest (s : State) (c : Nat) (j : CopyJob) : Bool := isNetwork s c j.ctx (reqDkind j) j.w2

/-- Where bytes at an offset of a side lie, or the error code (R221, R229). -/
def sideKey (s : State) (c ctx kind : Nat) (w : Word) (off : Int) (n : Nat) (write : Bool) : Except Nat Nat :=
  let a : Int := ((w.extractLsb' 0 56).toNat : Int) + off
  if kind = 0 then
    if a < 0 || !localOk (posOf s c ctx) a.toNat n write false then .error 5 else .ok (locKey c a.toNat)
  else if kind = 1 then
    match grvAddr (groveOf c) (w.extractLsb' 0 56).toNat with
    | none => .error 5
    | some (g, b) =>
      let a : Int := b + off
      if a < 0 || (groveCheck s g ctx a.toNat n write).isSome then .error 5 else .ok (grvKey g a.toNat)
  else
    match pinnedEntry s c ctx w with
    | none => .error 4
    | some e =>
      let a : Int := ((w.extractLsb' 0 48).toNat : Int) + off
      let base := (e.extractLsb' 48 48).toNat
      if a < 0 || decide ((e.extractLsb' 0 48).toNat < a.toNat + n) then .error 4
      else if write && !e[126] then .error 5
      else if e.extractLsb' 124 2 == 3#2 then (if isProtected s ctx then .error 5 else .ok 0)
      else
        let dev := (e.extractLsb' 103 9).toNat
        let k := if e.extractLsb' 124 2 == 0#2 then hbmKey (base + a.toNat)
          else if e.extractLsb' 124 2 == 1#2 then peerKey dev (base + a.toNat)
          else hostKey (base + a.toNat)
        match homeDenies s (hbmUp s) ctx k n write with
        | none => if haltedAt s ctx k n then .error 7 else if e.extractLsb' 124 2 == 1#2 && !Config.peerReached dev then .error 7 else .ok k
        | some .unreachable => .error 7
        | some _ => .error 5

/-- DEDUCED (log 29, 51). -/
def minErr (a b : Nat) : Nat := if a = 0 then b else if b = 0 then a else min a b

/-- DEDUCED (log 51). -/
def errOf (e : Except Nat Nat) : Nat := match e with | .error n => n | .ok _ => 0

/-- Where `n` bytes of a side lie: in local and grove memory each byte has a region or a window of its own (R221). -/
def sideSpan (s : State) (c ctx kind : Nat) (w : Word) (off : Int) (n : Nat) (write : Bool) : Except Nat Nat :=
  if kind < 2 then
    match (List.range n).foldl (fun e (i : Nat) => minErr e (errOf (sideKey s c ctx kind w (off + i) 1 write))) 0 with
    | 0 => sideKey s c ctx kind w off 1 write
    | e => .error e
  else sideKey s c ctx kind w off n write

/-- What is wrong with a side whatever bytes it touches: its pinned-region entry, one not of HBM for a protected context, or the form of its
address (R179, R221, R371). -/
def sideHead (s : State) (c ctx kind : Nat) (w : Word) : Nat :=
  if kind = 1 then (if (grvAddr (groveOf c) (w.extractLsb' 0 56).toNat).isNone then 5 else 0)
  else if kind = 2 then
    match pinnedEntry s c ctx w with
    | none => 4
    | some e => if isProtected s ctx && e.extractLsb' 124 2 != 0#2 then 5 else 0
  else 0

/-! ## The tile (R223) -/

/-- Coordinates of a box, dimension 0 innermost. -/
def boxCoords : List Nat → List (List Nat)
  | [] => [[]]
  | x :: r => (boxCoords r).flatMap (fun c => (List.range x).map (fun i => i :: c))

/-- p: the exchange of dimensions 0 and 1 of a transposing request. -/
def swapDims {α : Type} (tr : Bool) (l : List α) : List α :=
  match tr, l with
  | true, a :: b :: r => b :: a :: r
  | _, l => l

def isInside (dims : List Dim) (c : List Nat) : Bool := (dims.zip c).all (fun e => decide (e.1.org + e.2 < e.1.size))

/-- The linear tensor index of R224. -/
def linearIndex (dims : List Dim) (c : List Nat) : Nat := (dims.zip c).foldr (fun e r => e.1.org + e.2 + e.1.size * r) 0

def offsetOf (l : List (Int × Int)) : Int := (l.map (fun e => e.1 * e.2)).sum

/-- The layout format of a side: a side of code 0 holds elements of the other side's format (R224). -/
def layoutFmt (own other : Nat) : Fmt := ((fmtOfCode (if own = 0 then other else own))).getD .byte

/-- Bits move unchanged (R224). DEDUCED (log 53). -/
def copiesBits (d : Desc) : Bool := d.sfmt == d.dfmt || d.sfmt == 0 || d.dfmt == 0

/-- Bytes of `n` elements of a block format with their scales, or none of a row start that is no whole byte. DEDUCED (log 52). -/
def rowStart (f : Fmt) (off : Int) : Option Int :=
  let bits : Int := if blockLen f = 0 then off * fmtWidth f else off.fdiv (blockLen f) * (fmtWidth f * blockLen f + 8 : Nat)
  if bits.fmod 8 = 0 then some (bits.fdiv 8) else none

/-- Where an element lies: its bit, and the byte of its scale (R109, R223). `start` is the element offset of its row, `i` its index in
the row, `len` the row's length. -/
def elementAt (f : Fmt) (start : Int) (st0 : Int) (i : Nat) (len : Nat) : Int × Option Int :=
  if blockLen f = 0 then ((start + i * st0) * fmtWidth f, none)
  else
    let b := (rowStart f start).getD 0
    (b * 8 + (i * fmtWidth f : Nat), some (b + (len * fmtWidth f / 8 + i / blockLen f : Nat)))

/-- The source of a coordinate. DEDUCED (log 52). -/
def sourceAt (d : Desc) (c : List Nat) : Int × Option Int :=
  match d.dims, c with
  | x :: r, i :: cr =>
    elementAt (layoutFmt d.sfmt d.dfmt) (offsetOf ((r.zip cr).map (fun e => (((e.1.org + e.2 : Nat) : Int), e.1.sst)))) x.sst (x.org + i) x.size
  | _, _ => (0, none)

/-- The destination of a coordinate of the destination box. -/
def destAt (d : Desc) (tr : Bool) (c : List Nat) : Int × Option Int :=
  match d.dims, c with
  | x :: r, i :: cr =>
    elementAt (layoutFmt d.dfmt d.sfmt) (offsetOf ((r.zip cr).map (fun e => ((e.2 : Int), e.1.dst)))) x.dst i ((swapDims tr (d.dims.map (·.ext))).headD 0)
  | _, _ => (0, none)

/-- The band of 64 rows that a side's row belongs to, in the side's own dimensions (R224). DEDUCED (log 53). -/
def bandOf (dims : List Dim) (c : List Nat) : Nat := linearIndex (dims.drop 1) (c.drop 1) / 64

/-- Bands counted from the tile's first. DEDUCED (log 53). -/
def tileBand (dims : List Dim) (c : List Nat) : Nat := bandOf dims c - bandOf dims (c.map (fun _ => 0))

/-! ## The checks before any write (R229) -/

/-- DEDUCED (log 51). -/
def copyHeadBad (s : State) (c : Nat) (j : CopyJob) : Bool :=
  let h := descWord s c (j.w3.toNat) 0
  let d := (h.extractLsb' 0 4).toNat
  decide (1 < (j.w0.extractLsb' 60 4).toNat) || reqSeal j == 3 || reqSkind j == 3 ||
    j.w0.extractLsb' 48 2 != 0 || j.w0.extractLsb' 44 3 != 0 || j.w0.extractLsb' 20 4 != 0 ||
    h.extractLsb' 21 43 != 0 || h.extractLsb' 13 3 != 0 || h.extractLsb' 4 4 != 0 ||
    decide (d < 1) || decide (9 < d) || (reqTr j && decide (d < 2)) ||
    ((netSource s c j || netDest s c j) && (reqLanding j || reqSeal j != 0)) || (netSource s c j && netDest s c j)

def copyBodyBad (s : State) (c : Nat) (j : CopyJob) (d : Desc) : Bool :=
  d.dims.any (fun x => x.size == 0 || x.ext == 0) ||
    (List.range d.dims.length).any (fun i => (descWord s c j.w3.toNat (5 + 3 * i)).extractLsb' 32 32 != 0)

/-- A side's tag is 0 or its format's (R101, R221). -/
def tagFits (w : Word) (fmt : Nat) : Bool := tagValid w && ((w.extractLsb' 59 5).toNat == 0 || (w.extractLsb' 59 5).toNat == fmt)

/-- Block alignment of a side (R223). -/
def blockFits (f : Fmt) (dims : List Dim) (len : Nat) (st : Dim → Int) : Bool :=
  let b := blockLen f
  if b = 0 then true
  else match dims with
    | x :: r => x.org % b == 0 && x.ext % b == 0 && x.size % b == 0 && len % b == 0 && st x == 1 && r.all (fun y => (st y).fmod b == 0)
    | [] => true

/-- Every row start that a side reads or writes is a whole byte (R223). DEDUCED (log 52). -/
def rowsWhole (d : Desc) (tr : Bool) : Bool :=
  (fmtWidth (layoutFmt d.sfmt d.dfmt) % 8 == 0 ||
    (boxCoords ((d.dims.map (·.ext)).set 0 1)).all (fun c => !isInside d.dims c || (sourceAt d c).1.fmod 8 == 0)) &&
  (fmtWidth (layoutFmt d.dfmt d.sfmt) % 8 == 0 ||
    (boxCoords ((swapDims tr (d.dims.map (·.ext))).set 0 1)).all (fun c => (destAt d tr c).1.fmod 8 == 0))

def narrowCode (n : Nat) : Bool := match fmtOfCode n with | some f => decide (fmtWidth f < 8) | none => false

def copyFmtBad (s : State) (c : Nat) (j : CopyJob) (d : Desc) : Bool :=
  let sr := j.w0[57]
  let nan := j.w0[56]
  let df := (fmtOfCode d.dfmt).getD .byte
  let exts := swapDims (reqTr j) (d.dims.map (·.ext))
  decide (20 < d.sfmt) || decide (20 < d.dfmt) ||
    (decide (reqSkind j < 2) && !tagFits j.w1 d.sfmt) || (decide (reqDkind j < 2) && !tagFits j.w2 d.dfmt) ||
    (nan && d.dfmt != 0 && !df.hasNan && blockLen df == 0) || (sr && isIntFmt df && d.dfmt != 0) || (sr && !sliceTagOk d.slice) ||
    (layoutFmt d.dfmt d.sfmt == .lbf4 && d.band != 0 && !bandOk d.band) ||
    (f4Down s (dieOf c) && (narrowCode d.sfmt || narrowCode d.dfmt)) ||
    !blockFits (layoutFmt d.sfmt d.dfmt) d.dims ((d.dims.map (·.size)).headD 0) (·.sst) ||
    !blockFits (layoutFmt d.dfmt d.sfmt) d.dims (exts.headD 0) (·.dst) || !rowsWhole d (reqTr j)

def copyLandBad (j : CopyJob) (d : Desc) : Bool :=
  (reqLanding j != (reqDkind j == 3)) ||
    (reqLanding j && (d.sfmt != d.dfmt || reqTr j || j.w0[58] || j.w0[57] || j.w0[56]))

/-- The bytes that an element touches, checked at its side. -/
def elemErr (s : State) (c ctx kind : Nat) (w : Word) (write : Bool) (width : Nat) (at_ : Int × Option Int) : Nat :=
  minErr (errOf (sideSpan s c ctx kind w (at_.1.fdiv 8) (((at_.1.fmod 8).toNat + width + 7) / 8) write))
    (match at_.2 with | some b => errOf (sideKey s c ctx kind w b 1 write) | none => 0)

def bandErr (s : State) (c ctx kind : Nat) (w : Word) (write : Bool) (d : Desc) (n : Nat) : Nat :=
  errOf (sideSpan s c ctx kind w (d.boff + 2 * n) 2 write)

/-- The access errors of a request's bytes. DEDUCED (log 57). -/
def accessErr (s : State) (c : Nat) (j : CopyJob) (d : Desc) : Nat :=
  let sf := layoutFmt d.sfmt d.dfmt
  let df := layoutFmt d.dfmt d.sfmt
  let tr := reqTr j
  let src := ((boxCoords (d.dims.map (·.ext))).filter (isInside d.dims)).foldl (fun e x =>
    minErr e (minErr (elemErr s c j.ctx (reqSkind j) j.w1 false (fmtWidth sf) (sourceAt d x))
      (if sf == .lbf4 then bandErr s c j.ctx (reqSkind j) j.w1 false d (tileBand d.dims x) else 0))) 0
  let dst := if reqLanding j then
      (match remPlace (j.w2.extractLsb' 0 56).toNat 16 with | .ok _ => 0 | .error _ => 5)
    else (boxCoords (swapDims tr (d.dims.map (·.ext)))).foldl (fun e x =>
      minErr e (minErr (elemErr s c j.ctx (reqDkind j) j.w2 true (fmtWidth df) (destAt d tr x))
        (if df == .lbf4 then bandErr s c j.ctx (reqDkind j) j.w2 true d (tileBand (swapDims tr d.dims) x) else 0))) 0
  minErr (sideHead s c j.ctx (reqSkind j) j.w1) (minErr src dst)

/-- The bytes of a span of a side include one that `inside` names. -/
def spanIn (s : State) (c ctx kind : Nat) (w : Word) (off : Int) (n : Nat) (write : Bool) (inside : Nat → Bool) : Bool :=
  match sideSpan s c ctx kind w off n write with
  | .ok k => (List.range n).any (fun i => inside (k + i))
  | .error _ => false

/-- An element of a side, its scale or its band scale lies at a byte that `inside` names. -/
def elemIn (s : State) (c ctx kind : Nat) (w : Word) (write : Bool) (f : Fmt) (d : Desc) (band : Nat) (at_ : Int × Option Int)
    (inside : Nat → Bool) : Bool :=
  spanIn s c ctx kind w (at_.1.fdiv 8) (((at_.1.fmod 8).toNat + fmtWidth f + 7) / 8) write inside ||
    at_.2.any (fun b => spanIn s c ctx kind w b 1 write inside) ||
    (f == .lbf4 && spanIn s c ctx kind w (d.boff + 2 * band) 2 write inside)

/-- A protected context's request, its checks passed, has yet to read or write a byte that `inside` names (R383). DEDUCED (log 57). -/
def jobHolds (s : State) (c : Nat) (inside : Nat → Bool) (j : CopyJob) : Bool :=
  let d := j.desc
  let tr := reqTr j
  isProtected s j.ctx && j.err == 0 && !j.moved && !j.dead &&
    (((boxCoords (d.dims.map (·.ext))).filter (isInside d.dims)).any (fun x =>
      elemIn s c j.ctx (reqSkind j) j.w1 false (layoutFmt d.sfmt d.dfmt) d (tileBand d.dims x) (sourceAt d x) inside) ||
    (!reqLanding j && (boxCoords (swapDims tr (d.dims.map (·.ext)))).any (fun x =>
      elemIn s c j.ctx (reqDkind j) j.w2 true (layoutFmt d.dfmt d.sfmt) d (tileBand (swapDims tr d.dims) x) (destAt d tr x) inside)))

/-- The key slot of a sealing side: a pinned handle to HBM whose entry names a slot that holds a key (R230). DEDUCED (log 56). -/
def sealSlot (s : State) (c : Nat) (j : CopyJob) (kind : Nat) (w : Word) : Option (BitVec 6) :=
  if kind != 2 then none
  else (pinnedEntry s c j.ctx w).bind (fun e =>
    let k := e.extractLsb' 96 6
    if e.extractLsb' 124 2 == 0#2 && e[102] && (rget s.keys k).v then some k else none)

/-- DEDUCED (log 56). -/
def sealBad (s : State) (c : Nat) (j : CopyJob) : Bool :=
  (reqSeal j == 1 && (sealSlot s c j (reqDkind j) j.w2).isNone) || (reqSeal j == 2 && (sealSlot s c j (reqSkind j) j.w1).isNone)

/-- The first check that fails, the lowest code first (Table 11.6). DEDUCED (log 51). -/
def copyError (s : State) (c : Nat) (j : CopyJob) : Nat :=
  let a := j.w3.toNat
  if !descReadable s c j.ctx a 32 then 5
  else if copyHeadBad s c j then 1
  else if !descReadable s c j.ctx a (32 + 24 * descRank s c a) then (if reqLanding j != (reqDkind j == 3) then 3 else 5)
  else
    let d := readDesc s c a
    if copyBodyBad s c j d then 1
    else if copyFmtBad s c j d then 2
    else if copyLandBad j d then 3
    else minErr (accessErr s c j d) (if sealBad s c j then 6 else 0)

/-! ## Reading (R224, R226, R230) -/

/-- Block `b` of a range, its MAC checked and decrypted under a pinned-region entry's key. A protected context's grove engine opens its own
sealing first; the MAC array holds that engine's MACs (R230, R371). DEDUCED, DESIGN CHOICE (log 56). -/
def unsealBlock (s : State) (ctx : Nat) (r : SealedRange) (slot : BitVec 6) (b : Nat) : Option (Except Nat (List Byte)) :=
  if isProtected s ctx then
    match homeRead s ctx (hbmKey (r.base.toNat + 256 * b)) 256 with
    | .ok bs =>
      let key := (rget s.keys slot).key
      some (if tget s.innerMacs (r.base.toNat + 256 * b) 0 == blockMac key b (bytesToVec bs) then
        .ok (leBytes 256 (xtsDecrypt key b (bytesToVec bs)).toNat) else .error 6)
    | .refused _ => some (.error 5)
    | .ecc => some (.error 7)
    | .wait => none
  else
    match openBlock s { r with sw := false, slot := slot } b with
    | some bs => some (.ok bs)
    | none => some (.error 6)

def unsealAll (s : State) (ctx : Nat) (r : SealedRange) (slot : BitVec 6) : List Nat → Option (Except Nat (List Byte))
  | [] => some (.ok [])
  | b :: l =>
    match unsealBlock s ctx r slot b with
    | none => none
    | some (.error e) => some (.error e)
    | some (.ok bs) => (unsealAll s ctx r slot l).map (fun o => o.map (fun rest => bs ++ rest))

/-- Bytes at a side's offset: none while a sealed block waits; the error of a read that fails. DEDUCED (log 57); DESIGN CHOICE (log 58). -/
def readSide (s : State) (c : Nat) (j : CopyJob) (off : Int) (n : Nat) : Option (Except Nat (List Byte)) :=
  if netSource s c j then
    let e := (pinnedEntry s c j.ctx j.w1).getD 0
    some (.ok ((List.range n).map (fun (i : Nat) => Config.netByte e.toNat (((j.w1.extractLsb' 0 48).toNat : Int) + off + (i : Int)).toNat s.fresh)))
  else
    match sideSpan s c j.ctx (reqSkind j) j.w1 off n false with
    | .error e => some (.error e)
    | .ok k =>
      match (if reqSeal j = 2 then sealSlot s c j (reqSkind j) j.w1 else none) with
      | some slot =>
        match s.ranges.toList.find? (fun r => r.v && decide (r.base.toNat ≤ k - 2 ^ 60) && decide (k - 2 ^ 60 + n ≤ r.base.toNat + r.len.toNat)) with
        | none => some (.error 6)
        | some r =>
          let pa := k - 2 ^ 60
          (unsealAll s j.ctx r slot (blocksOf r pa n)).map (fun o => o.map (fun bs => (bs.drop ((pa - r.base.toNat) % 256)).take n))
      | none =>
        match homeRead s j.ctx k n with
        | .ok bs => some (.ok bs)
        | .refused _ => some (.error 5)
        | .ecc => some (.error 7)
        | .wait => none

/-- `width` bits at a bit offset of the source. -/
def readBits (s : State) (c : Nat) (j : CopyJob) (bit : Int) (width : Nat) : Option (Except Nat Nat) :=
  let sh := (bit.fmod 8).toNat
  (readSide s c j (bit.fdiv 8) ((sh + width + 7) / 8)).map (fun r => r.map (fun bs => leNat bs / 2 ^ sh % 2 ^ width))

/-- An inside element as it is read: its code, its scale byte, its band scale, its linear index. -/
structure Read where
  code : Nat
  scale : Nat
  band : Nat
  index : Nat
  deriving DecidableEq, Repr

/-- Reads one element with its scale and band scale. -/
def readElem (s : State) (c : Nat) (j : CopyJob) (d : Desc) (x : List Nat) : Option (Except Nat Read) := do
  let f := layoutFmt d.sfmt d.dfmt
  let (bit, sc) := sourceAt d x
  let code ← readBits s c j bit (fmtWidth f)
  let scale ← (match sc with | some b => readBits s c j (8 * b) 8 | none => some (.ok 0))
  let band ← (if f == .lbf4 then readBits s c j (8 * (d.boff + 2 * tileBand d.dims x)) 16 else some (.ok 0))
  return (do
    let code ← code
    let scale ← scale
    let band ← band
    if f == .lbf4 && !bandOk band then .error 2
    return ⟨code, scale, band, linearIndex d.dims x⟩)

/-- Reads every element of the destination box; none in the place of an outside element. DEDUCED (log 55). -/
def readAll (s : State) (c : Nat) (j : CopyJob) (d : Desc) : List (List Nat) → Option (Except Nat (List (List Nat × Option Read)))
  | [] => some (.ok [])
  | x :: r =>
    (readAll s c j d r).bind (fun rest =>
      match rest with
      | .error e => some (.error e)
      | .ok l =>
        let y := swapDims (reqTr j) x
        if !isInside d.dims y then some (.ok ((x, none) :: l))
        else (readElem s c j d y).map (fun e => e.map (fun v => (x, some v) :: l)))

/-! ## Converting (R224, R225) -/

/-- The exact value of an element read. -/
def readValue (d : Desc) (r : Read) : FV :=
  let f := layoutFmt d.sfmt d.dfmt
  if blockLen f = 0 then decodeElem f r.code else mulV (scaleValue f r.band r.scale) (decodeElem f r.code)

/-- The rounding of an element: its draw is that of its linear tensor index (R113, R224). -/
def modeOf (j : CopyJob) (d : Desc) (r : Read) : RMode :=
  if j.w0[57] then .stoch (draw d.seed (sliceOf d.slice) (BitVec.ofNat 32 r.index)).toNat else .rne

/-- The scale of a destination whose elements keep their bits: that of its elements. A transposing request can bring elements with different
scales together; which scale they get there is a free value (R224). DESIGN CHOICE (log 54). -/
def keptScale (l : List Nat) : Nat :=
  match l.eraseDups with
  | [x] => x
  | l => (Config.turnedScale l).toNat

/-- Codes and scale of one destination block, quantised from its inside elements (R115–R117, R224). -/
def blockCodes (j : CopyJob) (d : Desc) (f : Fmt) (band : Nat) (l : List (Option Read)) : List Nat × Nat :=
  let ins := l.filterMap id
  let fill := d.fill % 2 ^ fmtWidth f
  if ins.isEmpty then (l.map (fun _ => fill), 0)
  else if copiesBits d then
    (l.map (fun e => match e with | some r => r.code | none => fill), keptScale (ins.map (·.scale)) % 256)
  else
    let q := quantBlock f j.w0[56] band (ins.map (fun r => (readValue d r, modeOf j d r)))
    (l.foldl (fun (a : List Nat × List Nat) e =>
      match e, a.2 with
      | some _, k :: ks => (a.1 ++ [k], ks)
      | _, ks => (a.1 ++ [fill], ks)) ([], q.codes) |>.1, q.scales.headD 0)

/-- The code of one element of a destination without blocks. -/
def plainCode (j : CopyJob) (d : Desc) (f : Fmt) (e : Option Read) : Nat :=
  match e with
  | none => d.fill % 2 ^ fmtWidth f
  | some r => if copiesBits d then r.code else (convert f (modeOf j d r) j.w0[56] (readValue d r)).bits

/-- Bits to write: bit offset, width, value. -/
abbrev Put := Int × Nat × Nat

def plainPuts (j : CopyJob) (d : Desc) (f : Fmt) (es : List (List Nat × Option Read)) : List Put :=
  es.map (fun e => ((destAt d (reqTr j) e.1).1, fmtWidth f, plainCode j d f e.2))

/-- The elements of the destination band with number `b`. -/
def bandReads (j : CopyJob) (d : Desc) (es : List (List Nat × Option Read)) (b : Nat) : List Read :=
  (es.filter (fun e => tileBand (swapDims (reqTr j) d.dims) e.1 == b)).filterMap (·.2)

/-- The band scale of a destination band (R116, R224). DEDUCED (log 53); DESIGN CHOICE (log 54). -/
def destBand (j : CopyJob) (d : Desc) (es : List (List Nat × Option Read)) (b : Nat) : Nat :=
  let rs := bandReads j d es b
  if copiesBits d && !rs.isEmpty then keptScale (rs.map (·.band))
  else if d.band ≠ 0 then d.band else bandScale (rs.map (readValue d)) false

/-- The elements, scales and band scales of a block-format destination. Elements come in destination order, whole blocks together.
DEDUCED (log 54). -/
def blockPuts (j : CopyJob) (d : Desc) (f : Fmt) (band : Nat → Nat) : Nat → List (List Nat × Option Read) → List Put
  | 0, _ => []
  | fuel + 1, es =>
    match es with
    | [] => []
    | (x, _) :: _ =>
      let l := es.take (blockLen f)
      let (codes, scale) := blockCodes j d f (band (tileBand (swapDims (reqTr j) d.dims) x)) (l.map (·.2))
      let puts := (l.zip codes).map (fun e => ((destAt d (reqTr j) e.1.1).1, fmtWidth f, e.2))
      let sc := match (destAt d (reqTr j) x).2 with | some b => [((8 * b, 8, scale) : Put)] | none => []
      puts ++ sc ++ blockPuts j d f band fuel (es.drop (blockLen f))

/-- Every bit that the request writes. DEDUCED (log 54). -/
def allPuts (j : CopyJob) (d : Desc) (es : List (List Nat × Option Read)) : List Put :=
  let f := layoutFmt d.dfmt d.sfmt
  if blockLen f = 0 then plainPuts j d f es
  else
    let bands := (es.map (fun e => tileBand (swapDims (reqTr j) d.dims) e.1)).eraseDups
    let table := if f == .lbf4 then bands.map (fun b => (b, destBand j d es b)) else []
    let band := fun b => ((table.find? (fun e => e.1 == b)).map (·.2)).getD 0
    blockPuts j d f band es.length es ++ table.map (fun e => (8 * (d.boff + 2 * e.1), 16, e.2))

/-- The amax word of the record: inside elements, magnitudes before rounding (R225). Where both formats are 0 the bytes carry no value (R103), and
the word is 0. DESIGN CHOICE (log 118). -/
def copyAmax (j : CopyJob) (d : Desc) (es : List (List Nat × Option Read)) : Word :=
  if j.w0[58] && !(d.sfmt == 0 && d.dfmt == 0) then amaxAll 0 (es.filterMap (fun e => e.2.map (readValue d))) else 0

/-- Destination bytes written, fill and scales included. -/
def putBytes (ps : List Put) : Nat := ((ps.map (fun p => p.2.1)).sum + 7) / 8

/-! ## Writing -/

/-- A byte image under construction, by byte offset. -/
abbrev Image := List (Int × Byte)

def imageAt (rd : Int → Byte) (m : Image) (k : Int) : Byte := ((m.find? (fun e => e.1 == k)).map (·.2)).getD (rd k)

def imageSet : Image → Int → Byte → Image
  | [], k, b => [(k, b)]
  | (k', b') :: r, k, b =>
    if k < k' then (k, b) :: (k', b') :: r else if k' = k then (k, b) :: r else (k', b') :: imageSet r k b

/-- Writes bits into the image, byte by byte. -/
def imagePut (rd : Int → Byte) (m : Image) (p : Put) : Image :=
  let (bit, width, v) := p
  let k := bit.fdiv 8
  let sh := (bit.fmod 8).toNat
  let n := (sh + width + 7) / 8
  let cur := leNat ((List.range n).map (fun (i : Nat) => imageAt rd m (k + i)))
  let new := cur % 2 ^ sh + v % 2 ^ width * 2 ^ sh + cur / 2 ^ (sh + width) * 2 ^ (sh + width)
  (List.range n).foldl (fun m (i : Nat) => imageSet m (k + i) (BitVec.ofNat 8 (new / 256 ^ i))) m

/-- DEDUCED (log 52). -/
def imageOf (rd : Int → Byte) (ps : List Put) : Image := ps.foldl (imagePut rd) []

/-- Current destination bytes that a sub-byte write keeps. -/
def destByte (s : State) (c : Nat) (j : CopyJob) (k : Int) : Byte :=
  if reqLanding j || netDest s c j then 0
  else match sideKey s c j.ctx (reqDkind j) j.w2 k 1 false with
    | .ok key => (match homeRead s j.ctx key 1 with | .ok (b :: _) => b | _ => 0)
    | .error _ => 0

/-- The image's bytes with their keys. -/
def imageKeys (s : State) (c : Nat) (j : CopyJob) (m : Image) : List (Nat × Byte) :=
  m.filterMap (fun e => match sideKey s c j.ctx (reqDkind j) j.w2 e.1 1 true with | .ok k => some (k, e.2) | .error _ => none)

/-- Sealed destination: whole 256-B blocks of one sealed range, under the entry's key slot; a protected context's grove engine seals them once
more, and keeps the entry's MACs apart (R230, R371). DEDUCED, DESIGN CHOICE (log 56). -/
def sealBlocks (s : State) (ctx : Nat) (r : SealedRange) (slot : BitVec 6) : Nat → List (Nat × Byte) → Option State
  | 0, _ => some s
  | fuel + 1, l =>
    match l with
    | [] => some s
    | (k, _) :: _ =>
      let b := (k - 2 ^ 60 - r.base.toNat) / 256
      let bs := (l.take 256).map (·.2)
      let key := (rget s.keys slot).key
      let x := xtsEncrypt key b (bytesToVec bs)
      let s' := if isProtected s ctx then
          (homeWrite s ctx k (leBytes 256 x.toNat)).map (fun s => { s with innerMacs := tput s.innerMacs (r.base.toNat + 256 * b) (blockMac key b x) })
        else some (sealBlock s r slot b bs)
      s'.bind (fun s => sealBlocks s ctx r slot fuel (l.drop 256))

/-- The bytes form whole aligned blocks. -/
def wholeBlocks : Nat → List Nat → Bool
  | 0, l => l.isEmpty
  | fuel + 1, l =>
    match l with
    | [] => true
    | k :: _ => k % 256 == 0 && l.take 256 == keysFrom k 256 && wholeBlocks fuel (l.drop 256)

/-- Writes the destination: the state, or an error found before anything is written; none while a sealed block waits. Writes to a peer or the host
fire the watch entries that name them (R272). DEDUCED (log 55). -/
def writeDest (s : State) (c : Nat) (j : CopyJob) (m : Image) : Option (Except Nat State) :=
  let l := imageKeys s c j m
  if reqSeal j = 1 then
    match sealSlot s c j (reqDkind j) j.w2, l with
    | some slot, (k, _) :: _ =>
      match s.ranges.toList.find? (fun r => r.v && decide (r.base.toNat ≤ k - 2 ^ 60) &&
          l.all (fun e => decide (r.base.toNat ≤ e.1 - 2 ^ 60) && decide (e.1 - 2 ^ 60 < r.base.toNat + r.len.toNat))) with
      | some r =>
        if wholeBlocks (l.length + 1) (l.map (·.1)) then (sealBlocks s j.ctx r slot l.length l).map .ok else some (.error 6)
      | none => some (.error 6)
    | _, _ => some (.error 6)
  else if isProtected s j.ctx then (sealedParts j.ctx (partsOf l) s).map .ok
  else some (.ok (fireWatches (applyWrite s (l.map (·.1)) (l.map (·.2))) ((l.map (·.1)).filter isSystemKey)))

/-! ## Jobs -/

def modJob (s : State) (c : Nat) (order : Nat) (f : CopyJob → CopyJob) : State :=
  modCell s c (fun x => { x with jobs := x.jobs.map (fun j => if j.order == order then f j else j) })

def dropJob (s : State) (c : Nat) (j : CopyJob) : State :=
  modCell s c (fun x => { x with
    jobs := x.jobs.filter (fun k => k.order != j.order),
    fifo := if (match (rget x.fifo j.entry).st with | .kicked o _ => o == j.order | _ => false) then rset x.fifo j.entry (freedEntry s)
      else x.fifo })

/-- The oldest kicked entry that no job serves. -/
def oldestKicked (x : Cell) : Option (BitVec 4 × Nat) :=
  ((List.range 16).map (BitVec.ofNat 4)).foldl (fun (best : Option (BitVec 4 × Nat)) i =>
    match (rget x.fifo i).st with
    | .kicked o _ =>
      if x.jobs.any (fun j => j.order == o) then best
      else match best with
        | some (_, o') => if o < o' then some (i, o) else best
        | none => some (i, o)
    | _ => best) none

/-- A copy request in progress uses the entry (R233, R294). -/
def pinnedInUse (s : State) (g i : Nat) : Bool :=
  s.cells.any (fun e => groveOf e.1 == g && e.2.jobs.any (fun j =>
    (reqSkind j == 2 && (j.w1.extractLsb' 48 16).toNat == i) || (reqDkind j == 2 && (j.w2.extractLsb' 48 16).toNat == i)))

/-- The changes of pinned-region entries that wait and whose entry no request uses are made, in their order (R233, R294). -/
def drainPinned (s : State) : State :=
  let go := s.pinnedWrites.filter (fun p => !pinnedInUse s p.1 p.2.1)
  let s' := { s with pinnedWrites := s.pinnedWrites.filter (fun p => pinnedInUse s p.1 p.2.1) }
  go.foldl (fun s p => modGrove s p.1 (fun x => { x with pinned := tput x.pinned p.2.1 p.2.2 })) s'

/-- COPY_START (R222, R226): the descriptor is read and checked. At most two requests are in progress, the second once the first has issued its
reads. -/
def copyStart (s : State) (c : Nat) : Option State :=
  let s := drainPinned s
  let x := cellAt s c
  if 2 ≤ x.jobs.length || x.jobs.any (fun j => !j.moved) then none
  else (oldestKicked x).map (fun e =>
    let f := rget x.fifo e.1
    let j : CopyJob := ⟨e.1, e.2, f.ctx, f.launch, f.w0, f.w1, f.w2, f.w3, 0, none, [], false, 0, 0, false, false, none,
      readDesc s c f.w3.toNat⟩
    modCell s c (fun x => { x with jobs := x.jobs ++ [{ j with err := copyError s c j }] }))

def execCopyStart (cell : Nat) (s : State) : Host.Outcome State Fault Refusal := event s (copyStart s cell)

/-- Landing packets of 256 B with their m1, m2, m3 (R231). -/
def landingPackets (tag : Word) : Nat → Nat → List Byte → List (List Byte × Word × Word)
  | 0, _, _ => []
  | fuel + 1, i, bs =>
    if bs.isEmpty then []
    else
      let last := bs.length ≤ 256
      (bs.take 256, BitVec.ofNat 64 (256 * i),
        tag ||| BitVec.ofNat 64 (i % 2 ^ 32 * 2 ^ 16) ||| (if last then 0x8000000000000000#64 else 0)) :: landingPackets tag fuel (i + 1) (bs.drop 256)

/-- The data of a request that has claimed its slots: it is read, converted and written, or cut into landing packets. A read can report an
uncorrectable error (R229). A landing image is the bytes written, by ascending destination offset and without the gaps between them, the last written
where two elements meet. DEDUCED (log 55, 59); DESIGN CHOICE (log 86, 129). -/
def moveJob (s : State) (c : Nat) (j : CopyJob) : Option State :=
  let d := j.desc
  let fail : Nat → State := fun e => modJob s c j.order (fun j => { j with err := e, bytes := 0, amax := 0, moved := true, network := false })
  if s.copyErrors.contains j.order then some (fail 7)
  else (readAll s c j d (boxCoords (swapDims (reqTr j) (d.dims.map (·.ext))))).bind (fun r =>
    match r with
    | .error e => some (fail e)
    | .ok es =>
      let ps := allPuts j d es
      let img := imageOf (destByte s c j) ps
      let done : CopyJob → CopyJob := fun j => { j with bytes := putBytes ps, amax := copyAmax j d es, moved := true, network := false }
      if reqLanding j then
        some (modJob s c j.order (fun j =>
          { done j with packets := landingPackets (j.w0 &&& 0xFFFF#64) img.length 0 (img.map (·.2)) }))
      else if netDest s c j then some (modJob s c j.order (fun j => { done j with network := true }))
      else
        (writeDest s c j img).map (fun w =>
          match w with
          | .error e => fail e
          | .ok s => modJob s c j.order done))

/-- COPY_CLAIM (R227): the slots are claimed, and the data moves. A source beyond the network waits for its answer, and the next request with it
(R209, R212). A header whose slots are smaller than 16 B is an invalid one (R263), so its request is discarded without record. DESIGN CHOICE (log 128). -/
def copyClaim (s : State) (c : Nat) : Option State :=
  ((cellAt s c).jobs.find? (fun j => j.claim.isNone)).bind (fun (j : CopyJob) =>
    let k := jobReel c j
    let h := word128At s k
    if !reelOk h then some (dropJob s c j)
    else
      let want := (j.w0.extractLsb' 16 4).toNat + 1
      let small := decide (2 ^ reelK h < want)
      let n := if small then 1 else want
      if !reelRoom h n || reelAhead s k (j.waits.getD s.cyc.toNat) then none
      else
        let err := if small then 1 else j.err
        let s := write128 s k (withC h (reelC h + BitVec.ofNat 32 n))
        let j' := { j with claim := some (reelC h, n), err := err, waits := none }
        let s := modJob s c j.order (fun _ => if err != 0 then { j' with moved := true } else if netSource s c j then { j' with network := true } else j')
        if err != 0 || netSource s c j then some s else moveJob s c j')

def execCopyClaim (cell : Nat) (s : State) : Host.Outcome State Fault Refusal := event s (copyClaim s cell)

/-- A request that nothing holds back, whose turn on its reel has come. -/
def publishable (s : State) (c : Nat) (j : CopyJob) : Bool :=
  match j.claim with
  | some (start, _) =>
    let h := word128At s (jobReel c j)
    j.moved && j.packets.isEmpty && !j.network && (!reelOk h || reelW h == start)
  | none => false

/-- The completion record (Table 11.5). DEDUCED (log 59). -/
def recordBytes (j : CopyJob) : List Byte :=
  leBytes 8 ((j.w0.toNat % 2 ^ 16) * 2 ^ 48 + j.err % 256 * 2 ^ 32 + j.bytes % 2 ^ 32) ++ leBytes 8 j.amax.toNat

/-- COPY_PUBLISH (R227, R228): the record goes into the first slot, and the reel's write index advances. DEDUCED (log 78). -/
def copyPublish (s : State) (c : Nat) : Option State :=
  ((cellAt s c).jobs.find? (publishable s c)).map (fun (j : CopyJob) =>
    let k := jobReel c j
    let h := word128At s k
    match j.claim with
    | some (start, n) =>
      if !reelOk h then dropJob s c j
      else
        let s := if j.dead then s else applyWrite s (slotKeys k h start 16) (recordBytes j)
        dropJob (write128 s k (withW (word128At s k) (start + BitVec.ofNat 32 n))) c j
    | none => s)

def execCopyPublish (cell : Nat) (s : State) : Host.Outcome State Fault Refusal := event s (copyPublish s cell)

/-! ## Landing (R231, R271) -/

def ringQ (h : BitVec 128) : Nat := (h.extractLsb' 64 5).toNat

def ringOk (h : BitVec 128) : Bool := decide (9 ≤ ringQ h) && decide (ringQ h ≤ 16) && h.extractLsb' 69 59 == 0

/-- Bytes a packet takes in its ring. DEDUCED (log 39). -/
def ringNeed (n : Nat) : Nat := 32 + 16 * ((n + 15) / 16)

/-- The packet's bytes as the ring holds them. -/
def ringImage (bs : List Byte) (m2 m3 : Word) : List Byte :=
  leBytes 8 bs.length ++ leBytes 8 m2.toNat ++ leBytes 8 m3.toNat ++ List.replicate 8 0 ++ bs

/-- Places a packet in a ring of cell `c`; none while the ring has no room for it, its header is invalid, it lies in no writable region of the context
there, or the cell does not hold the context. DEDUCED, DESIGN CHOICE (log 39). -/
def placeLanding (s : State) (c ring ctx launch : Nat) (p : List Byte × Word × Word) : Option State :=
  let k := locKey c ring
  let h := word128At s k
  let q := ringQ h
  let w := h.extractLsb' 0 32
  let need := ringNeed p.1.length
  if !resident s c ctx || !ringOk h || (peerCheck s c ctx ring (16 + 2 ^ q) true).isSome ||
      decide (2 ^ q < (w - h.extractLsb' 32 32).toNat + need) then none
  else
    let img := ringImage p.1 p.2.1 p.2.2
    let s := applyWrite s ((List.range img.length).map (fun i => k + 16 + (w.toNat + i) % 2 ^ q)) img
    let s := write128 s k (h.extractLsb' 32 96 ++ (w + BitVec.ofNat 32 need))
    let (m, s) := raised s c ctx 18 0 [BitVec.ofNat 64 ((w.toNat + 32) % 2 ^ q), BitVec.ofNat 64 p.1.length, p.2.1, p.2.2] launch
    some (modPos s c ctx (fun x => { x with landings := x.landings ++ [(ring, m, need)] }))

/-- The place of the landing ring that the request fills. -/
def jobRing (j : CopyJob) : Option (Nat × Nat) :=
  match remPlace (j.w2.extractLsb' 0 56).toNat 16 with
  | .ok (.away (.loc cell off)) => some (cell, off)
  | _ => none

/-- A packet that waits for room in the ring began to wait before cycle `n`: it is served first (R235). -/
def ringAhead (s : State) (cell off n : Nat) : Bool :=
  s.cells.any (fun e => e.2.jobs.any (fun j =>
    !j.packets.isEmpty && j.waits.any (fun w => decide (w < n)) && jobRing j == some (cell, off)))

/-- LANDING_PACKET: the next packet of the oldest landing request of the cell. DEDUCED (log 39). -/
def landingPacket (s : State) (c : Nat) : Option State :=
  ((cellAt s c).jobs.find? (fun j => !j.packets.isEmpty)).bind (fun (j : CopyJob) =>
    match j.packets, jobRing j with
    | p :: r, some (cell, off) =>
      if ringAhead s cell off (j.waits.getD s.cyc.toNat) then none
      else (placeLanding s cell off j.ctx j.launch p).map (fun s => modJob s c j.order (fun j => { j with packets := r, waits := none }))
    | _, _ => none)

def execLandingPacket (cell : Nat) (s : State) : Host.Outcome State Fault Refusal := event s (landingPacket s cell)

/-! ## The network (R362, R363) -/

/-- RDMA_ACK: a WRITE is acknowledged, or a READ's bytes have landed. DESIGN CHOICE (log 58). -/
def rdmaAck (s : State) (c : Nat) : Option State :=
  ((cellAt s c).jobs.find? (·.network)).bind (fun (j : CopyJob) =>
    if netSource s c j then (moveJob s c j).map (fun s => { s with fresh := s.fresh + 1 })
    else some (modJob s c j.order (fun j => { j with network := false })))

def execRdmaAck (cell : Nat) (s : State) : Host.Outcome State Fault Refusal := event s (rdmaAck s cell)

/-- QUEUE_PAIR_ERROR: the copy ends with error 7 and the bytes written so far: at the remote end some number of them, a free value; here none, as
a READ's bytes land together. DESIGN CHOICE (log 58). -/
def queuePairError (s : State) (c : Nat) : Option State :=
  ((cellAt s c).jobs.find? (·.network)).map (fun (j : CopyJob) =>
    let n := if netSource s c j then 0 else min (Config.pairBytes s.fresh) j.bytes
    { modJob s c j.order (fun j => { j with err := 7, bytes := n, amax := 0, network := false, moved := true }) with fresh := s.fresh + 1 })

def execQueuePairError (cell : Nat) (s : State) : Host.Outcome State Fault Refusal := event s (queuePairError s cell)

/-- UNSUPPORTED_RDMA_ARRIVAL: answered at the port as the standard's remote-operation error; the device's state does not change.
DESIGN CHOICE (log 88). -/
def execUnsupportedRdmaArrival (_port : Nat) (s : State) : Host.Outcome State Fault Refusal := .next s

end Sys2Proof.Machine
end

