-- ==== Sys2Proof/Machine/Launch.lean ====
section
/-! DEFINITION. Launches: placement on a die, completion and its counters, the stage balancer, and the records that tell the host
(04_registers R89–R92, 13_tables R280–R292, 14_counters R321–R322, 16_system R353–R355). -/

namespace Sys2Proof.Machine

/-! ## Launch descriptors (Table 13.3) -/

def descNat (d : List Byte) (off n : Nat) : Nat := leNat ((d.drop off).take n)

def descPlace (d : List Byte) : Nat := descNat d 0 8 % 8

def descStages (d : List Byte) : Nat := descNat d 0 8 / 2 ^ 8 % 32 + 1

def descDims (d : List Byte) : Nat := descNat d 0 8 / 2 ^ 16 % 4 + 1

def descN (d : List Byte) : Nat := descNat d 0 8 / 2 ^ 24 % 16

def descGroups (d : List Byte) : Nat := descNat d 0 8 / 2 ^ 32 % 16

def descTag (d : List Byte) : Nat := descNat d 0 8 / 2 ^ 48

def descDone (d : List Byte) : Word := BitVec.ofNat 64 (descNat d 0x10 8)

def descSeeds (d : List Byte) : Word := BitVec.ofNat 64 (descNat d 0x18 8)

/-- DEDUCED (log 60). -/
def descSeedCount (d : List Byte) : Nat := descNat d 0x20 2

def descSize (d : List Byte) (i : Nat) : Nat := descNat d (0x30 + 4 * i) 4

def descTile (d : List Byte) (i : Nat) : Nat := descNat d (0x40 + 4 * i) 4

/-- A stage record. -/
structure StageRec where
  cls : Nat
  k : Nat
  min : Nat
  init : Nat
  max : Nat
  grove : Nat
  hdr : Nat
  deriving DecidableEq, Repr

def stageRec (d : List Byte) (i : Nat) : StageRec :=
  let w := descNat d (0x60 + 16 * i) 16
  ⟨w % 32, w / 2 ^ 8 % 16, w / 2 ^ 16 % 512, w / 2 ^ 32 % 512, w / 2 ^ 48 % 512, w / 2 ^ 64 % 16, w / 2 ^ 80 % 2 ^ 24⟩

def stageRecs (d : List Byte) : List StageRec := (List.range (descStages d)).map (stageRec d)

/-- A group record: index and mask. -/
def groupRec (d : List Byte) (i : Nat) : Nat × BitVec 256 :=
  let o := 0x60 + 16 * descStages d + 48 * i
  (descNat d o 1, BitVec.ofNat 256 (descNat d (o + 8) 32))

def groupRecs (d : List Byte) : List (Nat × BitVec 256) := (List.range (descGroups d)).map (groupRec d)

/-- A place reference of a descriptor is well formed; `.loc` only in a launch that a take submitted (R281). -/
def placeRefOk (byTake : Bool) (w : Word) : Bool :=
  match refSpace w false with
  | some .grv => (grvAddr 0 (w.extractLsb' 0 56).toNat).isSome && w.extractLsb' 0 4 == 0
  | some .loc => byTake && w.extractLsb' 0 4 == 0
  | _ => false

def stageRecOk (r : StageRec) : Bool :=
  decide (r.cls ≤ 15) && decide (r.k ≤ 12) && decide (1 ≤ r.min) && decide (r.min ≤ r.init) && decide (r.init ≤ r.max) &&
    decide (r.max ≤ 256) && r.hdr % 16 == 0

/-- Validate (R283): a failure is status 1. DEDUCED (log 60). -/
def descOk (byTake : Bool) (d : List Byte) : Bool :=
  let w0 := descNat d 0 8
  decide (descPlace d ≤ 4) && w0 / 2 ^ 3 % 2 ^ 5 == 0 && w0 / 2 ^ 13 % 2 ^ 3 == 0 && w0 / 2 ^ 18 % 2 ^ 6 == 0 && w0 / 2 ^ 28 % 2 ^ 4 == 0 &&
    w0 / 2 ^ 36 % 2 ^ 12 == 0 && decide (descN d ≤ 10) && decide (descGroups d ≤ 8) && descNat d 0x08 8 == 0 && descNat d 0x28 8 == 0 &&
    descNat d 0x50 16 == 0 && (descDone d == 0 || placeRefOk byTake (descDone d)) &&
    placeRefOk byTake (descSeeds d) && decide (descSeedCount d ≤ 2 ^ (stageRec d 0).k) &&
    (List.range (descDims d)).all (fun i => decide (1 ≤ descSize d i) && decide (1 ≤ descTile d i)) && (stageRecs d).all stageRecOk

def isTake (b : Submitter) : Bool := match b with | .take _ _ => true | .host _ _ _ _ => false

/-- Where a place reference leads on die `d`, and whether the context may access `n` bytes there (R281, R285). -/
def launchPlace (s : State) (l : Launch) (d : Nat) (w : Word) (n : Nat) (wr : Bool) : Option Nat :=
  let a := (w.extractLsb' 0 56).toNat
  match refSpace w false with
  | some .grv =>
    (grvAddr (d * 16 + (stageRec l.desc 0).grove) a).bind (fun (e : Nat × Nat) =>
      if (groveCheck s e.1 l.ctx e.2 n wr).isNone then some (grvKey e.1 e.2) else none)
  | some .loc =>
    match l.by_ with
    | .take c _ => if localOk (posOf s c l.ctx) a n wr false then some (locKey c a) else none
    | .host _ _ _ _ => none
  | _ => none

/-- Every 16-B part of `n` bytes can be read, or written, by the launch's context, and lies where the first part's place puts it. -/
def launchSpan (s : State) (l : Launch) (d : Nat) (w : Word) (n : Nat) (wr : Bool) : Bool :=
  match launchPlace s l d w 16 wr with
  | none => n == 0
  | some k => (List.range (n / 16)).all (fun i => launchPlace s l d (w + BitVec.ofNat 64 (16 * i)) 16 wr == some (k + 16 * i))

/-! ## Completion records of the host (R354, R355) -/

/-- Writes waiting records while the completion ring has room: it is full where `cqtail − cqhead` is 2^k (R354). Each interrupt follows its record. -/
def flushRecords (f : BitVec 4) : Nat → State → State
  | 0, s => s
  | fuel + 1, s =>
    let p := rget s.parts f
    let k := (p.cqk.extractLsb' 0 4).toNat
    match p.records with
    | [] => s
    | (w0, w1, irq) :: r =>
      if k < 4 || 12 < k || (p.cqtail - p.cqhead).toNat == 2 ^ k then s
      else
        let phase : Word := if p.cqtail.toNat / 2 ^ k % 2 = 0 then 0x8000#64 else 0
        let a := hostKey (p.cqbase.toNat + 16 * (p.cqtail.toNat % 2 ^ k))
        let s := applyWrite s (keysFrom a 16) (leBytes 8 (w0 ||| phase).toNat ++ leBytes 8 w1.toNat)
        let s := { s with parts := rset s.parts f { p with records := r, cqtail := p.cqtail + 1 } }
        let s := match irq with
          | some v => if v ≤ (p.ctl.extractLsb' 32 11).toNat then raiseVector s f v else s
          | none => s
        flushRecords f fuel s

/-- A record joins the partition's queue (Table 16.4). -/
def postRecord (s : State) (f : Nat) (tag status : Nat) (index : BitVec 32) (ctx : Nat) (irq : Option Nat) : State :=
  let b := BitVec.ofNat 4 f
  let w0 := BitVec.ofNat 64 (tag * 2 ^ 48 + status * 2 ^ 32 + index.toNat % 2 ^ 16 * 2 ^ 16 + ctx)
  let p := rget s.parts b
  let s := { s with parts := rset s.parts b { p with records := p.records ++ [(w0, s.cyc, irq)] } }
  flushRecords b (p.records.length + 1) s

/-! ## The end of a launch (R286) -/

def modLaunch (s : State) (id : Nat) (f : Launch → Launch) : State :=
  { s with launches := s.launches.map (fun l => if l.id == id then f l else l) }

def dropLaunch (s : State) (id : Nat) : State := { s with launches := s.launches.filter (fun l => l.id != id) }

/-- The lowest-numbered die the launch names. -/
def firstDie (d : List Byte) : Nat := if descPlace d < 4 then descPlace d else 0

/-- The done reel's header, where there is one that the context may write. -/
def doneReel (s : State) (l : Launch) : Option Nat :=
  if descDone l.desc == 0 then none
  else (launchPlace s l (firstDie l.desc) (descDone l.desc) 16 true).bind (fun (k : Nat) => if reelOk (word128At s k) then some k else none)

/-- The done reel is named and cannot be written, its header or its slots (R263, R286). -/
def doneBad (s : State) (l : Launch) : Bool :=
  descDone l.desc != 0 && (match doneReel s l with
    | none => true
    | some k => !launchSpan s l (firstDie l.desc) (descDone l.desc) (16 + 2 ^ (reelK (word128At s k) + reelZ (word128At s k))) true)

/-- The host's record of a launch, if the host submitted it. -/
def hostRecord (s : State) (l : Launch) (tag status : Nat) : State :=
  match l.by_ with
  | .take _ _ => s
  | .host f i v irq => postRecord s f tag status i l.ctx (if irq then some v.toNat else none)

/-- The launch is gone; a host's completion ring gets its record. -/
def closeLaunch (s : State) (l : Launch) : State := dropLaunch (hostRecord s l (descTag l.desc) l.status) l.id

/-- The context may write slot `start` of the done reel. -/
def doneSlotOk (s : State) (l : Launch) (k : Nat) (start : BitVec 32) : Bool :=
  let o := reelSlot (word128At s k) start
  launchPlace s l (firstDie l.desc) (descDone l.desc + BitVec.ofNat 64 o) 16 true == some (k + o)

/-- The done record goes into its claimed slot and is published; none while earlier claims of the reel are not. Where the slot cannot be written
the record is discarded (R264, R286). -/
def publishDone (s : State) (l : Launch) (k : Nat) (start : BitVec 32) : Option State :=
  let h := word128At s k
  if reelW h != start then none
  else
    let s' := if doneSlotOk s l k start then
        applyWrite s (slotKeys k h start 16) (leBytes 8 (descTag l.desc * 2 ^ 48 + l.status * 2 ^ 32) ++ leBytes 8 s.cyc.toNat)
      else s
    some (write128 s' k (withW (word128At s' k) (start + 1)))

/-- The launch ends with its status: a slot of the done reel is claimed, its record published, and it is gone. None while it waits. Where the reel
cannot be written there is no record (R264, R286). -/
def endLaunch (s : State) (l : Launch) : Option State :=
  match doneReel s l with
  | none => some (closeLaunch s l)
  | some k =>
    let h := word128At s k
    match l.claim with
    | some start => (publishDone s l k start).map (fun s => closeLaunch s l)
    | none =>
      if doneBad s l then some (closeLaunch s l)
      else if !reelRoom h 1 || reelAhead s k ((l.waits.map (·.1)).getD s.cyc.toNat) then none
      else
        let s := write128 s k (withC h (reelC h + 1))
        some (match publishDone s l k (reelC h) with
          | some s => closeLaunch s l
          | none => modLaunch s l.id (fun x => { x with status := l.status, claim := some (reelC h) }))

/-! ## Groups (R292) -/

/-- Valid entries of the die, other than `i`, that name cell number `n` of the die. -/
def groupsNaming (s : State) (d i n : Nat) : Nat :=
  ((dieAt s d).groups.filter (fun e => e.1 != i && e.2[63] && groupHas e.2 n)).length

/-- The entry would put a cell into a fifth group. -/
def fifthGroup (s : State) (d i : Nat) (e : BitVec 384) : Bool :=
  e[63] && (List.range 256).any (fun n => groupHas e n && decide (4 ≤ groupsNaming s d i n))

def putGroup (s : State) (d i : Nat) (e : BitVec 384) : State := modDie s d (fun x => { x with groups := tput x.groups i e })

/-- A launch's entry for a group record. -/
def groupEntry (ctx : Nat) (mask : BitVec 256) : BitVec 384 := mask ++ (0#64) ++ (8#4) ++ BitVec.ofNat 12 ctx ++ (0#48)

/-- Writes group records in order: the state, the entries replaced, and whether all were accepted. -/
def writeGroups (d ctx : Nat) : List (Nat × BitVec 256) → Tab (BitVec 384) → State → State × Tab (BitVec 384) × Bool
  | [], old, s => (s, old, true)
  | (i, m) :: r, old, s =>
    let cur := groupAt s d i
    let new := groupEntry ctx m
    if (cur[63] && !groupFor cur ctx) || fifthGroup s d i new then
      (putGroup s d i (cur ||| BitVec.ofNat 384 (2 ^ 62)), old, false)
    else writeGroups d ctx r (if old.any (fun e => e.1 == i) then old else old ++ [(i, cur)]) (putGroup s d i new)

/-! ## Identity registers and handles (R89, R91, R284) -/

/-- Origins, extents and idslice of the `i`-th of `c` cells of the first stage (R89). -/
def firstStageId (d : List Byte) (c i : Nat) : List Nat × List Nat × Nat :=
  let dims := List.range (descDims d)
  let nt := dims.map (fun j => (descSize d j + descTile d j - 1) / descTile d j)
  let tiles := nt.foldl (· * ·) 1
  let coords := (nt.foldl (fun (a : List Nat × Nat) n => (a.1 ++ [a.2 % n], a.2 / n)) ([], i)).1
  let orgs := (coords.zip dims).map (fun e => e.1 * descTile d e.2)
  let exts := (orgs.zip dims).map (fun e => min (descTile d e.2) (descSize d e.2 - e.1))
  let first := i * 2 ^ descN d / c
  let last := (i + 1) * 2 ^ descN d / c
  let slice := descN d * 2 ^ 32 + first * 2 ^ 16 + (last - first)
  if tiles ≤ i then ([], [0, 0, 0, 0], slice) else (orgs, exts ++ List.replicate (4 - exts.length) 1, slice)

def regs4 (l : List Nat) (dflt : Nat) : RegFile 2 Word := Vector.ofFn (fun (i : Fin 4) => BitVec.ofNat 64 (l.getD i.val dflt))

/-- Writes a cell's identity registers, after the writes of idstage that ended moves still owed: no take of the context runs there now (R91, R291).
`i` is its index among the cells of the first stage, if it is one. -/
def writeIds (s : State) (c ctx : Nat) (d : List Byte) (stage : Nat) (first : Option (Nat × Nat)) : State :=
  let (orgs, exts, slice) := match first with
    | some (n, i) => firstStageId d n i
    | none => ([], (List.range (descDims d)).map (descSize d), descN d * 2 ^ 32)
  modPos s c ctx (fun p => { p with
    idorg := regs4 orgs 0, idext := regs4 exts 1, idslice := BitVec.ofNat 64 slice, idstage := BitVec.ofNat 64 (2 ^ 63 + stage),
    stage := some stage, stageReported := none, moved := p.moved.map (fun m => { m with written := true }) })

/-- Stage send ends of the launch in handle-store entries 32 upward at one cell (R284). -/
def writeHandles (die lid ctx : Nat) (es : List Nat) (s : State) (c : Nat) : State :=
  modPos s c ctx (fun p => { p with
    hstore := (es.zip (List.range es.length)).foldl (fun t e => tput t (32 + e.2) (mkHandle 3 ctx (stageEid die lid e.1) c)) p.hstore })

/-! ## Placement (R283) -/

/-- The cells of a die that hold the context. -/
def dieCells (s : State) (d ctx : Nat) : List Nat :=
  (listedCells s).filter (fun c => decide (c < 1024) && dieOf c == d && resident s c ctx)

/-- DEDUCED (log 61). -/
def freeCells (s : State) (d ctx : Nat) : List Nat := (dieCells s d ctx).filter (fun c => (posOf s c ctx).stage.isNone)

def freeStages (s : State) (d : Nat) : List Nat := (List.range 32).filter (fun i => !(stageAt s d i).v)

/-- A take of the context runs at the cell. -/
def takesRun (s : State) (c ctx : Nat) : Bool :=
  (cellAt s c).threads.toList.any (fun x => x.phase != .idle && x.phase != .reporting && x.ctx.toNat == ctx)

/-- Cells dealt out by the stages' initial allotments. -/
def deal : List Nat → List Nat → List (List Nat)
  | [], _ => []
  | n :: r, cs => cs.take n :: deal r (cs.drop n)

def stageOf (l : Launch) (lid : BitVec 8) (r : StageRec) : Stage :=
  ⟨true, false, BitVec.ofNat 12 l.ctx, BitVec.ofNat 5 r.cls, BitVec.ofNat 4 r.k, BitVec.ofNat 9 r.min, BitVec.ofNat 9 r.max,
    BitVec.ofNat 9 r.init, BitVec.ofNat 4 r.grove, lid, BitVec.ofNat 24 (r.hdr / 16), 0, [], [], l.id, 0, [], 0, 0⟩

/-- The position serves no stage: its moves not yet carried out are still owed their write of idstage and their message (R291). -/
def leaveStage (p : Position) : Position :=
  { p with stage := none, retarget := [], moved := p.moved ++ p.retarget.map (fun m => ⟨m.1, m.2.1, m.2.2, false⟩) }

/-- Frees the die's share: its stage entries become invalid and its cells free (R283). DEDUCED (log 61). -/
def freeShare (s : State) (l : Launch) (p : Placement) : State :=
  let s := p.stages.foldl (fun s i => modStage s p.die i (fun _ => Stage.reset)) s
  p.cells.foldl (fun s c => modPos s c l.ctx leaveStage) s

/-- Undoes a die's placement (R283). -/
def undoPlacement (l : Launch) (s : State) (p : Placement) : State :=
  freeShare (p.groups.foldl (fun s e => putGroup s p.die e.1 e.2) s) l p

/-- A refusal: the placements made are undone, and the launch ends with the status, once its record can be published (R285, R286). -/
def refuseLaunch (s : State) (l : Launch) (status : Nat) : State :=
  let s := l.placed.foldl (undoPlacement l) s
  let l' := { l with status := status, waiting := [], placed := [] }
  let s := modLaunch s l.id (fun _ => l')
  (endLaunch s l').getD s

/-- The slot image of a seed with its slate (R280). -/
def seedImage (s : State) (ctx cls seq k : Nat) : List Byte :=
  let m : Msg := ⟨mkSlate ctx cls (slateNw (word64At s k)) false 0 seq 0 0xFFFFF, imagePayload s k 8, none, 0⟩
  msgImage m

/-- Seeds enter the first stage's reel, each with the next number of the die's launch unit. -/
def seedAll (d ctx cls hdr : Nat) : List Nat → State → State
  | [], s => s
  | k :: r, s =>
    let h := word128At s hdr
    let img := seedImage s ctx cls ((dieAt s d).seedCtr % 65536) k
    let s := applyWrite s (slotKeys hdr h (reelC h) 128) img
    let s := write128 s hdr (withW (withC h (reelC h + 1)) (reelW h + 1))
    seedAll d ctx cls hdr r (modDie s d (fun x => { x with seedCtr := x.seedCtr + 1 }))

/-- The address of a launch's `j`-th seed image. -/
def seedAddr (l : Launch) (j : Nat) : Word := descSeeds l.desc + BitVec.ofNat 64 (128 * j)

/-- Every stage reel's header can be written, and every seed image read, by the context (R285). -/
def reelsOk (s : State) (l : Launch) (d : Nat) : Bool :=
  (stageRecs l.desc).all (fun r => (groveCheck s (d * 16 + r.grove) l.ctx r.hdr 16 true).isNone) &&
    (List.range (descSeedCount l.desc)).all (fun j => launchSpan s l d (seedAddr l j) 128 false)

/-- Reel headers and seeds (the fourth step). -/
def writeReels (s : State) (l : Launch) (d : Nat) : State :=
  let s := (stageRecs l.desc).foldl (fun s r => write128 s (grvKey (d * 16 + r.grove) r.hdr) (mkReel 0 7 r.k 0 0 0)) s
  let r := stageRec l.desc 0
  seedAll d l.ctx r.cls (grvKey (d * 16 + r.grove) r.hdr)
    ((List.range (descSeedCount l.desc)).filterMap (fun j => launchPlace s l d (seedAddr l j) 16 false)) s

/-- The cells of a placement by descriptor stage. -/
def lotsOf (l : Launch) (p : Placement) : List (List Nat) := deal ((stageRecs l.desc).map (·.init)) p.cells

/-- The first step on a die that has room: stage entries and cells are allotted (R283). A launch takes the die's next number, modulo 256, whether a
launch in progress holds it or not. DEDUCED (log 61); DESIGN CHOICE (log 130). -/
def allot (s : State) (l : Launch) (d : Nat) : State :=
  let recs := stageRecs l.desc
  let es := (freeStages s d).take recs.length
  let lid := (dieAt s d).nextLid
  let cells := (freeCells s d l.ctx).take ((recs.map (·.init)).sum)
  let p : Placement := ⟨d, lid.toNat, es, cells, [], dieCells s d l.ctx⟩
  let s := modDie s d (fun x => { x with nextLid := x.nextLid + 1 })
  let s := (es.zip recs).foldl (fun s e => modStage s d e.1 (fun _ => stageOf l lid e.2)) s
  let s := ((lotsOf l p).zip es).foldl (fun s e => e.1.foldl (fun s c => modPos s c l.ctx (fun x => { x with stage := some e.2 })) s) s
  modLaunch s l.id (fun l => { l with placed := l.placed ++ [p] })

/-- Identity registers of a cell, where it is allotted, and the handles of the launch's stages (R89, R91, R284). -/
def writeCell (l : Launch) (p : Placement) (s : State) (c : Nat) : State :=
  let lots := lotsOf l p
  let n0 := (lots.headD []).length
  let s := ((lots.zip p.stages).zip (List.range lots.length)).foldl (fun s e =>
    (e.1.1.zip (List.range e.1.1.length)).foldl (fun s x =>
      if x.1 = c then writeIds s c l.ctx l.desc e.1.2 (if e.2 = 0 then some (n0, x.2) else none) else s) s) s
  writeHandles p.die p.lid l.ctx p.stages s c

/-- The cells at which the second step can be made now: no take of the context runs there (R91, R284). -/
def readyCells (s : State) (l : Launch) (p : Placement) : List Nat := p.todo.filter (fun c => !takesRun s c l.ctx)

/-- The third to fifth step on a die: groups, reels with seeds, counters (R283). DEDUCED (log 61). -/
def finishPlacement (s : State) (l : Launch) (p : Placement) : State :=
  let d := p.die
  let (s, old, ok) := writeGroups d l.ctx (groupRecs l.desc) [] s
  let l' := { l with
    placed := l.placed.map (fun q => if q.die == d then { p with groups := old, todo := [] } else q), waiting := l.waiting.filter (· != d) }
  if !ok then refuseLaunch s l' 2
  else if !reelsOk s l d then refuseLaunch s l' 4
  else
    let s := p.stages.foldl (fun s i => modStage s d i (fun g => { g with seen := 0, tags := [] })) (writeReels s l d)
    modLaunch s l.id (fun _ => { l' with armed := if descSeedCount l.desc = 0 then l.armed ++ [d] else l.armed })

/-- The second step, at the cells that are ready; once it is made at every cell, the others follow. -/
def writeReady (s : State) (l : Launch) (p : Placement) : Option State :=
  let now := readyCells s l p
  if now.isEmpty && !p.todo.isEmpty then none
  else
    let s := now.foldl (writeCell l p) s
    let p' := { p with todo := p.todo.filter (fun c => !now.contains c) }
    some (if p'.todo.isEmpty then finishPlacement s l p'
      else modLaunch s l.id (fun l => { l with placed := l.placed.map (fun q => if q.die == p.die then p' else q) }))

/-- A die the launch names on which it can never be placed (R285, R389). -/
def neverPlaced (s : State) (l : Launch) : Bool :=
  let need := ((stageRecs l.desc).map (·.init)).sum
  (l.waiting ++ l.placed.map (·.die)).any (fun d => capBit s 56 d || decide ((dieCells s d l.ctx).length < need))

/-- A die's launch unit goes on with a launch: it refuses it, allots its entries and cells, or writes at cells. -/
def placeNext (s : State) (d : Nat) (l : Launch) : Option State :=
  match l.placed.find? (fun p => p.die == d) with
  | some p => writeReady s l p
  | none =>
    if !descOk (isTake l.by_) l.desc then some (refuseLaunch s l 1)
    else if doneBad s l then some (refuseLaunch s l 4)
    else if neverPlaced s l then some (refuseLaunch s l 3)
    else if !dieRuns s d || decide ((freeStages s d).length < descStages l.desc) ||
        decide ((freeCells s d l.ctx).length < ((stageRecs l.desc).map (·.init)).sum) then none
    else some (allot s l d)

/-- LAUNCH_PLACEMENT: the next launch of the context in the die's order, unless its context is being killed; or the record of one that was
refused (R283, R285, R286, R387, R389). DEDUCED (log 60, 61). -/
def launchPlacement (s : State) (d ctx : Nat) : Option State :=
  if s.kills.any (fun k => k.ctx == ctx) then none
  else
    ((s.launches.find? (fun l => l.ctx == ctx && l.waiting.contains d)).bind (placeNext s d)).or
      (s.launches.findSome? (fun l => if l.ctx == ctx && l.status != 0 then endLaunch s l else none))

def execLaunchPlacement (die ctx : Nat) (s : State) : Host.Outcome State Fault Refusal := event s (launchPlacement s die ctx)

/-! ## Completion counters (R321, R322) -/

def threadOf (id : Nat) (x : Thread) : Bool := x.phase != .idle && x.phase != .reporting && x.msg.launch == id

/-- An item of the launch lies at the cell (R321). -/
def cellItems (id : Nat) (x : Cell) : Bool :=
  x.threads.toList.any (threadOf id) || x.jobs.any (fun j => j.launch == id) ||
    x.fifo.toList.any (fun f => f.launch == id && (match f.st with | .kicked _ _ => true | _ => false)) ||
    x.homes.any (fun h => h.slots.any (fun e => e.2.msg.launch == id)) ||
    x.pos.toList.any (fun p => p.cq.any (fun m => m.launch == id) || p.landings.any (fun e => e.2.1.launch == id))

/-- An effect of the launch is not acknowledged. -/
def reqItem (id : Nat) (r : Req) : Bool :=
  r.launch == id && (match r.kind with
    | .posted _ _ _ => true
    | .block _ _ _ _ _ => true
    | _ => false)

def flightItem (id g : Nat) (f : Flight) : Bool :=
  match f.pkt with
  | .data _ _ _ _ _ _ _ m => m.launch == id && groveOf f.dst == g
  | _ => false

/-- Entries of the launch in stage reels of the grove that are published and not released (R321). -/
def stageItems (s : State) (id g : Nat) : Bool :=
  (List.range 32).any (fun i =>
    let e := stageAt s (g / 16) i
    e.v && e.grove.toNat == g % 16 && (
      let h := stageReel s (g / 16) e
      reelOk h && (List.range (min (reelW h - reelR h).toNat (2 ^ reelK h))).any (fun n =>
        let x := reelR h + BitVec.ofNat 32 n
        entryLaunch e x == id && (decide ((e.pidx - reelR h).toNat ≤ n) || e.popped.contains x))))

/-- The grove's counter of the launch is not zero. DEDUCED (log 61). -/
def groveBusy (s : State) (id g : Nat) : Bool :=
  s.cells.any (fun e => groveOf e.1 == g && cellItems id e.2) || s.reqs.any (fun r => groveOf r.cell == g && reqItem id r) ||
    s.flights.any (flightItem id g) || (groveAt s g).gates.any (fun e => match e.2.held with | some m => m.msg.launch == id | none => false) ||
    stageItems s id g

def findLaunch (s : State) (id : Nat) : Option Launch := s.launches.find? (fun l => l.id == id)

/-- COMPLETION_UP: a grove's counter has risen from 0. -/
def completionUp (s : State) (id g : Nat) : Option State :=
  (findLaunch s id).bind (fun (l : Launch) =>
    if !l.up.contains g && groveBusy s id g then some (modLaunch s id (fun l => { l with up := l.up ++ [g] })) else none)

def execCompletionUp (launch grove : Nat) (s : State) : Host.Outcome State Fault Refusal := event s (completionUp s launch grove)

/-- COMPLETION_CONFIRM: the report is confirmed; once the seeds' grove is, the die's placement item is retired. -/
def completionConfirm (s : State) (id g : Nat) : Option State :=
  (findLaunch s id).bind (fun (l : Launch) =>
    if !l.up.contains g || l.confirmed.contains g then none
    else
      let d := g / 16
      let seeds := g == d * 16 + (stageRec l.desc 0).grove && l.placed.any (fun p => p.die == d) && !l.armed.contains d
      some (modLaunch s id (fun l => { l with confirmed := l.confirmed ++ [g], armed := if seeds then l.armed ++ [d] else l.armed })))

def execCompletionConfirm (launch grove : Nat) (s : State) : Host.Outcome State Fault Refusal := event s (completionConfirm s launch grove)

/-- The die's counter is 0: no grove of it reports, and its placement item is retired. DEDUCED (log 61). -/
def dieQuiet (l : Launch) (d : Nat) : Bool := l.armed.contains d && l.up.all (fun g => g / 16 != d)

/-- Shares that have come to an end are freed (R283). -/
def freeQuiet (s : State) (l : Launch) : State :=
  if !l.waiting.isEmpty then s
  else
    let s := (l.placed.filter (fun p => dieQuiet l p.die && !p.stages.isEmpty)).foldl (fun s p => freeShare s l p) s
    modLaunch s l.id (fun l => { l with placed := l.placed.map (fun p => if dieQuiet l p.die then { p with stages := [], cells := [] } else p) })

/-- The device's counter is 0: the launch is complete (R322). -/
def launchComplete (l : Launch) : Bool := l.status == 0 && l.waiting.isEmpty && l.up.isEmpty && l.placed.all (fun p => l.armed.contains p.die)

/-- The grove's DOWN, as far as its counter is 0 and its UP confirmed. -/
def lowerGrove (s : State) (l : Launch) (g : Nat) : Option State :=
  if l.confirmed.contains g && !groveBusy s l.id g then
    some (modLaunch s l.id (fun l => { l with up := l.up.filter (· != g), confirmed := l.confirmed.filter (· != g) }))
  else none

/-- What follows at the die and the device: a share is freed, and a complete launch publishes its record. -/
def settleLaunch (s : State) (id : Nat) : Option State :=
  (findLaunch s id).bind (fun (l : Launch) =>
    let free := l.waiting.isEmpty && l.placed.any (fun p => dieQuiet l p.die && !p.stages.isEmpty)
    let s' := freeQuiet s l
    if launchComplete l then (endLaunch s' l).or (if free then some s' else none)
    else if free then some s' else none)

/-- A launch that still waits for a slot of its done reel waits since this cycle or before (R235). -/
def markLaunch (s : State) (l : Launch) : Launch :=
  if l.claim.isNone && l.waits.isNone && (l.status != 0 || launchComplete l) then { l with waits := (doneReel s l).map (fun k => (s.cyc.toNat, k)) }
  else l

/-- COMPLETION_DOWN: a grove's counter has fallen to 0; a launch complete at the top ends. -/
def completionDown (s : State) (id g : Nat) : Option State :=
  match (findLaunch s id).bind (fun l => lowerGrove s l g) with
  | some s' => some ((settleLaunch s' id).getD s')
  | none => settleLaunch s id

def execCompletionDown (launch grove : Nat) (s : State) : Host.Outcome State Fault Refusal := event s (completionDown s launch grove)

/-! ## The stage balancer (R289–R291) -/

def ilogOf (d : Die) : Nat := (d.balancer.extractLsb' 32 5).toNat

/-- The placement of the launch on the die has come to its end. DEDUCED (log 61). -/
def placedOn (s : State) (d id : Nat) : Bool := !s.launches.any (fun l => l.id == id && l.waiting.contains d)

/-- BALANCER_SAMPLE: every 64 cycles the fill of each valid stage that is placed is accumulated. -/
def balancerSample (s : State) (d : Nat) : Option State :=
  if s.cyc.toNat % 64 ≠ 0 then none
  else some ((List.range 32).foldl (fun s i =>
    let g := stageAt s d i
    if !g.v || !placedOn s d g.launch then s
    else
      let h := stageReel s d g
      modStage s d i (fun g => { g with acc := g.acc + min (reelW h - reelR h).toNat (2 ^ g.k.toNat) })) s)

def execBalancerSample (die : Nat) (s : State) : Host.Outcome State Fault Refusal := event s (balancerSample s die)

/-- Mean fill per allotted cell in units of 2^-16 (R290). -/
def fillOf (ns : Nat) (g : Stage) : Nat := 2 ^ 16 * g.acc / (ns * 2 ^ g.k.toNat * g.cur.toNat)

/-- The valid stages not held, with their fills. -/
def fills (s : State) (d ns : Nat) : List (Nat × Nat) :=
  (List.range 32).filterMap (fun i =>
    let g := stageAt s d i
    if g.v && !g.hold && placedOn s d g.launch then some (i, fillOf ns g) else none)

/-- Inserts by decreasing fill, ties by index. -/
def fillInsert (e : Nat × Nat) : List (Nat × Nat) → List (Nat × Nat)
  | [] => [e]
  | f :: r => if f.2 < e.2 then e :: f :: r else f :: fillInsert e r

/-- The donor of a receiving stage: the least fill, ties to the lowest index. -/
def donorOf (s : State) (d rc : Nat) (l : List (Nat × Nat)) : Option (Nat × Nat) :=
  l.foldl (fun (best : Option (Nat × Nat)) e =>
    let g := stageAt s d e.1
    if e.1 == rc || g.lid != (stageAt s d rc).lid || decide (g.cur.toNat ≤ g.min.toNat) then best
    else match best with
      | some b => if e.2 < b.2 then some e else best
      | none => some e) none

/-- The stage a position is allotted to: that of its last move, or the one it serves. -/
def allottedTo (p : Position) : Option Nat := match p.retarget.getLast? with | some e => some e.2.1 | none => p.stage

/-- The move of this interval: donor, receiver, number of cells. -/
def balanceMove (s : State) (d ns : Nat) : Option (Nat × Nat × Nat) :=
  let l := fills s d ns
  let order := l.foldl (fun acc e => fillInsert e acc) []
  order.findSome? (fun rc =>
    let r := stageAt s d rc.1
    if r.max.toNat ≤ r.cur.toNat then none
    else (donorOf s d rc.1 l).bind (fun (dn : Nat × Nat) =>
      let g := stageAt s d dn.1
      if dn.2 + 2 ^ 13 ≤ rc.2 then some (dn.1, rc.1, min 8 (min (g.cur.toNat - g.min.toNat) (r.max.toNat - r.cur.toNat))) else none))

/-- Moves the highest-numbered cells allotted to the donor (R291). -/
def moveCells (s : State) (d dn rc m : Nat) (intn : BitVec 32) : State :=
  let ctx := (stageAt s d dn).ctx.toNat
  let cs := (dieCells s d ctx).filter (fun c => allottedTo (posOf s c ctx) == some dn)
  let s := (cs.drop (cs.length - m)).foldl (fun s c => modPos s c ctx (fun p => { p with retarget := p.retarget ++ [(dn, rc, intn)] })) s
  let s := modStage s d dn (fun g => { g with cur := g.cur - BitVec.ofNat 9 m })
  modStage s d rc (fun g => { g with cur := g.cur + BitVec.ofNat 9 m })

/-- BALANCING_INTERVAL (R290). -/
def balancingInterval (s : State) (d : Nat) : Option State :=
  let x := dieAt s d
  if s.cyc.toNat % 2 ^ ilogOf x ≠ 0 || s.cyc == 0 then none
  else
    let intn := x.balancer.extractLsb' 0 32 + 1
    let s := match (if x.balancer[63] then balanceMove s d (2 ^ (ilogOf x - 6)) else none) with
      | some (dn, rc, m) => moveCells s d dn rc m intn
      | none => s
    some (modDie s d (fun x => { x with
      stages := x.stages.map (fun g => { g with acc := 0 }), balancer := x.balancer.extractLsb' 32 32 ++ intn }))

def execBalancingInterval (die : Nat) (s : State) : Host.Outcome State Fault Refusal := event s (balancingInterval s die)

/-- A take of the stage still runs at the cell. -/
def donorRuns (s : State) (c ctx i : Nat) : Bool :=
  (cellAt s c).threads.toList.any (fun x => x.phase != .idle && x.phase != .reporting && x.ctx.toNat == ctx &&
    (match x.origin with | .stage j _ _ => i == j | _ => false))

/-- The class-19 message of a moved cell takes a completion slot, and the cell serves the new stage. -/
def announceMove (s : State) (c ctx old new : Nat) (intn : BitVec 32) (rest : List (Nat × Nat × BitVec 32)) : Option State :=
  if !cqTurn s c ctx .retarget then none
  else
    let s := modPos s c ctx (fun p => { p with stage := some new, retarget := rest, stageReported := none, stageSince := none })
    let (m, s) := raised s c ctx 19 0 [BitVec.ofNat 64 old, BitVec.ofNat 64 new, intn.setWidth 64] 0
    some (cqPlace s c ctx .retarget m)

/-- A move whose launch's share has ended: idstage is written once the donor's takes have ended, and the message is placed (R291). DEDUCED (log 61). -/
def endedMove (s : State) (c ctx : Nat) (m : EndedMove) (rest : List EndedMove) : Option State :=
  if !m.written && donorRuns s c ctx m.old then none
  else
    let s' := modPos s c ctx (fun p => { p with
      idstage := if m.written then p.idstage else BitVec.ofNat 64 (2 ^ 63 + m.new), moved := { m with written := true } :: rest })
    if !cqTurn s c ctx .retarget then (if m.written then none else some s')
    else
      let (g, s) := raised (modPos s' c ctx (fun p => { p with moved := rest })) c ctx 19 0
        [BitVec.ofNat 64 m.old, BitVec.ofNat 64 m.new, m.intn.setWidth 64] 0
      some (cqPlace s c ctx .retarget g)

/-- CELL_RETARGET: idstage is written once the donor's takes have ended, and the message follows once a completion slot is free (R92, R291). -/
def cellRetarget (s : State) (c ctx : Nat) : Option State :=
  match (posOf s c ctx).moved, (posOf s c ctx).retarget with
  | m :: rest, _ => endedMove s c ctx m rest
  | [], [] => none
  | [], (old, new, intn) :: r =>
    let id := BitVec.ofNat 64 (2 ^ 63 + new)
    if donorRuns s c ctx old then none
    else if (posOf s c ctx).idstage == id then announceMove s c ctx old new intn r
    else
      let s := modPos s c ctx (fun p => { p with idstage := id })
      some ((announceMove s c ctx old new intn r).getD s)

def execCellRetarget (cell ctx : Nat) (s : State) : Host.Outcome State Fault Refusal := event s (cellRetarget s cell ctx)

end Sys2Proof.Machine
end

