-- ==== Sys2Proof/Machine/Kill.lean ====
section
/-! DEFINITION. Pre-emption and the removal of a context: the kill flood, what it does at each cell, and its confirmation
(15_traps R342–R348, 14_counters R315). -/

namespace Sys2Proof.Machine

/-! ## Pre-emption (R342) -/

def execPreemptRequest (die ctx : Nat) (pre : Bool) (s : State) : Host.Outcome State Fault Refusal :=
  .next (modCtxRec s die ctx (fun r => { r with pre := pre }))

/-- No take of the context runs or prints on the die (Table 15.2). -/
def dieIdle (s : State) (d ctx : Nat) : Bool := s.cells.all (fun e => dieOf e.1 != d || !takesRun s e.1 ctx)

/-- quiet: with pre = 1. -/
def quiet (s : State) (d ctx : Nat) : Bool := (ctxRec s d ctx).pre && dieIdle s d ctx

/-! ## Discarding a gated message (R315) -/

/-- A gate's message is discarded; its place in its end's sequence is passed over, and its credit returns. DEDUCED (log 46). -/
def discardGate (s : State) (g i : Nat) : State :=
  match (gateAt s g i).held with
  | none => s
  | some m => sendPkt (modGate s g i (fun x => { word := setBit64 x.word 62 false, held := none })) m.home (.skip m.chan m.ctx m.sid m.seq)

/-- The gates of a context in a grove become unassigned. -/
def clearGates (ctx : Nat) (s : State) (g : Nat) : State :=
  ((groveAt s g).gates.filter (fun e => gateMine e.2.word ctx)).foldl (fun s e =>
    modGate (discardGate s g e.1) g e.1 (fun _ => ⟨0, none⟩)) s

/-! ## The flood (R343) -/

/-- What goes on in the place of a discarded packet: of a message, its place in its sender's sequence, and the close of a send end that its
lane carries. DEDUCED (log 63). -/
def sweptRest : Packet → List Packet
  | .data chan ctx _ sid seq _ _ msg =>
    .skip chan ctx sid seq :: (match msg.lane with
      | some (.send e) => if e.orphan then [] else [.data e.chan e.ctx e.home e.eid e.ns e.mv true
          ⟨mkSlate 0 17 1 false 0 e.ns 1 e.eid, [BitVec.ofNat 64 e.eid], none, msg.launch⟩]
      | _ => [])
  | _ => []

/-- The home that a packet put in a message's place goes to. DEDUCED (log 63). -/
def restHome (dst : Nat) : Packet → Nat
  | .data _ _ home _ _ _ _ _ => home
  | _ => dst

/-- The routers of the cells that `here` holds of discard the packets of a context. DEDUCED (log 63). -/
def sweepFlights (s : State) (ctx : Nat) (here : Nat → Bool) : State :=
  let gone : Flight → Bool := fun f => here f.dst && sweptCtx f.pkt == some ctx
  let swept := s.flights.filter gone
  swept.foldl (fun s f => (sweptRest f.pkt).foldl (fun s p => sendPkt s (restHome f.dst p) p) s)
    { s with flights := s.flights.filter (fun f => !gone f) }

/-- What the kill clears in a grove: gates, join, translations (R345). -/
def killGrove (ctx : Nat) (s : State) (g : Nat) : State :=
  modGrove (clearGates ctx s g) g (fun x => { x with
    joins := x.joins.filter (fun j => j.ctx != ctx), tlb := x.tlb.filter (fun e => e.ctx != ctx) })

/-- The wired set is the context's. -/
def wiredOf (ctx : Nat) (w : Word) : Bool := w[63] && (w.extractLsb' 48 12).toNat == ctx

/-- What the kill clears on a die: stage entries, groups, wired sets (R345). -/
def killDie (ctx : Nat) (s : State) (d : Nat) : State :=
  modDie s d (fun x => { x with
    stages := x.stages.map (fun g => if g.v && g.ctx.toNat == ctx then Stage.reset else g),
    groups := x.groups.map (fun e => (e.1, if groupFor e.2 ctx then 0 else e.2)),
    wired := x.wired.map (fun w => if wiredOf ctx w then 0 else w),
    wiredAt := x.wiredAt.map (fun l => l.filter (fun e => e.ctx != ctx)) })

/-- The context's launches are discarded; a slot of a done reel that one has claimed is published unwritten (R264, R286). -/
def dropLaunches (s : State) (ctx : Nat) : State :=
  let gone := s.launches.filter (fun l => l.ctx == ctx)
  { s with
    launches := s.launches.filter (fun l => l.ctx != ctx),
    claims := s.claims ++ gone.filterMap (fun l => l.claim.bind (fun start => (doneReel s l).map (fun k => (k, start)))) }

/-- Writing kill = 1 discards the context's launches, and starts the flood, once, on every die; its queued atomics are discarded (R286, R343, R344). -/
def startKill (s : State) (ctx : Nat) : State :=
  let s := dropLaunches s ctx
  if s.kills.any (fun k => k.ctx == ctx) then s
  else
    let s := [0, 1, 2, 3].foldl (fun s d => modCtxRec s d ctx (fun r => { r with kill := true })) s
    let s := { s with
      kills := s.kills ++ [⟨ctx, s.cyc.toNat, [], [], [], false⟩],
      invalidations := s.invalidations.filter (fun i => i.1 != ctx) }
    let s := [0, 1, 2, 3].foldl (fun s d => modDie s d (fun x => { x with
      lanes := x.lanes.map (fun e => (e.1, e.2.filter (fun l => l.issued || !s.reqs.any (fun r => r.id == l.req && r.ctx == ctx)))) })) s
    let s := { s with reqs := s.reqs.filter (fun (r : Req) => !(r.ctx == ctx && r.stage == ReqStage.lane &&
      !s.dies.toList.any (fun (d : Die) => d.lanes.any (fun (e : Nat × List LaneEntry) => e.2.any (fun l => l.req == r.id))))) }
    let s := (s.groves.map (·.1)).foldl (killGrove ctx) ([0, 1, 2, 3].foldl (killDie ctx) s)
    sweepFlights s ctx (fun _ => true)

def execKillFlood (_die ctx : Nat) (s : State) : Host.Outcome State Fault Refusal := .next (startKill s ctx)

/-! ## At a cell (R345) -/

/-- The print stands at a `trap` whose report waits for room in its ring (R334). -/
def reportWaits (s : State) (c : Nat) (t : BitVec 3) : Bool :=
  (thr s c t).phase == .printing && (thr s c t).waits.isSome && (postedOf s c t).isEmpty &&
    (match standsAt (thr s c t) with | some (.send (.trap _ _ _) _ _ _ _) => true | _ => false)

/-- A kill discards a report that waits inside a print, and the print goes on (R334, Table 1.5). DEDUCED (log 110). -/
def dropWaiting (c ctx : Nat) (s : State) (t : BitVec 3) : State :=
  if reportWaits s c t && (thr s c t).ctx.toNat == ctx then
    modThr s c t (fun x => { x with effects := (printOrder x.effects).drop 1, waits := none })
  else s

/-- A print of the context performs what it can, unless it waited before; what it then stands at is left (Table 1.5). DEDUCED (log 110). -/
def killPrint (c ctx : Nat) (s : State) (t : BitVec 3) : State :=
  let s := dropWaiting c ctx s t
  let x := thr s c t
  if x.phase != .printing || x.ctx.toNat != ctx || x.waits.isSome then s
  else (printTake s c t).getD s

/-- What a print stands at ends with the kill: it waits for a credit or a reel slot, or for its turn to publish a slot that it has claimed, at a
marker of system scope or an `stl.sys`, or for an access that was declared lost (Tables 1.5, 10.5 and 12.16). A print that waits for anything else
goes on, and the kill of its thread waits for it. DEDUCED (log 110). -/
def printEnds (s : State) (c : Nat) (t : BitVec 3) : Bool :=
  match standsAt (thr s c t) with
  | none => true
  | some .marker => true
  | some (.store _ _ _ _ true _) => true
  | some (.send (.claimed _ _ _ _) _ _ _ _) => true
  | some e => waitsCredit e || s.reqs.any (fun r => r.cell == c && r.th == t.toNat && r.stage == .lost)

/-- A print of the context that the kill waits for. -/
def printHolds (s : State) (c ctx : Nat) (t : BitVec 3) : Bool :=
  (thr s c t).phase == .printing && (thr s c t).ctx.toNat == ctx && !printEnds s c t

/-- The slots of the messages that a killed take holds become free at their homes (R345). -/
def freeHeld (s : State) (x : Thread) : State :=
  let s := x.consumed.foldl (fun s n => sendPkt s n.home (.free n.eid 0 n.home n.note.slot n.note.sid)) s
  match x.origin with
  | .channel eid n home => sendPkt s home (.free eid 0 home n.slot n.sid)
  | _ => s

/-- A take of the context ends Killed: its frame quotes KILLED. Its registers reset, as do those of a thread whose last take, one of the context's,
has ended (R99, R345). Bit 11 of the frame's cause is 1 where the killed take
was irrevocable, which no rule says. DESIGN CHOICE (log 117). -/
def killThread (c ctx : Nat) (s : State) (t : BitVec 3) : State :=
  let x := thr s c t
  if x.ctx.toNat != ctx then s
  else if x.phase == .idle then putThr s c t { Thread.reset with frame := x.frame, takes := x.takes }
  else
    let f := frameOf (frameWords s c t ⟨.killed, x.pc, 0, 0, none, 0, 0⟩ (isIrrevocable x))
    let s := leaveClaims (if x.phase == .reporting then s else freeHeld s x) x.effects
    let s := freeThread (dropWork s c t) c t .idle
    putThr s c t { Thread.reset with frame := f, takes := x.takes }

/-- A channel whose home belongs to the context ends: its messages are discarded, and the ends of others learn of it. DEDUCED (log 64). -/
def killHome (c ctx : Nat) (s : State) (h : Home) : State :=
  if h.ctx != ctx then s
  else
    let s := (h.slots.filter (fun e => !slotRunning s h.chan e.1)).foldl (fun s e => closeLane s e.2.msg.launch e.2.msg.lane) s
    let s := h.senders.foldl (fun s d => sendPkt s d.loc (.closure h.ctx d.sid)) s
    modCell s c (fun x => { x with homes := x.homes.filter (fun k => k.chan != h.chan) })

/-- DEDUCED (log 64). -/
def killSend (c ctx : Nat) (s : State) (e : SendEnd) : State :=
  if e.ctx != ctx then s
  else if ((findHome (cellAt s e.home) e.chan).bind (fun h => findSender h e.eid)).isNone then delSend s c e.eid else closeSendEnd s c e.eid 0

/-- DEDUCED (log 64). -/
def killRecv (c ctx : Nat) (s : State) (r : RecvEnd) : State :=
  if r.ctx != ctx then s else delRecv (sendPkt s r.home (.closer r.eid ctx)) c r.eid

/-- A copy request in progress stops; a claim it holds is published without a record (R233, R264). -/
def killJobs (ctx : Nat) (js : List CopyJob) : List CopyJob :=
  js.filterMap (fun j =>
    if j.ctx != ctx then some j
    else if j.claim.isNone then none
    else some { j with packets := [], network := false, moved := true, dead := true })

/-- The request has left the device and may still be applied there (R344). DEDUCED (log 63). -/
def awayAtomic (s : State) (r : Req) : Bool :=
  match r.kind with
  | .atomic _ _ _ => (r.stage == .sent || r.stage == .expired) && reqLeaves s r
  | _ => false

/-- Requests of the context at the cell end with the kill, but for what a proxy lane has issued and what has left the device: the routers
discard them, and their answers have no thread to go to (R343, R344). DEDUCED (log 63). -/
def killReqs (c ctx : Nat) (s : State) : State :=
  { s with reqs := s.reqs.filter (fun r => !(r.cell == c && r.ctx == ctx) || r.stage == ReqStage.lane || awayAtomic s r ||
      (match r.kind with | .posted _ _ _ => r.stage != ReqStage.lost | _ => false)) }

/-- Barrier words of the context become free. -/
def clearBarriers (ctx : Nat) (c : Nat) (s : State) : State :=
  (List.range 512).foldl (fun s b =>
    let w := barAt s c b
    if barV w && barCtx w == ctx then write128 s (barKey c b) 0 else s) s

/-- What the context owns at the cell is cleared. -/
def killTables (c ctx : Nat) (s : State) : State :=
  let s := modCell s c (fun x => { x with
    stubs := x.stubs.filter (fun u => u.ctx != ctx), watch := x.watch.filter (fun w => w.ctx != ctx),
    fifo := x.fifo.map (fun f => if f.st != .free && f.ctx == ctx then freedEntry s else f),
    jobs := killJobs ctx x.jobs, reports := x.reports.filter (fun r => r.ctx != ctx),
    efCtx := if x.efCtx == some ctx then none else x.efCtx, scrCtx := x.scrCtx.map (fun k => if k == some ctx then none else k) })
  modPos s c ctx (fun p => { p with
    hstore := [], cq := [], cqHeld := false, cqSince := none, cqReported := none, stage := none, stageReported := none,
    retarget := [], moved := [], landings := [], landReported := none, stageSince := none, landSince := none, cqWait := [], idstage := 0, idslice := 0,
    idorg := Vector.replicate 4 0, idext := Vector.replicate 4 0 })

def killCell (s : State) (c ctx : Nat) : State :=
  let s := allThreads.foldl (killThread c ctx) s
  let x := cellAt s c
  let s := x.recvs.foldl (killRecv c ctx) s
  let s := x.sends.foldl (killSend c ctx) s
  let s := x.homes.foldl (killHome c ctx) s
  let s := clearBarriers ctx c (killTables c ctx (killReqs c ctx s))
  killDie ctx (killGrove ctx s (groveOf c)) (dieOf c)

/-- The context has something at the cell. DEDUCED (log 63). -/
def present (ctx : Nat) (e : Nat × Cell) : Bool :=
  e.2.pos.toList.any (fun p => p.ctx == some ctx) || e.2.threads.toList.any (fun x => x.phase != .idle && x.ctx.toNat == ctx) ||
    e.2.sends.any (fun x => x.ctx == ctx) || e.2.recvs.any (fun x => x.ctx == ctx) || e.2.homes.any (fun x => x.ctx == ctx) ||
    e.2.stubs.any (fun x => x.ctx == ctx) || e.2.fifo.toList.any (fun f => f.st != .free && f.ctx == ctx) || e.2.jobs.any (fun j => j.ctx == ctx) ||
    e.2.reports.any (fun r => r.ctx == ctx) || e.2.watch.any (fun w => w.ctx == ctx)

/-- A barrier word of the cell is the context's. -/
def holdsBarrier (s : State) (ctx c : Nat) : Bool := (List.range 512).any (fun b => barV (barAt s c b) && barCtx (barAt s c b) == ctx)

/-- The cells whose reports the flood waits for: those where the context has something. DEDUCED (log 63). -/
def killCells (s : State) (ctx : Nat) : List Nat :=
  (s.cells.filter (fun e => present ctx e || s.reqs.any (fun r => r.cell == e.1 && r.ctx == ctx) || holdsBarrier s ctx e.1)).map (·.1)

def modKill (s : State) (ctx : Nat) (f : Kill → Kill) : State :=
  { s with kills := s.kills.map (fun k => if k.ctx == ctx then f k else k) }

def findKill (s : State) (ctx : Nat) : Option Kill := s.kills.find? (fun k => k.ctx == ctx)

/-- Messages queued in the context's completion queue at the cell are discarded (R345). -/
def dropQueued (s : State) (c ctx : Nat) : State :=
  modPos s c ctx (fun p => { p with cq := [], cqHeld := false, cqSince := none, cqReported := none })

/-- KILL_AT_CELL (R345). While a print goes on that Table 1.5 lets complete, the other takes end and the queued completion messages are discarded;
so are those that a print of another cell still places. DEDUCED (log 110). -/
def killAtCell (s : State) (c ctx : Nat) : Option State :=
  (findKill s ctx).bind (fun (k : Kill) =>
    let queued := !(posOf s c ctx).cq.isEmpty
    if k.swept.contains c then (if queued then some (dropQueued s c ctx) else none)
    else
      let s' := allThreads.foldl (killPrint c ctx) s
      if allThreads.any (printHolds s' c ctx) then
        let now := allThreads.filter (fun t => (thr s' c t).phase != .idle && (thr s' c t).ctx.toNat == ctx && !printHolds s' c ctx t)
        if now.isEmpty && !queued && !allThreads.any (fun t => reportWaits s c t && (thr s c t).ctx.toNat == ctx) then none else some (dropQueued (now.foldl (killThread c ctx) s') c ctx)
      else some (modKill (killCell s' c ctx) ctx (fun k => { k with swept := k.swept ++ [c] })))

def execKillAtCell (cell ctx : Nat) (s : State) : Host.Outcome State Fault Refusal := event s (killAtCell s cell ctx)

/-- ROUTER_SWEEP_END: 4,096 cycles of discarding end on a die, and every cell of it has met the kill (R343). DEDUCED (log 63). -/
def sweepEnd (s : State) (d ctx : Nat) : Option State :=
  (findKill s ctx).bind (fun (k : Kill) =>
    if k.routers.contains d || s.cyc.toNat - k.start < 4096 || 4 ≤ d ||
        (killCells s ctx).any (fun c => dieOf c == d && !k.swept.contains c) then none
    else some (modKill (sweepFlights s ctx (fun c => dieOf c == d)) ctx (fun k => { k with routers := k.routers ++ [d] })))

def execRouterSweepEnd (die ctx : Nat) (s : State) : Host.Outcome State Fault Refusal := event s (sweepEnd s die ctx)

/-- Requests of the context that have left the device and are not settled (R344). -/
def unsettled (s : State) (ctx : Nat) (cell : Nat → Bool) : Bool :=
  s.reqs.any (fun r => r.ctx == ctx && cell r.cell && (match r.kind with
    | .posted _ _ _ => r.stage != ReqStage.lost
    | _ => r.stage == ReqStage.lane || awayAtomic s r))

/-- HOST_FLUSH_READ_COMPLETE: the zero-length read after the context's last posted host write (R344). -/
def hostFlush (s : State) (ctx : Nat) : Option State :=
  (findKill s ctx).bind (fun (k : Kill) =>
    if k.flushed || !(killCells s ctx).all k.swept.contains || unsettled s ctx (fun _ => true) then none
    else some (modKill s ctx (fun k => { k with flushed := true })))

def execHostFlushReadComplete (ctx : Nat) (s : State) : Host.Outcome State Fault Refusal := event s (hostFlush s ctx)

/-- A partition whose reset has seen every flood confirmed: its registers are at reset (R356). -/
def finishReset (s : State) (f : BitVec 4) : State :=
  let p := rget s.parts f
  if p.ctl[61] && !s.kills.any (fun k => partOf s k.ctx == f && (secWord s k.ctx)[63]) then
    { s with parts := rset s.parts f { Partition.reset with ctl := setBit64 p.ctl 61 false, msix := p.msix } }
  else s

def allParts : List (BitVec 4) := (List.range 16).map (BitVec.ofNat 4)

/-- Nothing of the context is left: not what was queued or submitted for it while the flood ran, and no trace of it in files or scratch windows
(R36, R79). -/
def purge (s : State) (ctx : Nat) : State :=
  let s := (killCells s ctx).foldl (fun s c => killTables c ctx s) (sweepFlights (dropLaunches s ctx) ctx (fun _ => true))
  { s with reqs := s.reqs.filter (fun r => !(r.ctx == ctx && r.stage == ReqStage.lost)), cells := s.cells.map (fun e => (e.1, { e.2 with
    efCtx := if e.2.efCtx == some ctx then none else e.2.efCtx, scrCtx := e.2.scrCtx.map (fun k => if k == some ctx then none else k) })) }

/-- The purge is confirmed: kill reads 0, the context is gone, and resets that waited for it end (R343, R346, R356, R368). -/
def confirmKill (s : State) (ctx : Nat) : State :=
  let s := purge s ctx
  let s := { s with kills := s.kills.filter (fun k => k.ctx != ctx), secWords := tput s.secWords ctx 0 }
  let s := [0, 1, 2, 3].foldl (fun s d => modCtxRec s d ctx (fun r => { r with kill := false })) s
  allParts.foldl finishReset s

/-- KILL_DONE_REPORT: a cell reports done after its sweep; the last report confirms the purge (R343, R344). -/
def killDoneReport (s : State) (c ctx : Nat) : Option State :=
  (findKill s ctx).bind (fun (k : Kill) =>
    if !k.swept.contains c || k.done.contains c || !k.routers.contains (dieOf c) || unsettled s ctx (fun d => d == c) ||
        (dieOf c == 0 && !k.flushed) then none
    else
      let s := modKill s ctx (fun k => { k with done := k.done ++ [c] })
      let all := (k.swept ++ killCells s ctx).all (fun d => d == c || k.done.contains d)
      some (if all && k.routers.length == 4 && k.flushed then confirmKill s ctx else s))

def execKillDoneReport (cell ctx : Nat) (s : State) : Host.Outcome State Fault Refusal := event s (killDoneReport s cell ctx)

/-- The next event of a kill: cells, routers, the host read, reports. -/
def nextKillEvent (s : State) (k : Kill) : Option Instr :=
  match (killCells s k.ctx ++ [0]).find? (fun c => (killAtCell s c k.ctx).isSome) with
  | some c => some (.killAtCell c k.ctx)
  | none =>
    if !k.swept.contains 0 then none
    else
      match [0, 1, 2, 3].find? (fun d => (sweepEnd s d k.ctx).isSome) with
      | some d => some (.routerSweepEnd d k.ctx)
      | none =>
        if (hostFlush s k.ctx).isSome then some (.hostFlushReadComplete k.ctx)
        else if k.routers.length < 4 || !k.flushed then none
        else (k.swept.find? (fun c => (killDoneReport s c k.ctx).isSome)).map (fun c => .killDoneReport c k.ctx)

end Sys2Proof.Machine
end

