-- ==== Sys2Proof/Machine/Partitions.lean ====
section
/-! DEFINITION. What the host does to the device: doorbells, submissions, completion records consumed, interrupts unmasked, resets,
and reads on the host port that time out (16_system R351–R356). -/

namespace Sys2Proof.Machine

def part (s : State) (f : Nat) : Partition := rget s.parts (BitVec.ofNat 4 f)

def modPart (s : State) (f : Nat) (g : Partition → Partition) : State := { s with parts := rset s.parts (BitVec.ofNat 4 f) (g (part s f)) }

/-- log2 of the ring's entries; none where the register names no ring (R352). -/
def ringLog (w : Word) : Option Nat :=
  let k := (w.extractLsb' 0 4).toNat
  if 4 ≤ k && k ≤ 12 then some k else none

/-- The host port presents the function: function 0 always, the others once Nivar runs (R385). -/
def presented (s : State) (f : Nat) : Bool := f % 16 == 0 || s.cap[62]

/-- What the host does to a function that the port does not present reaches nothing (R385). -/
def toFunction (s : State) (f : Nat) (s' : State) : State := if presented s f then s' else s

def setDerr (p : Partition) : Partition := { p with ctl := setBit64 p.ctl 60 true }

/-! ## Submissions (R353) -/

/-- The status of a submission entry that is refused before its descriptor is read: 5 or 6 (R354). DEDUCED (log 67). -/
def entryStatus (s : State) (f : Nat) (w0 w1 : Word) (rest : List Word) : Nat :=
  let sw := secWord s (w0.extractLsb' 0 12).toNat
  if !sw[63] || (sw.extractLsb' 48 4).toNat != f % 16 then 5
  else if w0.extractLsb' 12 36 != 0 || w0.extractLsb' 59 4 != 0 || rest.any (fun w => w != 0) || w1.extractLsb' 0 4 != 0 ||
      decide (((part s f).ctl.extractLsb' 32 11).toNat < (w0.extractLsb' 48 11).toNat) then 6
  else 0

/-- The entry's context. -/
def entryCtx (w0 : Word) : Nat := (w0.extractLsb' 0 12).toNat

def entryIrq (w0 : Word) : Option Nat := if w0[63] then some (w0.extractLsb' 48 11).toNat else none

/-- The ring's tail before the doorbells of cycle `now`: what they add is taken from the next cycle on, for a reset that starts in this one makes them
ignored (Table 16.6). -/
def tailBefore (p : Partition) (now : Word) : BitVec 32 :=
  match p.rang with
  | some (n, t) => if n == now then t else p.sqtail
  | none => p.sqtail

/-- A partition with an entry to take. -/
def hasEntry (s : State) (f : Nat) : Bool :=
  let p := part s f
  p.sqhead != tailBefore p s.cyc && !p.ctl[61] && (ringLog p.sqk).isSome

/-- The partition whose entry is taken next, in turn. DESIGN CHOICE (log 65). -/
def nextSubmitter (s : State) : Option Nat :=
  if s.parts.toList.any (fun p => p.reading.isSome) then none
  else ((List.range 16).map (fun i => (s.sqNext.toNat + i) % 16)).find? (hasEntry s)

/-- Takes one entry: it fails with its record, or its descriptor is being read. DESIGN CHOICE (log 65). -/
def takeEntry (s : State) : State :=
  match nextSubmitter s with
  | none => s
  | some f =>
    let p := part s f
    let a := hostKey (p.sqbase.toNat + 64 * (p.sqhead.toNat % 2 ^ ((ringLog p.sqk).getD 0)))
    let w := fun i => word64At s (a + 8 * i)
    let s := { modPart s f (fun p => { p with sqhead := p.sqhead + 1 }) with sqNext := BitVec.ofNat 4 (f + 1) }
    let st := entryStatus s f (w 0) (w 1) ((List.range 6).map (fun i => w (i + 2)))
    if st = 0 then modPart s f (fun q => { q with reading := some (p.sqhead, w 0, w 1) })
    else postRecord s f 0 st p.sqhead (entryCtx (w 0)) (entryIrq (w 0))

/-- SQ_DOORBELL: the entries are taken after what else reaches the partition in this cycle (Table 16.6). -/
def doorbell (s : State) (f : Nat) (t : BitVec 32) : State :=
  let p := part s f
  match ringLog p.sqk with
  | none => modPart s f setDerr
  | some k =>
    if !p.ctl[63] || p.ctl[61] || decide (2 ^ k < (p.sqtail - p.sqhead).toNat + (t - p.sqtail).toNat) then modPart s f setDerr
    else modPart s f (fun p => { p with sqtail := t, rang := some (s.cyc, tailBefore p s.cyc) })

/-- DESIGN CHOICE (log 88). -/
def execSqDoorbell (f : Nat) (t : BitVec 32) (s : State) : Host.Outcome State Fault Refusal := .next (toFunction s f (doorbell s f t))

/-- HOST_DESCRIPTOR_READ: the descriptor arrives and the launch is submitted; the next entry is taken. -/
def descriptorRead (s : State) (f : Nat) : Option State :=
  match (part s f).reading with
  | some (i, w0, a) =>
    let k := hostKey a.toNat
    let desc := readKeys s.mem (keysFrom k (descLen (word64At s k).toNat))
    let s := modPart s f (fun p => { p with reading := none })
    some (takeEntry (submitLaunch s (entryCtx w0) (.host (f % 16) i (w0.extractLsb' 48 11) w0[63]) desc))
  | none => if nextSubmitter s == some (f % 16) then some (takeEntry s) else none

def execHostDescriptorRead (f : Nat) (s : State) : Host.Outcome State Fault Refusal := event s (descriptorRead s f)

/-- HOST_COMPLETION_TIMEOUT: status 7 for a descriptor, a failed load for a take. -/
def hostTimeout (s : State) (w : HostRead) : Option State :=
  match w with
  | .descriptor f =>
    match (part s f).reading with
    | some (i, w0, _) =>
      let s := modPart s f (fun p => { p with reading := none })
      some (takeEntry (postRecord s f 0 7 i (entryCtx w0) (entryIrq w0)))
    | none => none
  | .load id => hostReadLost s id

def execHostCompletionTimeout (what : HostRead) (s : State) : Host.Outcome State Fault Refusal := event s (hostTimeout s what)

/-! ## Records and interrupts (R354, R355) -/

def cqHead (s : State) (f : Nat) (v : BitVec 32) : State :=
  let s := modPart s f (fun p => { p with cqhead := v })
  flushRecords (BitVec.ofNat 4 f) ((part s f).records.length + 1) s

/-- DESIGN CHOICE (log 88). -/
def execCqHeadWrite (f : Nat) (v : BitVec 32) (s : State) : Host.Outcome State Fault Refusal := .next (toFunction s f (cqHead s f v))

/-- Pending vectors that nothing masks are sent, each once. PRESUMED (log 66). -/
def sendPending (p : Partition) : Partition :=
  { p with pend := p.pend.filter (fun v => !vectorOpen p v), msix := p.msix ++ (p.pend.filter (vectorOpen p)).map (msixMessage p) }

/-- A write of the host to the function's MSI-X capability or table. PRESUMED (log 66). -/
def msixWritten (p : Partition) : MsixWrite → Partition
  | .unmask vec => sendPending { p with unmasked := if p.unmasked.contains vec then p.unmasked else p.unmasked ++ [vec] }
  | .mask vec => { p with unmasked := p.unmasked.filter (· != vec) }
  | .entry vec addr data => { p with msixTable := tput p.msixTable vec (addr, data) }
  | .control on masked => sendPending { p with msixOn := on, msixMask := masked }

/-- MSIX_UNMASK, and the other writes to the capability and its table (R355). -/
def execMsixUnmask (f : Nat) (w : MsixWrite) (s : State) : Host.Outcome State Fault Refusal := 
  .next (toFunction s f (modPart s f (fun p => msixWritten p w)))

/-! ## Reset (R348, R356) -/

/-- The contexts of a partition. -/
def partContexts (s : State) (f : Nat) : List Nat :=
  (s.secWords.filter (fun e => e.2[63] && (e.2.extractLsb' 48 4).toNat == f % 16)).map (·.1)

/-- A doorbell was written in this cycle. -/
def rangNow (p : Partition) (now : Word) : Bool := p.rang.any (fun e => e.1 == now)

/-- A reset; a doorbell written in the cycle in which it starts is ignored (Table 16.6). -/
def resetPartition (s : State) (f : Nat) : State :=
  if (part s f).ctl[61] then s
  else
    let cs := partContexts s f
    let s := modPart s f (fun p => { p with
      ctl := setBit64 (if rangNow p s.cyc then setBit64 p.ctl 60 true else p.ctl) 61 true, sqtail := tailBefore p s.cyc, sqhead := tailBefore p s.cyc,
      reading := none, records := [] })
    finishReset (cs.foldl startKill s) (BitVec.ofNat 4 f)

def execPartitionReset (f : Nat) (s : State) : Host.Outcome State Fault Refusal := .next (toFunction s f (resetPartition s f))

def execFunctionLevelReset (f : Nat) (s : State) : Host.Outcome State Fault Refusal := .next (toFunction s f (resetPartition s f))

/-! ## Register writes at a partition's offsets (Tables 16.1, 16.2) -/

/-- A ring holds outstanding entries (R352, R353). -/
def sqOpen (p : Partition) : Bool := p.sqhead != p.sqtail

def cqOpen (p : Partition) : Bool := p.cqhead != p.cqtail

/-- derr is write-1-to-clear. -/
def clearDerr (ctl w : Word) : Word := if w[60] then setBit64 ctl 60 false else ctl

/-- The control word after a write of Nivar; the host writes none of its fields (Table 16.1). -/
def ctlWrite (by_ : Writer) (old w : Word) : Word :=
  match by_ with
  | .nivar _ => (clearDerr old w &&& 0x3000000000000000#64) ||| (w &&& 0x83FF07FF00000000#64)
  | .host _ => clearDerr old w

/-- Vectors above nvec are pending no longer (Table 16.6). -/
def dropPend (p : Partition) : Partition := { p with pend := p.pend.filter (fun v => decide (v ≤ (p.ctl.extractLsb' 32 11).toNat)) }

/-- A write to a register of partition `f`. -/
def partitionWrite (by_ : Writer) (s : State) (f off : Nat) (w : Word) : State :=
  let p := part s f
  if off = 0x000 then
    let s := modPart s f (fun p => dropPend { p with ctl := ctlWrite by_ p.ctl w })
    if w[62] then resetPartition s f else s
  else if off = 0x010 then modPart s f (fun p => if sqOpen p then setDerr p else { p with sqbase := w })
  else if off = 0x018 then modPart s f (fun p => if sqOpen p then setDerr p else { p with sqk := w })
  else if off = 0x020 then doorbell s f (w.extractLsb' 0 32)
  else if off = 0x030 then modPart s f (fun p => if cqOpen p then setDerr p else { p with cqbase := w })
  else if off = 0x038 then
    let s := modPart s f (fun p => if cqOpen p then setDerr p else { p with cqk := w })
    flushRecords (BitVec.ofNat 4 f) ((part s f).records.length + 1) s
  else if off = 0x048 then cqHead s f (w.extractLsb' 0 32)
  else s

/-- A write of the host through BAR0 of function `f`: it reaches the function's own partition alone (R351). -/
def hostWrite (s : State) (f off : Nat) (w : Word) : State := 
  if f < 16 then toFunction s f (partitionWrite (.host f) s f off w) else s

end Sys2Proof.Machine
end

