-- ==== Sys2Proof/Machine/Manage.lean ====
section
/-! DEFINITION. Writes of the management cores: tables, holds, gates, wired sets, windows, and the registers of the management window
(13_tables R276–R295, 14_counters R310–R323, 15_traps R332–R335, 16_system R359–R361). -/

namespace Sys2Proof.Machine

/-! ## Reports and holds -/

/-- REPORT_RING_RIDX_WRITE (R334). -/
def execReportRingRidxWrite (die ctx : Nat) (v : BitVec 32) (s : State) : Host.Outcome State Fault Refusal :=
  .next (modCtxRec s die ctx (fun r => { r with ridx := v }))

/-- RELEASE_REGISTER_WRITE (R335). -/
def execReleaseRegisterWrite (cell : Nat) (w : Word) (s : State) : Host.Outcome State Fault Refusal := .next (releaseHold s cell w)

/-- STAGE_HOLD_WRITE: Nivar writes 0 to the hold bit (R288). -/
def execStageHoldWrite (die stage : Nat) (s : State) : Host.Outcome State Fault Refusal :=
  .next (releaseStage s die stage)

/-! ## Tables -/

/-- The fields of a group entry that a write sets; ref is write-1-to-clear (Table 13.7). DESIGN CHOICE (log 62). -/
def groupWrite (old new : BitVec 384) : BitVec 384 :=
  new.extractLsb' 128 256 ++ (0#64) ++ new.extractLsb' 63 1 ++ BitVec.ofBool (old[62] && !new[62]) ++ (0#2) ++ new.extractLsb' 48 12 ++ (0#48)

/-- GROUP_TABLE_WRITE: written or refused whole (R292). DESIGN CHOICE (log 62). -/
def groupTableWrite (s : State) (d i : Nat) (e : BitVec 384) : State :=
  let i := i % 256
  let old := groupAt s d i
  if fifthGroup s d i e then putGroup s d i (old ||| BitVec.ofNat 384 (2 ^ 62)) else putGroup s d i (groupWrite old e)

def execGroupTableWrite (die idx : Nat) (entry : BitVec 384) (s : State) : Host.Outcome State Fault Refusal :=
  .next (groupTableWrite s die idx entry)

/-- Some participant's flag is raised (Table 14.6). DESIGN CHOICE (log 72). -/
def wiredBusy (s : State) (d : Nat) (set : BitVec 2) : Bool :=
  (participants d (rget (dieAt s d).wired set)).any (fun c => flagRaised s c set)

/-- One write of a wired set, made now or left waiting where the set is busy. -/
def wiredPut (d : Nat) (s : State) (e : Nat × Word) : State :=
  let set := BitVec.ofNat 2 e.1
  if wiredBusy s d set || (dieAt s d).wiredWrites.any (fun v => v.1 == e.1) then modDie s d (fun x => { x with wiredWrites := x.wiredWrites ++ [e] })
  else modDie s d (fun x => { x with wired := rset x.wired set ((e.2 &&& 0x8FFFFFFFFFFF0000#64) ||| ((rget x.wired set) &&& 0xFFFF#64)) })

/-- The writes of wired sets that wait are made, in their order, as far as their set is no longer busy (R310). -/
def drainWired (s : State) (d : Nat) : State :=
  (dieAt s d).wiredWrites.foldl (wiredPut d) (modDie s d (fun x => { x with wiredWrites := [] }))

/-- WIRED_SET_WRITE: gen is the hardware's; a busy set holds the write back (R310). -/
def wiredWrite (s : State) (d : Nat) (set : BitVec 2) (w : Word) : State := wiredPut d s (set.toNat, w)

def execWiredSetWrite (die set : Nat) (w : Word) (s : State) : Host.Outcome State Fault Refusal :=
  .next (wiredWrite s die (BitVec.ofNat 2 set) w)

/-- GATE_WRITE: clearing v or changing ctx while armed discards the held message (R315). -/
def gateWrite (s : State) (g i : Nat) (w : Word) : State :=
  let old := (gateAt s g i).word
  let s := if gateArmed old && (!w[63] || w.extractLsb' 48 12 != old.extractLsb' 48 12) then discardGate s g i else s
  modGate s g i (fun x =>
    let flags := x.word &&& 0x7000000000000000#64 &&& ~~~(w &&& 0x3000000000000000#64)
    { x with word := (w &&& 0x8FFF000000000000#64) ||| flags ||| (x.word &&& 0xFFFFFFFF#64) })

def execGateWrite (grove gate : Nat) (w : Word) (s : State) : Host.Outcome State Fault Refusal := .next (gateWrite s grove (gate % 128) w)

/-- A reduction packet is not acknowledged, or one is still to be issued by an `ared` that was granted under the present setting.
DEDUCED (log 77). -/
def reductionsOpen (s : State) : Bool :=
  s.reqs.any (fun r => match r.kind with | .posted _ _ (some _) => true | _ => false) ||
    s.cells.any (fun e => e.2.threads.toList.any (fun x => x.effects.any (fun f => match f with
      | .rmw _ _ _ (some _) true _ _ => true
      | _ => false)))

/-- The changes of reduction windows that wait are made, in their order, once every packet is acknowledged (R199, R202). -/
def drainWindows (s : State) : State :=
  if reductionsOpen s then s
  else s.windowWrites.foldl (fun s e => { s with windows := rset s.windows (BitVec.ofNat 3 e.1) (e.2 &&& 0x81FFFFFFFFE00000#64) })
    { s with windowWrites := [] }

/-- REDUCTION_WINDOW_WRITE: it takes effect once every packet issued before is acknowledged (R199). DEDUCED (log 77). -/
def reductionWrite (s : State) (n : Nat) (w : Word) : State := drainWindows { s with windowWrites := s.windowWrites ++ [(n, w)] }

/-- Writes that waited are made at the end of the first cycle in which nothing holds them back. -/
def drainWrites (s : State) : State := [0, 1, 2, 3].foldl drainWired (drainWindows (drainPinned s))

def execReductionWindowWrite (n : Nat) (w : Word) (s : State) : Host.Outcome State Fault Refusal := .next (reductionWrite s n w)

/-- Changes that wait for a pinned-region entry, oldest first. -/
def pinnedWaiting (s : State) (g i : Nat) : List (Nat × Nat × BitVec 128) := s.pinnedWrites.filter (fun p => p.1 == g && p.2.1 == i)

/-- The entry as it will be once the changes that wait are made. -/
def pinnedNext (s : State) (g i : Nat) : BitVec 128 := (((pinnedWaiting s g i).getLast?).map (·.2.2)).getD (tget (groveAt s g).pinned i 0)

/-- PINNED_REGION_WRITE: it waits while the entry is in use, and changes to one entry are made in their order (R233, R294). -/
def pinnedWrite (s : State) (g i : Nat) (e : BitVec 128) : State :=
  drainPinned { s with pinnedWrites := s.pinnedWrites ++ [(g, i % 4096, e)] }

def execPinnedRegionWrite (grove idx : Nat) (entry : BitVec 128) (s : State) : Host.Outcome State Fault Refusal :=
  .next (pinnedWrite s grove idx entry)

/-- PERF_SELECTOR_WRITE: the count is cleared (R323). -/
def perfSelector (s : State) (c n : Nat) (w : Word) : State :=
  modCell s c (fun x => { x with
    perfSel := rset x.perfSel (BitVec.ofNat 3 n) (w &&& 0xCFFF0000000000FF#64), perfCnt := rset x.perfCnt (BitVec.ofNat 3 n) 0 })

def execPerfSelectorWrite (cell n : Nat) (w : Word) (s : State) : Host.Outcome State Fault Refusal := .next (perfSelector s cell n w)

/-- BALANCER_CONTROL_WRITE: an ilog outside 12 to 24 leaves the field (Table 13.5). -/
def balancerWrite (old w : Word) : Word :=
  let i := (w.extractLsb' 32 5).toNat
  let ilog := if 12 ≤ i && i ≤ 24 then w.extractLsb' 32 5 else old.extractLsb' 32 5
  w.extractLsb' 63 1 ++ (0#26) ++ ilog ++ old.extractLsb' 0 32

def execBalancerControlWrite (die : Nat) (w : Word) (s : State) : Host.Outcome State Fault Refusal :=
  .next (modDie s die (fun x => { x with balancer := balancerWrite x.balancer w }))

/-! ## Other registers of the management window (Table 13.1) -/

/-- A resident position's own record, whichever context it holds. -/
def modPosition (s : State) (c : Nat) (p : BitVec 2) (f : Position → Position) : State :=
  modCell s c (fun x => { x with pos := rset x.pos p (f (rget x.pos p)) })

/-- A write to a position's handler table (R277); an `hset` of the same cycle counts as made before it (Table 13.10). DEDUCED (log 47). -/
def handlerWrite (s : State) (c : Nat) (p : BitVec 2) (i : Nat) (w : Word) : State :=
  match (rget (cellAt s c).pos p).ctx with
  | some ctx => modPosition (setHandler s c ctx i w) c p (fun x => { x with mgmtAt := tput x.mgmtAt i (s.cyc + 1) })
  | none => modPosition s c p (fun x => { x with handlers := tput x.handlers i w })

/-- The cell's tables of local memory changed: what its scratch windows hold may be another context's (R79, R183). -/
def newScratch (s : State) (c : Nat) : State := modCell s c (fun x => { x with scrCtx := Vector.replicate 8 none })

/-- A context becomes resident at a position, or leaves it; a new context finds the position's tables at reset (R10).
DESIGN CHOICE (log 76). -/
def residencyWrite (s : State) (c : Nat) (p : BitVec 2) (w : Word) : State :=
  let ctx := if w[63] then some (w.extractLsb' 0 12).toNat else none
  newScratch (modPosition s c p (fun x => if x.ctx == ctx then x else { Position.reset with ctx := ctx })) c

/-- A cell's block of Table 13.1 at 0x0010_0000. DEDUCED (log 79). -/
def cellWrite (s : State) (c off : Nat) (w : Word) : State :=
  if off = 0 then modCell s c (fun x => { x with slots := w &&& 0xBBBBBBBBBBBBBBBB#64 })
  else if 0x100 ≤ off && off < 0x380 then
    let i := (off - 0x100) % 0xA0 / 8
    handlerWrite s c (BitVec.ofNat 2 ((off - 0x100) / 0xA0)) i w
  else if 0xC00 ≤ off && off < 0xC40 then perfSelector s c ((off - 0xC00) / 8) w
  else if off = 0xE00 then releaseHold s c w
  else s

/-- A position's region table and scratch base at 0x0080_0000. DEDUCED (log 79). -/
def regionWrite (s : State) (c off : Nat) (w : Word) : State :=
  let p := BitVec.ofNat 2 (off / 0x100)
  let o := off % 0x100
  if o < 0x80 then newScratch (modPosition s c p (fun x => { x with regions := rset x.regions (BitVec.ofNat 4 (o / 8)) w })) c
  else if o = 0x80 then newScratch (modPosition s c p (fun x => { x with scratch := w })) c else s

/-- A context record's words at 0x0040_0000 (Table 15.2). -/
def recordWrite (s : State) (d ctx off : Nat) (w : Word) : State :=
  if off = 0 then
    let s := modCtxRec s d ctx (fun r => { r with pre := w[63] })
    if w[61] then startKill s ctx else s
  else if off = 0x10 then modCtxRec s d ctx (fun r => { r with base := w.extractLsb' 0 32, k := w.extractLsb' 60 4 })
  else if off = 0x18 then modCtxRec s d ctx (fun r => { r with ridx := w.extractLsb' 32 32 })
  else s

/-- Half of a 128-bit entry. -/
def setHalf (old : BitVec 128) (hi : Bool) (w : Word) : BitVec 128 := if hi then w ++ old.extractLsb' 0 64 else old.extractLsb' 64 64 ++ w

/-- A group entry with one of its six words written. The other words stand as they are; none of them clears ref (Table 13.7). -/
def groupWord (old : BitVec 384) (n : Nat) (w : Word) : BitVec 384 :=
  let field : BitVec 384 := BitVec.ofNat 384 (2 ^ 64 - 1) <<< (64 * n)
  let ref : BitVec 384 := if n = 0 then 0 else BitVec.ofNat 384 (2 ^ 62)
  (old &&& ~~~field &&& ~~~ref) ||| (w.setWidth 384 <<< (64 * n))

/-- The mailbox (Table 17.1); while go is 1, writes are ignored (R366). -/
def mailboxWrite (s : State) (off : Nat) (w : Word) : State :=
  let m := s.mailbox
  if m.go then s
  else if off = 0 then
    { s with mailbox := { m with go := w[63], cmd := w.extractLsb' 0 16, done := if w[63] then false else m.done } }
  else if 0x10 ≤ off && off < 0x40 then { s with mailbox := { m with args := rset m.args (BitVec.ofNat 3 ((off - 0x10) / 8)) w } }
  else s

/-- M := SHA-256 (M ‖ d). -/
def extend (s : State) (n : BitVec 4) (d : BitVec 256) : State :=
  { s with measure := rset s.measure n (measureExtend (rget s.measure n) d) }

/-- Nivar has done what step 3 asks of it: it has set the domain register, and a partition is enabled (R351, R359, R384). DEDUCED (log 71). -/
def step3Done (s : State) : Bool := s.domainSet && s.parts.toList.any (fun p => p.ctl[63])

/-- Step 3 ends, once: Nivar's configuration is extended, and nvr is 1 until the next cold boot (R384, R386). -/
def endStep3 (s : State) : State :=
  match s.step3 with
  | some d => if step3Done s then { extend s 3 d with cap := setBit64 s.cap 62 true, step3 := none } else s
  | none => s

/-- Registers that stand on die 0 alone. DEDUCED (log 79). -/
def die0Write (s : State) (off : Nat) (w : Word) : State :=
  if 0x500000 ≤ off && off < 0x500048 then mailboxWrite s (off - 0x500000) w
  else if off = 0x600000 then endStep3 { s with domain := w &&& 0x81FF000000000000#64, domainSet := true }
  else if 0x601000 ≤ off && off < 0x601400 then
    let i := (off - 0x601000) / 16
    { s with inbound := tput s.inbound i (setHalf (tget s.inbound i 0) (off % 16 == 8) w &&& 0xFFFFF000FFFFFFFFFFFFFFFFFFFFFFFF#128) }
  else if 0x602000 ≤ off && off < 0x602040 then reductionWrite s ((off - 0x602000) / 8) w
  else if 0x700000 ≤ off && off < 0x710000 then
    endStep3 (partitionWrite (.nivar 0) s ((off - 0x700000) / 0x1000) ((off - 0x700000) % 0x1000) w)
  else s

/-- MANAGEMENT_REGISTER_WRITE: 8 bytes at an offset of a die's window. An offset that names nothing writable changes nothing.
DESIGN CHOICE (log 76); DEDUCED (log 79). -/
def managementWrite (s : State) (d off : Nat) (w : Word) : State :=
  let d := d % 4
  if off % 8 ≠ 0 then s
  else if off < 0x200 then
    if off % 16 ≠ 8 then s else if w[62] then modStage s d (off / 16) (fun g => { g with hold := true }) else releaseStage s d (off / 16)
  else if 0x2000 ≤ off && off < 0x5000 then
    let i := (off - 0x2000) / 48
    groupTableWrite s d i (groupWord (groupAt s d i) ((off - 0x2000) % 48 / 8) w)
  else if off = 0x1000 then modDie s d (fun x => { x with balancer := balancerWrite x.balancer w })
  else if 0x6000 ≤ off && off < 0x6020 then wiredWrite s d (BitVec.ofNat 2 ((off - 0x6000) / 8)) w
  else if 0x100000 ≤ off && off < 0x200000 then cellWrite s (d * 256 + (off - 0x100000) / 0x1000) ((off - 0x100000) % 0x1000) w
  else if 0x200000 ≤ off && off < 0x300000 then
    let g := d * 16 + (off - 0x200000) / 0x10000
    let i := (off - 0x200000) % 0x10000 / 16
    pinnedWrite s g i (setHalf (pinnedNext s g i) (off % 16 == 8) w)
  else if 0x300000 ≤ off && off < 0x310000 then
    if off % 16 = 0 && (off - 0x300000) % 0x1000 < 0x800 then
      gateWrite s (d * 16 + (off - 0x300000) / 0x1000) ((off - 0x300000) % 0x1000 / 16) w
    else s
  else if 0x400000 ≤ off && off < 0x420000 then recordWrite s d ((off - 0x400000) / 32) ((off - 0x400000) % 32) w
  else if 0x800000 ≤ off && off < 0x840000 then regionWrite s (d * 256 + (off - 0x800000) / 0x400) ((off - 0x800000) % 0x400) w
  else if 0x840000 ≤ off && off < 0x842000 then
    modGrove s (d * 16 + (off - 0x840000) / 0x200) (fun x => { x with windows := tput x.windows ((off - 0x840000) % 0x200 / 8) w })
  else if 0x850000 ≤ off && off < 0x858000 then
    modDie s d (fun x => { x with roots := tput x.roots ((off - 0x850000) / 8) w })
  else if 0x900000 ≤ off && off < 0x902000 then
    residencyWrite s (d * 256 + (off - 0x900000) / 32) (BitVec.ofNat 2 ((off - 0x900000) % 32 / 8)) w
  else if d = 0 then die0Write s off w
  else s

/-- MANAGEMENT_REGISTER_WRITE, of Nivar or of a function of the host (R351). -/
def execManagementRegisterWrite (by_ : Writer) (off : Nat) (w : Word) (s : State) : Host.Outcome State Fault Refusal :=
  .next (match by_ with
    | .nivar die => managementWrite s die off w
    | .host f => hostWrite s f off w)

/-! ## Management reads of data (R369) -/

/-- Data that a management read can name: 8 bytes of grove or local memory, a barrier word's half, 8 bytes of a vector, tile or accumulator
register of a cell, or one of its tile configuration registers (Table 4.1). -/
inductive ManagedData
  | grove (g off : Nat)
  | loc (c off : Nat)
  | barrier (c b : Nat) (hi : Bool)
  | vector (c r i : Nat)
  | tile (c r i : Nat)
  | accumulator (c r i : Nat)
  | tileConfig (c r : Nat)
  deriving DecidableEq, Repr

/-- Byte `off` of a cell's local memory belongs to a protected context: to a region or the scratch area of one, or to its barrier word, which
stands there too (R179, R181, R369). -/
def localShielded (s : State) (c off : Nat) : Bool :=
  (cellAt s c).pos.toList.any (fun p => p.ctx.any (isProtected s) &&
    (localOk p off 1 false false || localOk p off 1 true false || localOk p off 1 false true ||
      (p.scratch[63] && decide ((p.scratch.extractLsb' 0 17).toNat ≤ off) && decide (off < (p.scratch.extractLsb' 0 17).toNat + 0x4000)))) ||
  (decide (0x16000 ≤ off) && decide (off < 0x18000) &&
    (let w := barAt s c ((off - 0x16000) / 16)
     barV w && isProtected s (barCtx w)))

/-- The data belongs to a protected context: in one of its windows, its local memory, its barrier word, or the files while it holds them. -/
def shielded (s : State) : ManagedData → Bool
  | .grove g off => (groveAt s g).windows.any (fun e =>
      let ctx := (e.2.extractLsb' 48 12).toNat
      isProtected s ctx && (windowCovers e.2 ctx off 8 false || windowCovers e.2 ctx off 8 true))
  | .loc c off => (List.range 8).any (fun i => localShielded s c (off + i))
  | .barrier c b _ => barV (barAt s c b) && isProtected s (barCtx (barAt s c b))
  | .vector c _ _ => held c
  | .tile c _ _ => held c
  | .accumulator c _ _ => held c
  | .tileConfig c _ => held c
where
  held (c : Nat) : Bool := (cellAt s c).efOwner.any (fun t => isProtected s (thr s c (BitVec.ofNat 3 t)).ctx.toNat)

/-- What a management read returns: zero of a protected context's data (R369). No offset of the window is given for it. DEDUCED (log 79). -/
def managementRead (s : State) (d : ManagedData) : Word :=
  if shielded s d then 0
  else match d with
    | .grove g off => word64At s (grvKey g off)
    | .loc c off => word64At s (locKey c off)
    | .barrier c b hi => (barAt s c b).extractLsb' (if hi then 64 else 0) 64
    | .vector c r i => (rget (cellAt s c).v (BitVec.ofNat 5 r)).extractLsb' (64 * i) 64
    | .tile c r i => (rget (cellAt s c).t (BitVec.ofNat 3 r)).extractLsb' (64 * i) 64
    | .accumulator c r i => (rget (cellAt s c).acc (BitVec.ofNat 2 r)).extractLsb' (64 * i) 64
    | .tileConfig c r => rget (cellAt s c).tcfg (BitVec.ofNat 3 r)

end Sys2Proof.Machine
end

