-- ==== Sys2Proof/Machine/Trust.lean ====
section
/-! DEFINITION. The security core: the mailbox's commands, key sessions, sealed ranges and their sweep, measurements, deep sleep and wake
(17_trust R366–R382). -/

namespace Sys2Proof.Machine

/-! ## The mailbox (R366, R367) -/

def arg (s : State) (n : BitVec 3) : Word := rget s.mailbox.args n

/-- The command ends with a status. -/
def reply (s : State) (st : Nat) : State :=
  { s with mailbox := { s.mailbox with go := false, done := true, st := BitVec.ofNat 16 st, session := none, granting := none } }

/-- No bit outside `mask` is set. -/
def onlyBits (w mask : Word) : Bool := w &&& ~~~mask == 0

/-- The command is listed and sets no reserved argument bit. -/
def commandOk (s : State) : Bool :=
  match s.mailbox.cmd.toNat with
  | 1 => onlyBits (arg s 0) 0x3F030F0FFF#64
  | 2 => onlyBits (arg s 0) 0x3F7FFFFF#64 && onlyBits (arg s 1) 0xE000000007FF07FF#64
  | 3 => onlyBits (arg s 0) 0xFFFFFFFF00000007#64 && onlyBits (arg s 3) 0xFFFF#64 && onlyBits (arg s 4) 0x3F#64
  | 4 => onlyBits (arg s 0) 0x3F#64 && onlyBits (arg s 4) 0x800000000000003F#64
  | 5 => onlyBits (arg s 0) 0x3F#64 && onlyBits (arg s 1) 0x3F#64
  | 6 => onlyBits (arg s 0) 0xFF#64 && (decide ((arg s 0).toNat < 0x10) || (decide (0x40 ≤ (arg s 0).toNat) && decide ((arg s 0).toNat < 0x80)))
  | 7 => onlyBits (arg s 0) 0x3F#64
  | 8 => true
  | 9 => onlyBits (arg s 0) 0xF#64
  | _ => false

/-- The mailbox asks for command `n`. -/
def asks (s : State) (n : Nat) : Bool := s.mailbox.go && commandOk s && s.mailbox.cmd.toNat == n

def command (s : State) (n : Nat) (f : State → Option State) : Host.Outcome State Fault Refusal :=
  event s (if asks s n then f s else none)

/-- MAILBOX_INVALID_COMMAND. -/
def execMailboxInvalidCommand (s : State) : Host.Outcome State Fault Refusal :=
  event s (if s.mailbox.go && !commandOk s then some (reply s 0xFFFF) else none)

/-! ## CREATE and GRANT (R293, R346, R368) -/

def isTenantKey (k : KeySlot) : Bool := k.v && k.kind == 1#2

def isVolumeKey (k : KeySlot) : Bool := k.v && k.kind == 2#2

/-- The security word CREATE writes (Table 17.3). -/
def newSecWord (a : Word) : Word :=
  0x8000000000000000#64 ||| (if a[24] then 0x4000000000000000#64 else 0) ||| (if a[25] then 0x2000000000000000#64 else 0) |||
    ((a.extractLsb' 16 4).setWidth 64 <<< 48) ||| (if a[25] then (a.extractLsb' 32 6).setWidth 64 <<< 32 else 0)

def killPending (s : State) (ctx : Nat) : Bool := [0, 1, 2, 3].any (fun d => (ctxRec s d ctx).kill)

/-- CREATE: waits while a kill of the id is unconfirmed, or its partition is in reset. -/
def createCtx (s : State) : Option State :=
  let a := arg s 0
  let ctx := (a.extractLsb' 0 12).toNat
  if killPending s ctx || (rget s.parts (a.extractLsb' 16 4)).ctl[61] then none
  else if (secWord s ctx)[63] then some (reply s 1)
  else if a[25] && !isTenantKey (rget s.keys (a.extractLsb' 32 6)) then some (reply s 2)
  else some (reply { s with secWords := tput s.secWords ctx (newSecWord a) } 0)

def execCreateCmd (s : State) : Host.Outcome State Fault Refusal := command s 1 createCtx

/-- Threads of the cell on which a take of the context runs. DEDUCED (log 48). -/
def takesOf (s : State) (c ctx : Nat) : List (Nat × Nat) :=
  (allThreads.filter (fun t =>
    let x := thr s c t
    x.phase != .idle && x.phase != .reporting && x.ctx.toNat == ctx)).map (fun t => (c, t.toNat))

/-- DEDUCED (log 48). -/
def stillRuns (s : State) (e : Nat × Nat) : Bool :=
  let x := thr s e.1 (BitVec.ofNat 3 e.2)
  x.phase != .idle && x.phase != .reporting

/-- GRANT: the entry is written at once; the command is done once the takes that may have been checked before have ended.
DEDUCED (log 48, 80). -/
def grantEntry (s : State) : Option State :=
  match s.mailbox.granting with
  | none =>
    let a := arg s 0
    let ctx := (a.extractLsb' 0 12).toNat
    let c := (a.extractLsb' 12 11).toNat
    if !resident s c ctx then some (reply s 1)
    else
      let s := modPos s c ctx (fun p => { p with grants := tput p.grants (a.extractLsb' 24 6).toNat (arg s 1 &&& 0xE000000007FF07FF#64) })
      match takesOf s c ctx with
      | [] => some (reply s 0)
      | ts => some { s with mailbox := { s.mailbox with granting := some ts } }
  | some ts =>
    let l := ts.filter (stillRuns s)
    if l.isEmpty then some (reply s 0)
    else if l.length < ts.length then some { s with mailbox := { s.mailbox with granting := some l } } else none

/-- DEDUCED (log 80). -/
def execGrantCmd (s : State) : Host.Outcome State Fault Refusal := command s 2 grantEntry

/-! ## Sessions and the key store (R375, R376) -/

/-- SESSION: the core opens the session and waits for the service. -/
def openSession (s : State) : Option State :=
  if s.mailbox.session.isSome then none
  else some { s with mailbox := { s.mailbox with session := some ((arg s 0).extractLsb' 32 32, (arg s 4).extractLsb' 0 6, s.cyc.toNat) } }

def execSessionCmd (s : State) : Host.Outcome State Fault Refusal := command s 3 openSession

/-- A slot is free or belongs to the tenant. -/
def slotTaken (s : State) (tenant : BitVec 32) (i : BitVec 6) : Bool := (rget s.keys i).v && (rget s.keys i).tenant != tenant

/-- A key goes into its slot; a tenant key brings the message key derived from it (R375). -/
def installKey (tenant : BitVec 32) (kind : BitVec 2) (s : State) (e : BitVec 6 × BitVec 512) : State :=
  let k := rget s.keys e.1
  let msg := if kind == 1#2 then messageKey (e.2.extractLsb' 0 256) s.nonce else 0
  { s with keys := rset s.keys e.1 ⟨true, kind, false, tenant, k.gen + 1, e.2, msg⟩ }

/-- KEY_SERVICE_REPLY: every key is installed, or none. -/
def keyReply (s : State) (accept : Bool) (volumes : List (BitVec 6 × BitVec 512)) (tenantKey : BitVec 256) : Option State :=
  s.mailbox.session.map (fun (e : BitVec 32 × BitVec 6 × Nat) =>
    let (tenant, slot, _) := e
    if !accept || 16 < volumes.length || slotTaken s tenant slot || volumes.any (fun v => slotTaken s tenant v.1) then reply s 4
    else reply (volumes.foldl (installKey tenant 2#2) (installKey tenant 1#2 s (slot, tenantKey.setWidth 512))) 0)

/-- DESIGN CHOICE (log 88). -/
def execKeyServiceReply (accept : Bool) (volumes : List (BitVec 6 × BitVec 512)) (tenantKey : BitVec 256) (s : State) :
    Host.Outcome State Fault Refusal := event s (keyReply s accept volumes tenantKey)

/-- SESSION_TIMEOUT: 2^36 cycles without the service. -/
def sessionExpired (s : State) : Option State :=
  s.mailbox.session.bind (fun (e : BitVec 32 × BitVec 6 × Nat) => if s.cyc.toNat - e.2.2 < 2 ^ 36 then none else some (reply s 5))

def execSessionTimeout (s : State) : Host.Outcome State Fault Refusal := event s (sessionExpired s)

/-- A live context, a range or a sweep names the slot. -/
def slotNamed (s : State) (i : BitVec 6) : Bool :=
  s.secWords.any (fun e => e.2[63] && e.2[61] && e.2.extractLsb' 32 6 == i) ||
    s.ranges.toList.any (fun r => r.v && (r.slot == i || (r.sw && r.nslot == i)))

/-- DEDUCED (log 68). -/
def eraseKey (s : State) (i : BitVec 6) : State :=
  { s with keys := rset s.keys i { KeySlot.reset with gen := (rget s.keys i).gen } }

/-- ERASE. -/
def eraseSlot (s : State) : Option State :=
  let i := (arg s 0).extractLsb' 0 6
  some (if slotNamed s i then reply s 11 else reply (eraseKey s i) 0)

def execEraseCmd (s : State) : Host.Outcome State Fault Refusal := command s 7 eraseSlot

/-! ## Ranges and their sweep (R370, R378, R379) -/

def disjoint (a n b m : Nat) : Bool := !meets a n b m

/-- MACs of a range. -/
def macLen (len : Nat) : Nat := len / 256 * 8

/-- The data and the MAC array overlap neither each other nor those of another range. -/
def rangeFits (s : State) (i : BitVec 6) (base len mac : Nat) : Bool :=
  disjoint base len mac (macLen len) &&
    (List.range 64).all (fun j =>
      let r := rget s.ranges (BitVec.ofNat 6 j)
      j == i.toNat || !r.v ||
        (disjoint base len r.base.toNat r.len.toNat && disjoint base len r.macbase.toNat (macLen r.len.toNat) &&
          disjoint mac (macLen len) r.base.toNat r.len.toNat && disjoint mac (macLen len) r.macbase.toNat (macLen r.len.toNat)))

/-- The home keys of a held effect, once granted. -/
def grantedKeys : Effect → List Nat
  | .store _ _ _ (some ks) _ _ => ks
  | .rmw _ _ _ (some ks) _ _ _ => ks
  | .rbr _ _ _ _ _ (some ks) _ => ks
  | _ => []

/-- A protected take holds an effect or an engine operation granted in the range, or a block read, a posted access or a copy of one is under way
there (R189, R383). -/
def rangeHeld (s : State) (r : SealedRange) : Bool :=
  let inside : Nat → Bool := fun k => decide (hbmKey r.base.toNat ≤ k) && decide (k < hbmKey (r.base.toNat + r.len.toNat))
  s.cells.any (fun e =>
      e.2.threads.toList.any (fun x => isProtected s x.ctx.toNat && x.effects.any (fun f => (grantedKeys f).any inside)) ||
      (e.2.vxf.toList ++ e.2.mxf.toList).any (fun o =>
        isProtected s (rget e.2.threads (BitVec.ofNat 3 o.th)).ctx.toNat && (o.keys.getD []).any inside) ||
      e.2.jobs.any (jobHolds s e.1 inside)) ||
    s.reqs.any (fun q => isProtected s q.ctx && (match q.kind with
      | .block _ ks _ _ _ => ks.any inside
      | .posted ks _ _ => ks.any inside
      | _ => false))

/-- The bytes lie within the 384 GiB of HBM (R1). -/
def inHbm (base len : Nat) : Bool := !pastHbm base len

/-- RANGE: writes or clears an entry; a clear waits for granted effects (R383). A base or a MAC array past the end of HBM is refused with status 9.
DEDUCED (log 68); DESIGN CHOICE (log 119). -/
def writeRange (s : State) : Option State :=
  let i := (arg s 0).extractLsb' 0 6
  let r := rget s.ranges i
  let base := (arg s 1).toNat
  let len := (arg s 2).toNat
  let mac := (arg s 3).toNat
  let slot := (arg s 4).extractLsb' 0 6
  if (arg s 4)[63] then
    if r.sw && !r.hlt then some (reply s 10)
    else if rangeHeld s r then none
    else some (reply { s with ranges := rset s.ranges i SealedRange.reset } 0)
  else if !isVolumeKey (rget s.keys slot) then some (reply s 8)
  else if base % 0x10000 ≠ 0 || len % 0x10000 ≠ 0 || mac % 64 ≠ 0 || !inHbm base len || !inHbm mac (macLen len) || !rangeFits s i base len mac then
    some (reply s 9)
  else if r.sw then some (reply s 10)
  else if rangeHeld s r then none
  else
    let r' : SealedRange := ⟨true, false, slot, 0, false, 0, BitVec.ofNat 48 mac, BitVec.ofNat 48 len, BitVec.ofNat 48 base⟩
    some (reply { s with ranges := rset s.ranges i r' } 0)

def execRangeCmd (s : State) : Host.Outcome State Fault Refusal := command s 4 writeRange

/-- DEDUCED (log 68). -/
def sweepActive (s : State) : Bool := s.ranges.toList.any (fun r => r.v && r.sw)

/-- SWEEP. DEDUCED (log 68). -/
def startSweep (s : State) : Option State :=
  let i := (arg s 0).extractLsb' 0 6
  let r := rget s.ranges i
  let n := (arg s 1).extractLsb' 0 6
  some (if !r.v || !isVolumeKey (rget s.keys n) || (rget s.keys n).tenant != (rget s.keys r.slot).tenant then reply s 8
    else if sweepActive s then reply s 10
    else reply { s with ranges := rset s.ranges i { r with nslot := n, sptr := 0, sw := true, hlt := false } } 0)

def execSweepCmd (s : State) : Host.Outcome State Fault Refusal := command s 5 startSweep

/-- SWEEP_BLOCK: one block moves to the new key; a MAC mismatch halts the sweep. DEDUCED (log 70). -/
def sweepOne (s : State) (i : BitVec 6) : Option State :=
  let r := rget s.ranges i
  if !r.v || !r.sw || r.hlt then none
  else
    let put : State → SealedRange → State := fun s r => { s with ranges := rset s.ranges i r }
    let j := r.sptr.toNat
    if r.len.toNat / 256 ≤ j then some (put s { r with slot := r.nslot, sw := false })
    else
      match openBlock s { r with sw := false } j with
      | none =>
        let m := s.mailbox
        some (put { s with mailbox := { m with ievt := if m.ievt = 0xFFFFFFFF#32 then m.ievt else m.ievt + 1 } } { r with hlt := true })
      | some bs =>
        let s := sealBlock s r r.nslot j bs
        some (put s (if j + 1 = r.len.toNat / 256 then { r with sptr := r.sptr + 1, slot := r.nslot, sw := false } else { r with sptr := r.sptr + 1 }))

/-- DEDUCED (log 70). -/
def execSweepBlock (range : Nat) (s : State) : Host.Outcome State Fault Refusal := event s (sweepOne s (BitVec.ofNat 6 range))

/-! ## Measurements (R367, R377) -/

/-- The status word of a slot (Table 17.4). -/
def slotStatus (k : KeySlot) : Word :=
  BitVec.ofBool k.v ++ k.kind ++ BitVec.ofBool k.susp ++ (0#12) ++ k.tenant ++ k.gen

def setArgs (s : State) (l : List Word) : State :=
  { s with mailbox := { s.mailbox with args := (l.zip (List.range l.length)).foldl (fun a e => rset a (BitVec.ofNat 3 e.2) e.1) s.mailbox.args } }

/-- READ. -/
def readSelector (s : State) : Option State :=
  let n := (arg s 0).toNat
  if n < 16 then
    let m := rget s.measure (BitVec.ofNat 4 n)
    some (reply (setArgs s [m.extractLsb' 0 64, m.extractLsb' 64 64, m.extractLsb' 128 64, m.extractLsb' 192 64]) 0)
  else some (reply (setArgs s [slotStatus (rget s.keys (BitVec.ofNat 6 (n - 0x40)))]) 0)

def execReadCmd (s : State) : Host.Outcome State Fault Refusal := command s 6 readSelector

/-- EXTEND. -/
def extendReg (s : State) : Option State :=
  let n := (arg s 0).extractLsb' 0 4
  some (if n.toNat < 8 then reply s 13 else reply (extend s n (arg s 4 ++ arg s 3 ++ arg s 2 ++ arg s 1)) 0)

def execExtendCmd (s : State) : Host.Outcome State Fault Refusal := command s 9 extendReg

/-! ## Deep sleep and wake (R380–R382) -/

/-- The contexts that exist. -/
def liveContexts (s : State) : List Nat := (s.secWords.filter (fun e => e.2[63])).map (·.1)

/-- The runs of memory that belong to a context: its grove windows, local regions and barrier words. -/
def contextRuns (s : State) (ctx : Nat) : List (Nat × Nat) :=
  let windows := s.groves.flatMap (fun g => (g.2.windows.filter (fun e => e.2[63] && (e.2.extractLsb' 48 12).toNat == ctx)).map (fun e =>
    (grvKey g.1 ((e.2.extractLsb' 16 8).toNat * 0x10000), ((e.2.extractLsb' 32 8).toNat + 1) * 0x10000)))
  let regions := s.cells.flatMap (fun c => ((posOf s c.1 ctx).regions.toList.filter (fun w => w[63])).map (fun w =>
    (locKey c.1 (w.extractLsb' 0 17).toNat, (w.extractLsb' 32 17).toNat)))
  let barriers := s.cells.flatMap (fun c => ((List.range 512).filter (fun b => barV (barAt s c.1 b) && barCtx (barAt s c.1 b) == ctx)).map
    (fun b => (barKey c.1 b, 16)))
  windows ++ regions ++ barriers

/-- What SLEEP saves, in order: context, key, length. DESIGN CHOICE (log 69). -/
def saveRuns (s : State) : List (Nat × Nat × Nat) :=
  ((liveContexts s).filter (isProtected s)).flatMap (fun ctx => (contextRuns s ctx).map (fun e => (ctx, e.1, e.2)))

def saveBytes (s : State) : Nat := ((saveRuns s).map (fun e => e.2.2)).sum

def saveBlocks (s : State) : Nat := (saveBytes s + 255) / 256

/-- Seals one block of the save area; the MACs follow the last block (R381). DESIGN CHOICE (log 69). -/
def saveBlock (base blocks : Nat) (bytes : List Byte) (s : State) (j : Nat) : State :=
  let c := xtsEncrypt Config.sleepKey j (bytesToVec ((bytes.drop (256 * j)).take 256))
  let s := applyWrite s (keysFrom (hbmKey (base + 256 * j)) 256) (leBytes 256 c.toNat)
  applyWrite s (keysFrom (hbmKey (base + 256 * blocks + 8 * j)) 8) (leBytes 8 (blockMac Config.sleepKey j c).toNat)

def setSusp (w : Word) (b : Bool) : Word := setBit64 w 60 b

/-- SLEEP. A save area that does not lie within HBM is too small. DEDUCED (log 12); DESIGN CHOICE (log 69, 119). -/
def sleep (s : State) : Option State :=
  let base := (arg s 0).toNat
  let ok := (liveContexts s).all (fun ctx => [0, 1, 2, 3].all (fun d => quiet s d ctx))
  some (if !ok then reply s 6
    else if sweepActive s then reply s 10
    else if (arg s 1).toNat < 264 * saveBlocks s || !inHbm base (264 * saveBlocks s) then reply s 12
    else
      let bytes := (saveRuns s).flatMap (fun e => readKeys s.mem (keysFrom e.2.1 e.2.2))
      let n := saveBlocks s
      let s := (List.range n).foldl (saveBlock base n bytes) s
      let s := { s with
        keys := s.keys.map (fun k => { k with susp := true }),
        secWords := s.secWords.map (fun e => (e.1, if e.2[63] && e.2[61] then setSusp e.2 true else e.2)), asleep := some (base, n) }
      reply s 0)

def execSleepCmd (s : State) : Host.Outcome State Fault Refusal := command s 8 sleep

/-- The saved bytes as the sleep key opens them. DESIGN CHOICE (log 69). -/
def savedBytes (s : State) (base n : Nat) : List Byte :=
  (List.range n).flatMap (fun j =>
    leBytes 256 (xtsDecrypt Config.sleepKey j (bytesToVec (readKeys s.mem (keysFrom (hbmKey (base + 256 * j)) 256)))).toNat)

/-- Walks the saved runs with their offsets. -/
def eachRun (f : State → Nat → Nat → Nat → Nat → State) : List (Nat × Nat × Nat) → Nat → State → State
  | [], _, s => s
  | (ctx, k, n) :: r, off, s => eachRun f r (off + n) (f s ctx k off n)

/-- Bytes that read undefined after wake (R380). DESIGN CHOICE (log 85). -/
def forgetRun (s : State) (k n : Nat) : State :=
  { applyWrite s (keysFrom k n) ((List.range n).map (fun i => Config.freeByte (k + i) s.fresh)) with fresh := s.fresh + 1 }

/-- A suspended tenant whose session is refused: its slots are erased and its contexts killed (R382). -/
def dropTenant (s : State) (tenant : BitVec 32) : State :=
  let cs := (liveContexts s).filter (fun ctx => isProtected s ctx && tenantOf s ctx == tenant)
  let s := cs.foldl startKill s
  (List.range 64).foldl (fun s i =>
    let i := BitVec.ofNat 6 i
    if (rget s.keys i).v && (rget s.keys i).tenant == tenant then eraseKey s i else s) s

/-- A tenant whose session is accepted: susp is cleared on its slots and contexts. -/
def resumeTenant (s : State) (tenant : BitVec 32) : State :=
  { s with
    secWords := s.secWords.map (fun e => (e.1, if e.2[61] && tenantOf s e.1 == tenant then setSusp e.2 false else e.2)),
    keys := s.keys.map (fun k => if k.v && k.tenant == tenant then { k with susp := false } else k) }

/-- A refused tenant's part of the save area is zeroed: its bytes, and the MACs of the blocks it touches (R382). -/
def wipeSaved (base blocks off n : Nat) (s : State) : State :=
  let s := applyWrite s (keysFrom (hbmKey (base + off)) n) (List.replicate n 0)
  ((List.range blocks).filter (fun j => decide (256 * j < off + n) && decide (off < 256 * (j + 1)))).foldl (fun s j =>
    applyWrite s (keysFrom (hbmKey (base + 256 * blocks + 8 * j)) 8) (List.replicate 8 0)) s

/-- WAKE with the tenants that the service accepts. DEDUCED (log 12); DESIGN CHOICE (log 69, 85). -/
def wake (s : State) (accepted : List (BitVec 32)) : Option State :=
  s.asleep.map (fun (e : Nat × Nat) =>
    let (base, n') := e
    let bytes := savedBytes s base n'
    let s0 := s
    let runs := saveRuns s
    let kept : Nat → Bool := fun ctx => isProtected s ctx && accepted.contains (tenantOf s ctx)
    let s := ((liveContexts s).filter (fun ctx => !kept ctx)).foldl (fun s ctx =>
      (contextRuns s0 ctx).foldl (fun s e => forgetRun s e.1 e.2) s) s
    let s := eachRun (fun s ctx k off n =>
      if accepted.contains (tenantOf s0 ctx) then applyWrite s (keysFrom k n) ((bytes.drop off).take n)
      else wipeSaved base n' off n s) runs 0 s
    let tenants := ((s0.keys.toList.filter (fun k => k.v && k.susp)).map (·.tenant)).eraseDups
    let s := tenants.foldl (fun s t => if accepted.contains t then resumeTenant s t else dropTenant s t) s
    { s with asleep := none })

def execWake (accepted : List (BitVec 32)) (s : State) : Host.Outcome State Fault Refusal := event s (wake s accepted)

end Sys2Proof.Machine
end

