-- ==== Sys2Proof/Machine/Bringup.lean ====
section
/-! DEFINITION. Bring-up, the capability register and the clocks of the dies (18_bringup R384–R390). -/

namespace Sys2Proof.Machine

/-! ## The capability register (R386) -/

def setCap (s : State) (i : Nat) (b : Bool) : State := { s with cap := setBit64 s.cap i b }

/-- A die's clock in eighths of 3.0 GHz. -/
def clkOf (s : State) (d : Nat) : Nat := s.cap.toNat / 2 ^ (4 * d) % 16

def setClk (s : State) (d k : Nat) : State :=
  let m : Word := 15#64 <<< (4 * d)
  { s with cap := (s.cap &&& ~~~m) ||| (BitVec.ofNat 64 k <<< (4 * d)) }

/-- full: every die, hbm, f4 and fclk bit is 1, and thr is 0. -/
def withFull (s : State) : State :=
  setCap s 63 (s.cap.extractLsb' 32 16 == 0xFFFF#16 && !s.cap[61])

/-- The bring-up step of a die (R384). -/
def stepOf (s : State) (d : Nat) : Nat := (dieAt s d).bringup

def setStep (s : State) (d n : Nat) : State := modDie s d (fun x => { x with bringup := n })

/-! ## Boot (R384, R385) -/

/-- COLD_BOOT: from reset, the first image that verifies runs, and Nivar after it, where it verifies, which begins step 3; the device stays in step 1
or step 2 otherwise. What the outside has yet to do, and the counter of free values, are no part of the device. DEDUCED (log 71). -/
def coldBoot (s : State) (first second : Option (BitVec 256)) (nivar : Option (BitVec 256)) (config nivarConfig : BitVec 256) : State :=
  let s := { State.reset with
    agenda := s.agenda, reqErrors := s.reqErrors, copyErrors := s.copyErrors, opErrors := s.opErrors, nonce := Config.bootNonce s.fresh, fresh := s.fresh + 1 }
  match first.or second, nivar with
  | none, _ => s
  | some d, none => extend s 0 d
  | some d, some n => { extend (extend (extend s 0 d) 1 n) 2 config with step3 := some nivarConfig }

/-- DEDUCED (log 71). -/
def execColdBoot (first second nivar : Option (BitVec 256)) (config nivarConfig : BitVec 256) (s : State) :
    Host.Outcome State Fault Refusal := .next (coldBoot s first second nivar config nivarConfig)

/-- DIE_TEST_COMPLETE, once step 3 has ended (R384, R389): a die that passes runs at 1.5 GHz. -/
def dieTest (s : State) (d : Nat) (ok : Bool) (digest : BitVec 256) : Option State :=
  if !s.cap[62] || stepOf s d != 0 || 4 ≤ d then none
  else
    let s := extend s (BitVec.ofNat 4 (4 + d)) digest
    some (withFull (if ok then setClk (setCap (setStep s d 1) (36 + d) true) d 4 else setCap (setStep s d 3) (56 + d) true))

def execDieTestComplete (die : Nat) (ok : Bool) (digest : BitVec 256) (s : State) : Host.Outcome State Fault Refusal :=
  event s (dieTest s die ok digest)

/-- HBM_TRAINING_COMPLETE. -/
def hbmTraining (s : State) (d : Nat) (ok : Bool) : Option State :=
  if stepOf s d != 1 || 4 ≤ d then none else some (withFull (setCap (setStep s d 2) ((if ok then 40 else 52) + d) true))

def execHbmTrainingComplete (die : Nat) (ok : Bool) (s : State) : Host.Outcome State Fault Refusal := event s (hbmTraining s die ok)

/-- FOUR_BIT_TEST_COMPLETE. -/
def fourBitTest (s : State) (d : Nat) (ok : Bool) : Option State :=
  if stepOf s d != 2 || 4 ≤ d then none else some (withFull (setCap (setStep s d 3) ((if ok then 44 else 48) + d) true))

def execFourBitTestComplete (die : Nat) (ok : Bool) (s : State) : Host.Outcome State Fault Refusal := event s (fourBitTest s die ok)

/-! ## Clocks (R387, R390) -/

/-- BRINGUP_CLOCK_RAISE: the die first reaches 3.0 GHz. -/
def clockRaise (s : State) (d : Nat) : Option State :=
  if !dieRuns s d || (dieAt s d).raised || 4 ≤ d then none
  else some (withFull (setClk (setCap (modDie s d (fun x => { x with raised := true })) (32 + d) true) d 8))

def execBringupClockRaise (die : Nat) (s : State) : Host.Outcome State Fault Refusal := event s (clockRaise s die)

/-- CLOCK_THROTTLE: one step down, to no less than 1.5 GHz. -/
def throttle (s : State) (d : Nat) : Option State :=
  if !dieRuns s d || !(dieAt s d).raised || clkOf s d ≤ 4 || 4 ≤ d then none
  else some (withFull (setCap (setCap (setClk s d (clkOf s d - 1)) (32 + d) false) 61 true))

def execClockThrottle (die : Nat) (s : State) : Host.Outcome State Fault Refusal := event s (throttle s die)

/-- Every die that bring-up raised is back at 3.0 GHz. -/
def allFast (s : State) : Bool := [0, 1, 2, 3].all (fun d => !(dieAt s d).raised || clkOf s d == 8)

/-- CLOCK_RESTORE: one step up. -/
def restoreClock (s : State) (d : Nat) : Option State :=
  if !dieRuns s d || !(dieAt s d).raised || 8 ≤ clkOf s d || 4 ≤ d then none
  else
    let k := clkOf s d + 1
    let s := setCap (setClk s d k) (32 + d) (k == 8)
    some (withFull (if allFast s then setCap s 61 false else s))

def execClockRestore (die : Nat) (s : State) : Host.Outcome State Fault Refusal := event s (restoreClock s die)

end Sys2Proof.Machine
end

