-- ==== Sys2Proof/Machine/Events.lean ====
section
/-! DEFINITION. The event of the device that happens next: the first enabled one, in a fixed order. What the outside decides (a host's write,
a test's outcome, a loss on a link) is no event of the device; it stands in the agenda. -/

namespace Sys2Proof.Machine

/-- The instruction, where its event can happen. -/
def offer (o : Option State) (i : Instr) : Option Instr := if o.isSome then some i else none

/-- Cells in which something can happen, with their threads that are not free. -/
def busyThreads (s : State) : List (Nat × BitVec 3) :=
  s.cells.flatMap (fun e => (allThreads.filter (fun t => (rget e.2.threads t).phase != .idle)).map (fun t => (e.1, t)))

def ofThreads (s : State) (f : Nat → BitVec 3 → Option Instr) : Option Instr := (busyThreads s).findSome? (fun e => f e.1 e.2)

def ofCells (s : State) (f : Nat → Option Instr) : Option Instr := (s.cells.map (·.1)).findSome? f

def ofReqs (s : State) (f : Req → Option Instr) : Option Instr := s.reqs.findSome? f

def fourDies : List Nat := [0, 1, 2, 3]

/-- UP reports and their confirmations (R322). -/
def reportEvent (s : State) : Option Instr :=
  s.launches.findSome? (fun l => (List.range 64).findSome? (fun g =>
    (offer (completionUp s l.id g) (.completionUp l.id g)).or (offer (completionConfirm s l.id g) (.completionConfirm l.id g))))

def killEvent (s : State) : Option Instr := s.kills.findSome? (nextKillEvent s)

/-- A moment has come. -/
def due (s : State) (n : Nat) : Bool := decide (n ≤ s.cyc.toNat)

/-- The request has reached its home. DESIGN CHOICE (log 7). -/
def atHome (s : State) (r : Req) : Bool := due s (r.born + Config.requestDelay r.id)

/-- The home's answer has come back. DESIGN CHOICE (log 7). -/
def isBack (s : State) (r : Req) : Bool := due s (r.born + Config.requestDelay r.id + Config.answerDelay r.id)

/-- The operation's cycles have passed; `vrecv` goes on with what has come (R159). DESIGN CHOICE (log 7, 36). -/
def ended (s : State) (o : Option EngOp) : Bool :=
  match o with
  | none => false
  | some o => (match o.insn with | .vrecv _ _ _ _ => true | _ => due s (o.start + Config.engineDelay o.id))

/-! ## Faults that reach one thread in the same cycle (R327, R350) -/

/-- A fault that an event would bring: its word, the cycle of that word, its cause code, and whether it is an `hwbar`'s timeout. -/
structure Rival where
  word : Nat
  time : Nat
  code : Nat
  timer : Bool
  deriving DecidableEq, Repr

/-- The earlier word goes first, then the lower code. The word of an `hwbar` is known by its cycle. -/
def Rival.before (a b : Rival) : Bool :=
  let (x, y) := if a.timer || b.timer then (a.time, b.time) else (a.word, b.word)
  decide (x < y) || (x == y && decide (a.code < b.code))

/-- The word that a request belongs to, and its cycle. -/
def reqWord (s : State) (r : Req) : Nat × Nat :=
  match r.kind with
  | .engine id => (r.word, match engineOp s r.cell id with | some (_, o) => o.pushed | none => r.born)
  | .posted _ _ _ => (r.word + 1, r.born)
  | _ => (r.word, r.born)

/-- The fault of an event `o` that belongs to the thread's word. -/
def rivalOf (s : State) (c : Nat) (t : BitVec 3) (w : Nat × Nat) (o : Option State) : Option Rival :=
  o.bind (fun s' => (faultedBy s s' c t).map (fun code => ⟨w.1, w.2, code, false⟩))

/-- The unit operations that can start or end now: each one's event, outcome, and operation. -/
def engineSteps (s : State) (c : Nat) : List (Instr × Option State × Option EngOp) :=
  let x := cellAt s c
  [(.vxOpStart c, startVx s c, x.vxq.head?), (.mxOpStart c, startMx s c, x.mxq.head?),
    (.vxOpComplete c, if ended s x.vxf then completeVx s c else none, x.vxf),
    (.mxOpComplete c, if ended s x.mxf then completeMx s c else none, x.mxf)]

def opWord (o : EngOp) : Nat × Nat := (o.words, o.pushed)

/-- The faults that stand before the thread in this cycle. -/
def rivals (s : State) (c : Nat) (t : BitVec 3) : List Rival :=
  let ops := (engineSteps s c).map (fun e => (e.2.1, e.2.2)) ++ [(serveCp s c, (cellAt s c).cpq.head?),
    (completeJoin s (groveOf c) (thr s c t).ctx.toNat, joinOp s c)]
  (s.reqs.filter (fun r => r.cell == c && r.th == t.toNat)).filterMap (fun r =>
    rivalOf s c t (reqWord s r) ((if isBack s r then takeAnswer s r.id else none).or (requestLost s r.id))) ++
  ops.filterMap (fun e => e.2.bind (fun o => if o.th == t.toNat then rivalOf s c t (opWord o) e.1 else none)) ++
  (match rget (thr s c t).y 14#4 with
    | .pending (.hwbar _ start _) => if (hwbarExpire s c t).isSome then [⟨0, start, causeCode .timeout, true⟩] else []
    | _ => [])

/-- The event can happen, and the fault it brings to the thread, if it brings one, is the one to be taken. -/
def fair (s : State) (c : Nat) (t : BitVec 3) (w : Nat × Nat) (o : Option State) (i : Instr) : Option Instr :=
  match rivalOf s c t w o with
  | some r => if (rivals s c t).any (fun q => q.before r) then none else some i
  | none => offer o i

def fairReq (s : State) (r : Req) (o : Option State) (i : Instr) : Option Instr := fair s r.cell (BitVec.ofNat 3 r.th) (reqWord s r) o i

def answerEvent (s : State) : Option Instr :=
  ofReqs s (fun r => if isBack s r then fairReq s r (takeAnswer s r.id) (.remoteAnswer r.id) else none)

/-- The thread waits in `mwait`. -/
def inMwait (x : Thread) : Bool := match rget x.y 15#4 with | .pending (.mwait _ _) => true | _ => false

/-- DESIGN CHOICE (log 8). -/
def unitEvent (s : State) : Option Instr :=
  ofThreads s (fun c t => (List.range 16).findSome? (fun u =>
    if u = 15 && inMwait (thr s c t) then none else
    let w := if u = 13 then ((cellAt s c).cpq.head?.map opWord).getD (0, 0) else (0, 0)
    fair s c t w (unitDone s c t (BitVec.ofNat 4 u)) (.unitOpComplete c t.toNat (BitVec.ofNat 4 u))))

/-- Engine files, starts and completions (R77, R144, R164). -/
def engineEvent (s : State) : Option Instr :=
  ofCells s (fun c =>
    (offer (acquireFiles s c) (.engineFileAcquire c)).or ((engineSteps s c).findSome? (fun e =>
      e.2.2.bind (fun o => fair s c (BitVec.ofNat 3 o.th) (opWord o) e.2.1 e.1))))

/-- A complete join; where it faults its entrants, the fault is each one's to be taken (R327, R350). -/
def joinEvent (s : State) : Option Instr :=
  s.groves.findSome? (fun e => e.2.joins.findSome? (fun j =>
    let o := completeJoin s e.1 j.ctx
    let i : Instr := .gmmaJoinComplete e.1 j.ctx
    let held := fun (c : Nat) => (joinOp s c).any (fun p => (fair s c (BitVec.ofNat 3 p.th) (opWord p) o i).isNone)
    if j.cells.any held then none else offer o i))

def wiredEvent (s : State) : Option Instr :=
  fourDies.findSome? (fun d => fourDies.findSome? (fun n => offer (wiredDeliver s d (BitVec.ofNat 2 n)) (.wiredCompletionDelivery d n)))

/-- Timeouts, after the completions of the cycle, which win against them (R307, R312, Table 14.11). DESIGN CHOICE (log 6). -/
def timeoutEvent (s : State) : Option Instr :=
  (ofThreads s (fun c t =>
    (offer (bwaitExpire s c t) (.bwaitTimeout c t.toNat)).or (offer (hwbarExpire s c t) (.hwbarTimeout c t.toNat)))).or
  (ofCells s (fun c => offer (timeoutVrecv s c) (.vrecvTimeout c)))

def budgetEvent (s : State) : Option Instr := ofThreads s (fun c t => offer (budgetEnds s c t) (.budget c t.toNat))

/-- An `mwait` returns at the end of the cycle, with every reason that came in it; its thread issues again in the next (R273). -/
def mwaitEvent (s : State) : Option Instr :=
  ofThreads s (fun c t =>
    if inMwait (thr s c t) then
      (offer (unitDone s c t 15#4) (.unitOpComplete c t.toNat 15#4)).or (offer (mwaitExpire s c t) (.mwaitTimeout c t.toNat))
    else none)

/-- What comes after the words of a cycle: timeouts, whose words issued before, then budgets, then the returns of `mwait` (R273, R320, R327).
DESIGN CHOICE (log 6). -/
def lateEvent (s : State) : Option Instr :=
  if s.asleep.isSome then none else (timeoutEvent s).or ((budgetEvent s).or (mwaitEvent s))

/-- Inserts a thread by the cycle in which its print began to wait, one that does not wait last. -/
def waitInsert (s : State) (e : Nat × BitVec 3) : List (Nat × BitVec 3) → List (Nat × BitVec 3)
  | [] => [e]
  | f :: r =>
    let key : Nat × BitVec 3 → Nat := fun e => (thr s e.1 e.2).waits.getD s.cyc.toNat
    if key e < key f then e :: f :: r else f :: waitInsert s e r

/-- Prints that wait go on in the order in which they began to wait (R235). -/
def printEvent (s : State) : Option Instr :=
  ((busyThreads s).foldl (fun l e => waitInsert s e l) []).findSome? (fun e => offer (printStep s e.1 e.2) (.print e.1 e.2.toNat))

/-- The delivery of a packet. -/
def deliveryOf (s : State) (f : Flight) : Option Instr :=
  let at_ := fun (g : Nat → Packet → State → Option State) (i : Instr) => offer (arrivePkt s f.id g) i
  match f.pkt with
  | .data _ _ _ _ _ _ _ _ => at_ onData (.dataPkt f.id)
  | .skip _ _ _ _ => at_ onData (.dataPkt f.id)
  | .note _ _ _ => at_ onNote (.notePkt f.id)
  | .fwd _ _ _ _ => at_ onFwd (.fwdPkt f.id)
  | .free _ _ _ _ _ => at_ onFree (.freePkt f.id)
  | .ret _ _ _ _ => at_ onReturn (.returnPkt f.id)
  | .credit _ _ _ => at_ onCredit (.creditPkt f.id)
  | .reg _ _ _ _ _ => at_ onReg (.regPkt f.id)
  | .moved _ _ _ _ _ => at_ onMoved (.movedPkt f.id)
  | .pull _ _ _ => at_ onPull (.pullPkt f.id)
  | .ship _ _ _ _ _ _ _ _ _ => at_ onShip (.shipPkt f.id)
  | .move _ _ _ _ _ => at_ onMove (.movePkt f.id)
  | .fin _ _ _ => at_ onEnd (.endPkt f.id)
  | .closer _ _ => at_ onCloser (.closerPkt f.id)
  | .closure _ _ => at_ onCloser (.closerPkt f.id)

/-- The cycle in which a packet arrives. DESIGN CHOICE (log 7). -/
def arrivesAt (f : Flight) : Nat := f.born + Config.packetDelay f.id

/-- Inserts a packet by the cycle of its arrival, behind those of the same cycle. -/
def arriveInsert (f : Flight) : List Flight → List Flight
  | [] => [f]
  | g :: r => if arrivesAt f < arrivesAt g then f :: g :: r else g :: arriveInsert f r

/-- Packets that have arrived are served in the order in which they arrived: where one waits, no later one takes what it waits for (R235). -/
def packetEvent (s : State) : Option Instr :=
  (((s.flights.filter (fun f => due s (arrivesAt f))).foldl (fun l f => arriveInsert f l) []).findSome? (deliveryOf s))

def arrivalEvent (s : State) : Option Instr :=
  ofReqs s (fun r => if atHome s r && deliverable s r then offer (arriveOwn s r.id) (.remoteRequestArrival (.own r.id)) else none)

def walkEvent (s : State) : Option Instr :=
  ofReqs s (fun r => (if atHome s r then missing s r else none).bind (fun va =>
    offer (walkDone s (groveOf r.cell) r.ctx va) (.tlbWalkComplete (groveOf r.cell) r.ctx (BitVec.ofNat 64 va))))

def laneEvent (s : State) : Option Instr :=
  (ofReqs s (fun r => if atHome s r then offer (enterLane s r.id) (.proxyAtomic r.id) else none)).or
  (fourDies.findSome? (fun d => (dieAt s d).lanes.findSome? (fun e => offer (laneDone s d e.1 false) (.hostAtomicCompletion d e.1 false))))

/-- A request whose packet is gone or that no plane delivers, and acknowledgements. -/
def settleEvent (s : State) : Option Instr :=
  (ofReqs s (fun r => if isBack s r then offer (acknowledge s r.id) (.acknowledgement r.id) else none)).or
  (ofReqs s (fun r => if r.stage == .expired || !deliverable s r then fairReq s r (requestLost s r.id) (.requestLost r.id) else none))

/-- A packet whose lifetime has run out is discarded (R344). -/
def lifetimeEvent (s : State) : Option Instr := ofReqs s (fun r => offer (lifetimeExpires s r.id) (.packetLifetimeExpiry r.id))

/-- The oldest kicked entry has waited its cycles. DESIGN CHOICE (log 7). -/
def kickDue (s : State) (c : Nat) : Bool :=
  match oldestKicked (cellAt s c) with
  | some (i, o) => (match (rget (cellAt s c).fifo i).st with | .kicked _ n => due s (n + 1 + Config.copyDelay o) | _ => false)
  | none => false

def copyEvent (s : State) : Option Instr :=
  ofCells s (fun c =>
    (if kickDue s c then offer (copyStart s c) (.copyStart c) else none).or ((offer (copyClaim s c) (.copyClaim c)).or ((offer (rdmaAck s c) (.rdmaAck c)).or
      ((offer (landingPacket s c) (.landingPacket c)).or (offer (copyPublish s c) (.copyPublish c))))))

/-- DESIGN CHOICE (log 6). -/
def launchEvent (s : State) : Option Instr :=
  (fourDies.findSome? (fun d => s.launches.findSome? (fun l => offer (launchPlacement s d l.ctx) (.launchPlacement d l.ctx)))).or
  (s.launches.findSome? (fun l => (List.range 64).findSome? (fun g => offer (completionDown s l.id g) (.completionDown l.id g))))

def retargetEvent (s : State) : Option Instr :=
  ofCells s (fun c => (positionCtxs s c).findSome? (fun ctx => offer (cellRetarget s c ctx) (.cellRetarget c ctx)))

/-- An invalidation that waited and can now be performed. -/
def waitingWrite (s : State) : Option Instr :=
  (s.invalidations.find? (fun i => pageIdle s i.1 i.2.1.toNat i.2.2.toNat)).map (fun i => .invalidation i.1 i.2.1 i.2.2)

def descriptorEvent (s : State) : Option Instr :=
  (List.range 16).findSome? (fun f => offer (descriptorRead s f) (.hostDescriptorRead f))

/-- The mailbox's command (R366, R367). -/
def mailboxEvent (s : State) : Option Instr :=
  if !s.mailbox.go then none
  else if !commandOk s then some .mailboxInvalidCommand
  else
    match s.mailbox.cmd.toNat with
    | 1 => offer (createCtx s) .createCmd
    | 2 => offer (grantEntry s) .grantCmd
    | 3 => (offer (openSession s) .sessionCmd).or (offer (sessionExpired s) .sessionTimeout)
    | 4 => offer (writeRange s) .rangeCmd
    | 5 => some .sweepCmd
    | 6 => some .readCmd
    | 7 => some .eraseCmd
    | 8 => some .sleepCmd
    | 9 => some .extendCmd
    | _ => none

def dispatchEvent (s : State) : Option Instr := ofCells s (fun c => (cellPick s c).map (fun _ => .dispatch c))

/-- The order in which enabled events happen. DESIGN CHOICE (log 5, 6). -/
def eventOrder : List (State → Option Instr) :=
  [reportEvent, killEvent, answerEvent, unitEvent, engineEvent, joinEvent, wiredEvent, printEvent, packetEvent, lifetimeEvent, arrivalEvent, walkEvent, laneEvent, settleEvent, copyEvent, launchEvent, retargetEvent, waitingWrite, descriptorEvent, mailboxEvent,
    dispatchEvent]

/-- The next event of the device; none in deep sleep (R380). DESIGN CHOICE (log 5, 6); DEDUCED (log 12). -/
def nextEvent (s : State) : Option Instr := if s.asleep.isSome then none else eventOrder.findSome? (fun f => f s)

/-- What the start of a cycle brings by the clock alone: balancer samples and intervals, and a sweep's block (R290, R378).
DESIGN CHOICE (log 10); DEDUCED (log 70). -/
def clockEvents (s : State) : List Instr :=
  let n := s.cyc.toNat
  (if n % 64 = 0 then fourDies.map (fun d => Instr.balancerSample d) else []) ++
    (fourDies.filter (fun d => n % 2 ^ ilogOf (dieAt s d) = 0)).map (fun d => Instr.balancingInterval d) ++
    (if n % 128 = 0 then ((List.range 64).filter (fun i =>
      let r := rget s.ranges (BitVec.ofNat 6 i)
      r.v && r.sw && !r.hlt)).map (fun i => Instr.sweepBlock i) else [])

/-- The clock: one cycle ends and the next begins. DESIGN CHOICE (log 8). -/
def clock (s : State) : State :=
  let s := drainWrites (tick { s with launches := s.launches.map (markLaunch s) })
  { s with agenda := clockEvents s }

end Sys2Proof.Machine
end

