-- ==== Sys2Proof/Machine/Moves.lean ====
section
/-! DEFINITION. Plain moves, pair words, `ldi`, `ldx` and the W32 control words (02_notation R38, R45, R50, 03_encoding R53–R56). -/

namespace Sys2Proof.Machine

/-- PLAIN_MOVE (R38). -/
def execPlainMove (src : Src) (dst : Dst) (s : State) : Host.Outcome State Fault Refusal :=
  word s (fun c t =>
    (readSrc s c t src).bind (fun r =>
      if dstReady s c t dst then some (modThr r.2 c t (fun x => advance (writeDst x dst r.1) 2)) else none))

/-- Two destinations a pair word may not share (R45). -/
def pairClash (d1 d2 : Dst) : Bool := d1 == d2 && d1 != .g 0 && d1 != .p 0

/-- PAIR_WORD: both sources are read before either write (R45, R50). -/
def execPairWord (src1 : Src) (dst1 : Dst) (src2 : Src) (dst2 : Dst) (s : State) : Host.Outcome State Fault Refusal :=
  word s (fun c t =>
    if pairClash dst1 dst2 then some (faultWord s c t .illegal)
    else
      (readSrc s c t src1).bind (fun r1 =>
        (readSrc r1.2 c t src2).bind (fun r2 =>
          if dstReady s c t dst1 && dstReady s c t dst2 then
            some (modThr r2.2 c t (fun x => advance (writeDst (writeDst x dst1 r1.1) dst2 r2.1) 4))
          else none)))

/-- The window of `ldx` quarter q: imm24 at bit 0, 24, 40 or 16 (Table 3.8). -/
def ldxShift (q : BitVec 2) : Nat := if q = 0 then 0 else if q = 1 then 24 else if q = 2 then 40 else 16

def ldxWrite (old : Word) (imm : BitVec 24) (q : BitVec 2) : Word :=
  let sh := ldxShift q
  (old &&& ~~~((0xFFFFFF#64) <<< sh)) ||| (imm.setWidth 64 <<< sh)

/-- LDX (R55). -/
def execLdx (imm : BitVec 24) (q : BitVec 2) (n : BitVec 3) (s : State) : Host.Outcome State Fault Refusal :=
  word s (fun c t =>
    if eReady s c t n then
      some (modThr s c t (fun x => advance { x with e := rset x.e n (ldxWrite (rget x.e n) imm q) } 4))
    else none)

/-- LDI (R54). -/
def execLdi (imm : BitVec 20) (n : BitVec 5) (s : State) : Host.Outcome State Fault Refusal :=
  word s (fun c t => some (modThr s c t (fun x => advance (writeG x n (imm.signExtend 64)) 4)))

/-- PC + 2 × Signed(T) (R138). -/
def relTarget (x : Thread) (v : Word) : Word := x.pc + 2 * v

/-- Branch by an offset: Y := 0 (R138). -/
def branchRel (x : Thread) (v : Word) : Thread := jumpTo { x with y := rset x.y 8#4 (.busy 0) } (relTarget x v)

/-- Call by an offset: g31 and Y hold the address after the word (R138). -/
def callRel (x : Thread) (v : Word) : Thread :=
  jumpTo { x with g := rset x.g 31#5 (x.pc + 4), y := rset x.y 8#4 (.busy (x.pc + 4)) } (relTarget x v)

/-- B_CONTROL: as the unguarded trigger `br.b` (R56). -/
def execBControl (off : BitVec 22) (s : State) : Host.Outcome State Fault Refusal :=
  word s (fun c t =>
    if unitBusy (thr s c t) 8 then none else some (modThr s c t (fun x => branchRel x (off.signExtend 64))))

/-- CALL_CONTROL: as the unguarded trigger `br.call` (R56). -/
def execCallControl (off : BitVec 22) (s : State) : Host.Outcome State Fault Refusal :=
  word s (fun c t =>
    if unitBusy (thr s c t) 8 then none else some (modThr s c t (fun x => callRel x (off.signExtend 64))))

end Sys2Proof.Machine
end

