-- ==== Sys2Proof/Machine/Scalar.lean ====
section
/-! DEFINITION. The scalar units `ia`, `ib`, `im`, `bs`, `cm`, `ad`, `fp` and `br` (06_scalar_ops). -/

namespace Sys2Proof.Machine

/-! ## `ia` and `ib` (R128, Table 6.3) -/

def iuIdx (u : IUnit) : BitVec 4 := match u with | .ia => 0 | .ib => 1

def sext32 (x : Word) : Word := (x.extractLsb' 0 32).signExtend 64

/-- ADD: A + T (R128). -/
def execAdd (u : IUnit) (grd : Guard) (src : Src) (s : State) : Host.Outcome State Fault Refusal :=
  compute s grd src (iuIdx u) (fun A _ T => A + T)

/-- ADDW (R128). -/
def execAddw (u : IUnit) (grd : Guard) (src : Src) (s : State) : Host.Outcome State Fault Refusal :=
  compute s grd src (iuIdx u) (fun A _ T => sext32 (A + T))

/-- SUB (R128). -/
def execSub (u : IUnit) (grd : Guard) (src : Src) (s : State) : Host.Outcome State Fault Refusal :=
  compute s grd src (iuIdx u) (fun A _ T => A - T)

/-- SUBW (R128). -/
def execSubw (u : IUnit) (grd : Guard) (src : Src) (s : State) : Host.Outcome State Fault Refusal :=
  compute s grd src (iuIdx u) (fun A _ T => sext32 (A - T))

/-- AND (R128). -/
def execAndi (u : IUnit) (grd : Guard) (src : Src) (s : State) : Host.Outcome State Fault Refusal :=
  compute s grd src (iuIdx u) (fun A _ T => A &&& T)

/-- OR (R128). -/
def execOri (u : IUnit) (grd : Guard) (src : Src) (s : State) : Host.Outcome State Fault Refusal :=
  compute s grd src (iuIdx u) (fun A _ T => A ||| T)

/-- XOR (R128). -/
def execXori (u : IUnit) (grd : Guard) (src : Src) (s : State) : Host.Outcome State Fault Refusal :=
  compute s grd src (iuIdx u) (fun A _ T => A ^^^ T)

/-- ANDN (R128). -/
def execAndn (u : IUnit) (grd : Guard) (src : Src) (s : State) : Host.Outcome State Fault Refusal :=
  compute s grd src (iuIdx u) (fun A _ T => A &&& ~~~T)

/-- ORN (R128). -/
def execOrn (u : IUnit) (grd : Guard) (src : Src) (s : State) : Host.Outcome State Fault Refusal :=
  compute s grd src (iuIdx u) (fun A _ T => A ||| ~~~T)

/-- MIN, signed (R128). -/
def execMin (u : IUnit) (grd : Guard) (src : Src) (s : State) : Host.Outcome State Fault Refusal :=
  compute s grd src (iuIdx u) (fun A _ T => if A.toInt ≤ T.toInt then A else T)

/-- MAX, signed (R128). -/
def execMax (u : IUnit) (grd : Guard) (src : Src) (s : State) : Host.Outcome State Fault Refusal :=
  compute s grd src (iuIdx u) (fun A _ T => if A.toInt ≤ T.toInt then T else A)

/-- MINU (R128). -/
def execMinu (u : IUnit) (grd : Guard) (src : Src) (s : State) : Host.Outcome State Fault Refusal :=
  compute s grd src (iuIdx u) (fun A _ T => if A.toNat ≤ T.toNat then A else T)

/-- MAXU (R128). -/
def execMaxu (u : IUnit) (grd : Guard) (src : Src) (s : State) : Host.Outcome State Fault Refusal :=
  compute s grd src (iuIdx u) (fun A _ T => if A.toNat ≤ T.toNat then T else A)

/-- ABS; −2^63 gives −2^63 (R128). -/
def execAbs (u : IUnit) (grd : Guard) (src : Src) (s : State) : Host.Outcome State Fault Refusal :=
  compute s grd src (iuIdx u) (fun _ _ T => if T.toInt < 0 then -T else T)

/-- PASS (R128). -/
def execPass (u : IUnit) (grd : Guard) (src : Src) (s : State) : Host.Outcome State Fault Refusal :=
  compute s grd src (iuIdx u) (fun _ _ T => T)

/-! ## `im` (R129) -/

def divS (a t : Word) : Word :=
  if t = 0 then BitVec.allOnes 64
  else if a = 0x8000000000000000#64 && t = BitVec.allOnes 64 then a
  else BitVec.ofInt 64 (Int.tdiv a.toInt t.toInt)

def remS (a t : Word) : Word :=
  if t = 0 then a
  else if a = 0x8000000000000000#64 && t = BitVec.allOnes 64 then 0
  else BitVec.ofInt 64 (Int.tmod a.toInt t.toInt)

/-- MUL: the low 64 bits of the product (R129). -/
def execMul (grd : Guard) (src : Src) (s : State) : Host.Outcome State Fault Refusal :=
  compute s grd src 2 (fun A _ T => A * T)

/-- MULH: the high 64 bits of the signed product (R129). -/
def execMulh (grd : Guard) (src : Src) (s : State) : Host.Outcome State Fault Refusal :=
  compute s grd src 2 (fun A _ T => BitVec.ofInt 64 (A.toInt * T.toInt / 2 ^ 64))

/-- MULHU (R129). -/
def execMulhu (grd : Guard) (src : Src) (s : State) : Host.Outcome State Fault Refusal :=
  compute s grd src 2 (fun A _ T => BitVec.ofNat 64 (A.toNat * T.toNat / 2 ^ 64))

/-- MULW (R129). -/
def execMulw (grd : Guard) (src : Src) (s : State) : Host.Outcome State Fault Refusal :=
  compute s grd src 2 (fun A _ T => sext32 (A * T))

/-- DIV (R129). -/
def execDiv (grd : Guard) (src : Src) (s : State) : Host.Outcome State Fault Refusal :=
  compute s grd src 2 (fun A _ T => divS A T)

/-- DIVU (R129). -/
def execDivu (grd : Guard) (src : Src) (s : State) : Host.Outcome State Fault Refusal :=
  compute s grd src 2 (fun A _ T => if T = 0 then BitVec.allOnes 64 else A / T)

/-- REM (R129). -/
def execRem (grd : Guard) (src : Src) (s : State) : Host.Outcome State Fault Refusal :=
  compute s grd src 2 (fun A _ T => remS A T)

/-- REMU (R129). -/
def execRemu (grd : Guard) (src : Src) (s : State) : Host.Outcome State Fault Refusal :=
  compute s grd src 2 (fun A _ T => if T = 0 then A else A % T)

/-! ## `bs` (R130, Table 6.4) -/

def shCount (t : Word) : Nat := (t.extractLsb' 0 6).toNat

/-- Leading zero bits, scanning from bit `n - 1` down. -/
def clzFrom (x : Word) : Nat → Nat
  | 0 => 0
  | n + 1 => if x.getLsbD n then 0 else clzFrom x n + 1

/-- Trailing zero bits, with `n` bits left to scan. -/
def ctzFrom (x : Word) : Nat → Nat
  | 0 => 0
  | n + 1 => if x.getLsbD (63 - n) then 0 else ctzFrom x n + 1

def popFrom (x : Word) : Nat → Nat
  | 0 => 0
  | n + 1 => (if x.getLsbD n then 1 else 0) + popFrom x n

/-- The low bit and width of the field that T describes, cut at bit 63. -/
def fieldLo (t : Word) : Nat := (t.extractLsb' 0 6).toNat

def fieldWidth (t : Word) : Nat := min ((t.extractLsb' 6 6).toNat + 1) (64 - fieldLo t)

/-- The `w` low bits set. -/
def lowMask (w : Nat) : Word := BitVec.ofNat 64 (2 ^ w - 1)

def extField (a t : Word) : Word :=
  let w := fieldWidth t
  let v := (a >>> fieldLo t) &&& lowMask w
  if t.getLsbD 12 && v.getLsbD (w - 1) then v ||| ~~~(lowMask w) else v

def insField (a b t : Word) : Word :=
  let m := lowMask (fieldWidth t) <<< fieldLo t
  (a &&& ~~~m) ||| ((b <<< fieldLo t) &&& m)

def revBytes (t : Word) : Word := BitVec.ofNat 64 (leNat (leBytes 8 t.toNat).reverse)

/-- SHL (R130). -/
def execShl (grd : Guard) (src : Src) (s : State) : Host.Outcome State Fault Refusal :=
  compute s grd src 3 (fun A _ T => A <<< shCount T)

/-- SHR (R130). -/
def execShr (grd : Guard) (src : Src) (s : State) : Host.Outcome State Fault Refusal :=
  compute s grd src 3 (fun A _ T => A >>> shCount T)

/-- SHA (R130). -/
def execSha (grd : Guard) (src : Src) (s : State) : Host.Outcome State Fault Refusal :=
  compute s grd src 3 (fun A _ T => A.sshiftRight (shCount T))

/-- ROL (R130). -/
def execRol (grd : Guard) (src : Src) (s : State) : Host.Outcome State Fault Refusal :=
  compute s grd src 3 (fun A _ T => A.rotateLeft (shCount T))

/-- CLZ (R130). -/
def execClz (grd : Guard) (src : Src) (s : State) : Host.Outcome State Fault Refusal :=
  compute s grd src 3 (fun _ _ T => BitVec.ofNat 64 (clzFrom T 64))

/-- CTZ (R130). -/
def execCtz (grd : Guard) (src : Src) (s : State) : Host.Outcome State Fault Refusal :=
  compute s grd src 3 (fun _ _ T => BitVec.ofNat 64 (ctzFrom T 64))

/-- POP (R130). -/
def execPop (grd : Guard) (src : Src) (s : State) : Host.Outcome State Fault Refusal :=
  compute s grd src 3 (fun _ _ T => BitVec.ofNat 64 (popFrom T 64))

/-- EXT (R130). -/
def execExt (grd : Guard) (src : Src) (s : State) : Host.Outcome State Fault Refusal :=
  compute s grd src 3 (fun A _ T => extField A T)

/-- INS (R130). -/
def execIns (grd : Guard) (src : Src) (s : State) : Host.Outcome State Fault Refusal :=
  compute s grd src 3 (fun A B T => insField A B T)

/-- REV (R130). -/
def execRev (grd : Guard) (src : Src) (s : State) : Host.Outcome State Fault Refusal :=
  compute s grd src 3 (fun _ _ T => revBytes T)

/-! ## `cm` (R131) -/

/-- A compare: its bit goes to a predicate and to Y (R131). -/
def comparePred (s : State) (grd : Guard) (src : Src) (p : BitVec 3) (f : Thread → Word → Word → Bool) :
    Host.Outcome State Fault Refusal :=
  trigger1 s grd src 4 (fun c t v s =>
    some (modThr s c t (fun x =>
      let b := f x (rget x.la 4#4) v
      withResult (writeP x p b) 4 (if b then 1 else 0))))

def pIndex (w : Word) : BitVec 3 := w.extractLsb' 0 3

/-- CEQ (R131). -/
def execCeq (grd : Guard) (src : Src) (p : BitVec 3) (s : State) : Host.Outcome State Fault Refusal :=
  comparePred s grd src p (fun _ A T => A == T)

/-- CNE (R131). -/
def execCne (grd : Guard) (src : Src) (p : BitVec 3) (s : State) : Host.Outcome State Fault Refusal :=
  comparePred s grd src p (fun _ A T => A != T)

/-- CLT, signed (R131). -/
def execClt (grd : Guard) (src : Src) (p : BitVec 3) (s : State) : Host.Outcome State Fault Refusal :=
  comparePred s grd src p (fun _ A T => decide (A.toInt < T.toInt))

/-- CLTU (R131). -/
def execCltu (grd : Guard) (src : Src) (p : BitVec 3) (s : State) : Host.Outcome State Fault Refusal :=
  comparePred s grd src p (fun _ A T => decide (A.toNat < T.toNat))

/-- CGE, signed (R131). -/
def execCge (grd : Guard) (src : Src) (p : BitVec 3) (s : State) : Host.Outcome State Fault Refusal :=
  comparePred s grd src p (fun _ A T => decide (T.toInt ≤ A.toInt))

/-- CGEU (R131). -/
def execCgeu (grd : Guard) (src : Src) (p : BitVec 3) (s : State) : Host.Outcome State Fault Refusal :=
  comparePred s grd src p (fun _ A T => decide (T.toNat ≤ A.toNat))

/-- CTST (R131). -/
def execCtst (grd : Guard) (src : Src) (p : BitVec 3) (s : State) : Host.Outcome State Fault Refusal :=
  comparePred s grd src p (fun _ A T => (A &&& T) != 0)

/-- PAND (R131). -/
def execPand (grd : Guard) (src : Src) (p : BitVec 3) (s : State) : Host.Outcome State Fault Refusal :=
  comparePred s grd src p (fun x A T => readP x (pIndex A) && readP x (pIndex T))

/-- POR (R131). -/
def execPor (grd : Guard) (src : Src) (p : BitVec 3) (s : State) : Host.Outcome State Fault Refusal :=
  comparePred s grd src p (fun x A T => readP x (pIndex A) || readP x (pIndex T))

/-- PNOT (R131). -/
def execPnot (grd : Guard) (src : Src) (p : BitVec 3) (s : State) : Host.Outcome State Fault Refusal :=
  comparePred s grd src p (fun x _ T => !readP x (pIndex T))

/-! ## `ad` (R132) -/

def addrOf (w : Word) : BitVec 56 := w.extractLsb' 0 56

def tagOf (w : Word) : BitVec 8 := w.extractLsb' 56 8

/-- Element width in bits of a tag's format code; 8 for codes 21 to 31 (Table 6.5). -/
def tagWidth (tag : BitVec 8) : Nat :=
  match fmtOfCode (tag.extractLsb' 3 5).toNat with
  | some f => fmtWidth f
  | none => 8

/-- AADD (R132). -/
def execAadd (grd : Guard) (src : Src) (s : State) : Host.Outcome State Fault Refusal :=
  compute s grd src 5 (fun A _ T => tagOf A ++ (addrOf A + T.setWidth 56))

/-- ASUB (R132). -/
def execAsub (grd : Guard) (src : Src) (s : State) : Host.Outcome State Fault Refusal :=
  compute s grd src 5 (fun A _ T => tagOf A ++ (addrOf A - T.setWidth 56))

/-- ATAG (R132). -/
def execAtag (grd : Guard) (src : Src) (s : State) : Host.Outcome State Fault Refusal :=
  compute s grd src 5 (fun A _ T => T.extractLsb' 0 8 ++ addrOf A)

/-- AGET (R132). -/
def execAget (grd : Guard) (src : Src) (s : State) : Host.Outcome State Fault Refusal :=
  compute s grd src 5 (fun _ _ T => (tagOf T).setWidth 64)

/-- ADIFF (R132). -/
def execAdiff (grd : Guard) (src : Src) (s : State) : Host.Outcome State Fault Refusal :=
  compute s grd src 5 (fun A _ T => (addrOf A - addrOf T).signExtend 64)

/-- AIDX: steps by T elements; a distance that is no whole number of bytes faults ALIGN (R132). -/
def execAidx (grd : Guard) (src : Src) (s : State) : Host.Outcome State Fault Refusal :=
  trigger1 s grd src 5 (fun c t v s =>
    let a := rget (thr s c t).la 5#4
    let bits : Int := v.toInt * tagWidth (tagOf a)
    if bits % 8 != 0 then some (faultWord s c t .align)
    else some (issued s c t 5 (tagOf a ++ (addrOf a + BitVec.ofInt 56 (bits / 8)))))

/-! ## `fp` (R133–R137) -/

def rmodeOf (r : FRound) : RMode := match r with | .rne => .rne | .rtz => .rtz | .rdn => .rdn | .rup => .rup

def lo32 (w : Word) : Nat := (w.extractLsb' 0 32).toNat

/-- A scalar float operation: Y[31:0] and the flags of fpst (R133). -/
def scalarFp (s : State) (grd : Guard) (src : Src) (f : Nat → Nat → Nat → Nat × FFlags) : Host.Outcome State Fault Refusal :=
  trigger1 s grd src 6 (fun c t v s =>
    some (modThr s c t (fun x =>
      let r := f (lo32 (rget x.la 6#4)) (lo32 (rget x.lb 6#4)) (lo32 v)
      withResult (addFpst x r.2) 6 (BitVec.ofNat 64 r.1))))

/-- FADD (R134). -/
def execFadd (grd : Guard) (src : Src) (r : FRound) (s : State) : Host.Outcome State Fault Refusal :=
  scalarFp s grd src (fun a _ t => addFp specF32 (rmodeOf r) a t)

/-- FSUB (R134). -/
def execFsub (grd : Guard) (src : Src) (r : FRound) (s : State) : Host.Outcome State Fault Refusal :=
  scalarFp s grd src (fun a _ t => subFp specF32 (rmodeOf r) a t)

/-- FMUL (R134). -/
def execFmul (grd : Guard) (src : Src) (r : FRound) (s : State) : Host.Outcome State Fault Refusal :=
  scalarFp s grd src (fun a _ t => mulFp specF32 (rmodeOf r) a t)

/-- FMA (R134). -/
def execFma (grd : Guard) (src : Src) (r : FRound) (s : State) : Host.Outcome State Fault Refusal :=
  scalarFp s grd src (fun a b t => fmaFp specF32 (rmodeOf r) a b t)

/-- FMIN (R135). -/
def execFmin (grd : Guard) (src : Src) (s : State) : Host.Outcome State Fault Refusal :=
  scalarFp s grd src (fun a _ t => (minmaxFp specF32 true a t, FFlags.none))

/-- FMAX (R135). -/
def execFmax (grd : Guard) (src : Src) (s : State) : Host.Outcome State Fault Refusal :=
  scalarFp s grd src (fun a _ t => (minmaxFp specF32 false a t, FFlags.none))

/-- FABS (R135). -/
def execFabs (grd : Guard) (src : Src) (s : State) : Host.Outcome State Fault Refusal :=
  scalarFp s grd src (fun _ _ t => (t % 2 ^ 31, FFlags.none))

/-- FNEG (R135). -/
def execFneg (grd : Guard) (src : Src) (s : State) : Host.Outcome State Fault Refusal :=
  scalarFp s grd src (fun _ _ t => (t ^^^ 2 ^ 31, FFlags.none))

/-- FSQRT (R134). -/
def execFsqrt (grd : Guard) (src : Src) (r : FRound) (s : State) : Host.Outcome State Fault Refusal :=
  scalarFp s grd src (fun _ _ t => sqrtFp specF32 (rmodeOf r) t)

/-- FRCP (R134). -/
def execFrcp (grd : Guard) (src : Src) (r : FRound) (s : State) : Host.Outcome State Fault Refusal :=
  scalarFp s grd src (fun _ _ t => rcpFp specF32 (rmodeOf r) t)

/-- FDIV (R134). -/
def execFdiv (grd : Guard) (src : Src) (r : FRound) (s : State) : Host.Outcome State Fault Refusal :=
  scalarFp s grd src (fun a _ t => divFp specF32 (rmodeOf r) a t)

/-- The bit and the nv flag of an FP32 compare (R136). -/
def fcmpBit (c : FCond) (a t : Nat) : Bool × Bool :=
  match cmpFV (decodeFp specF32 a) (decodeFp specF32 t), c with
  | none, .eq => (false, false)
  | none, .lt => (false, true)
  | none, .le => (false, true)
  | none, .un => (true, false)
  | some o, .eq => (o == .eq, false)
  | some o, .lt => (o == .lt, false)
  | some o, .le => (o != .gt, false)
  | some _, .un => (false, false)

/-- FCMP (R136). -/
def execFcmp (grd : Guard) (src : Src) (cnd : FCond) (p : BitVec 3) (s : State) : Host.Outcome State Fault Refusal :=
  trigger1 s grd src 6 (fun c t v s =>
    some (modThr s c t (fun x =>
      let b := fcmpBit cnd (lo32 (rget x.la 6#4)) (lo32 v)
      withResult (writeP (addFpst x ⟨b.2, false, false, false, false⟩) p b.1) 6 (if b.1 then 1 else 0))))

/-- FCVT (R137). -/
def execFcvt (grd : Guard) (src : Src) (sf df : Fmt) (nan : Bool) (s : State) : Host.Outcome State Fault Refusal :=
  trigger1 s grd src 6 (fun c t v s =>
    some (modThr s c t (fun x =>
      let r := convert df .rne nan (decodeElem sf v.toNat)
      withResult (addFpst x (fcvtFlags df r)) 6 (fcvtY df r))))

/-! ## `br` (R138–R141) -/

/-- B (R138). -/
def execBr (grd : Guard) (src : Src) (s : State) : Host.Outcome State Fault Refusal :=
  trigger1 s grd src 8 (fun c t v s => some (modThr s c t (fun x => branchRel x v)))

/-- An indirect branch to T[55:0]; an odd target faults ALIGN (R138). -/
def branchTo (s : State) (c : Nat) (t : BitVec 3) (v : Word) : State :=
  if v[0] then faultWord s c t .align
  else modThr s c t (fun x => jumpTo { x with y := rset x.y 8#4 (.busy 0) } ((addrOf v).setWidth 64))

/-- BI (R138). -/
def execBi (grd : Guard) (src : Src) (s : State) : Host.Outcome State Fault Refusal :=
  trigger1 s grd src 8 (fun c t v s => some (branchTo s c t v))

/-- CALL (R138). -/
def execCall (grd : Guard) (src : Src) (s : State) : Host.Outcome State Fault Refusal :=
  trigger1 s grd src 8 (fun c t v s => some (modThr s c t (fun x => callRel x v)))

/-- RET: the architectural effect of `bi` (R138). -/
def execRet (grd : Guard) (src : Src) (s : State) : Host.Outcome State Fault Refusal :=
  trigger1 s grd src 8 (fun c t v s => some (branchTo s c t v))

/-- LOOP (R139): where the body runs, the word takes no branch, and the other loop may step at its end; a loop that runs no time goes to
end + 2 as a taken branch (R140). DEDUCED (log 104). -/
def execLoop (grd : Guard) (src : Src) (n : BitVec 1) (s : State) : Host.Outcome State Fault Refusal :=
  trigger1 s grd src 8 (fun c t v s =>
    let x := thr s c t
    let stp := (rget x.e 7#3).extractLsb' 0 32
    let bnd := (rget x.e 6#3).extractLsb' 0 32
    let cnt := (rget x.la 8#4).extractLsb' 0 32
    if stp = 0 || decide (v.toInt < 2) || decide (2 ^ 21 - 1 < v.toInt) then some (faultWord s c t .loop)
    else
      let last := x.pc + 2 * v
      let y := rset x.y 8#4 (.busy 0)
      if (decide (0 < stp.toInt) && decide (bnd.toInt ≤ cnt.toInt)) || (decide (stp.toInt < 0) && decide (cnt.toInt ≤ bnd.toInt)) then
        some (modThr s c t (fun x =>
          jumpTo { x with y := y, lc := rset x.lc n { rget x.lc n with act := false } } (last + 2)))
      else
        some (modThr s c t (fun x =>
          advance { x with y := y, lc := rset x.lc n ⟨cnt, bnd, stp, true, addrOf last, addrOf (x.pc + 4)⟩ } 4)))

/-- LBRK (R141): Y is sign-extended whether or not the loop is active. DEDUCED (log 105). -/
def execLbrk (grd : Guard) (src : Src) (n : BitVec 1) (s : State) : Host.Outcome State Fault Refusal :=
  trigger1 s grd src 8 (fun c t _ s =>
    some (modThr s c t (fun x =>
      let l := rget x.lc n
      let y := rset x.y 8#4 (.busy (l.cnt.signExtend 64))
      if l.act then jumpTo { x with y := y, lc := rset x.lc n { l with act := false } } (l.fin.setWidth 64 + 2)
      else advance { x with y := y } 4)))

end Sys2Proof.Machine
end

