-- ==== Sys2Proof/Machine/Dispatch.lean ====
section
/-! DEFINITION. What each instruction does: one arm per constructor, each a call of its meaning. -/

namespace Sys2Proof.Machine

def exec (i : Instr) (s : State) : Host.Outcome State Fault Refusal :=
  match i with
  | .plainMove src dst => Sys2Proof.Machine.execPlainMove src dst s
  | .pairWord src1 dst1 src2 dst2 => Sys2Proof.Machine.execPairWord src1 dst1 src2 dst2 s
  | .ldx imm q n => Sys2Proof.Machine.execLdx imm q n s
  | .ldi imm n => Sys2Proof.Machine.execLdi imm n s
  | .bControl off => Sys2Proof.Machine.execBControl off s
  | .callControl off => Sys2Proof.Machine.execCallControl off s
  | .add u grd src => Sys2Proof.Machine.execAdd u grd src s
  | .addw u grd src => Sys2Proof.Machine.execAddw u grd src s
  | .sub u grd src => Sys2Proof.Machine.execSub u grd src s
  | .subw u grd src => Sys2Proof.Machine.execSubw u grd src s
  | .andi u grd src => Sys2Proof.Machine.execAndi u grd src s
  | .ori u grd src => Sys2Proof.Machine.execOri u grd src s
  | .xori u grd src => Sys2Proof.Machine.execXori u grd src s
  | .andn u grd src => Sys2Proof.Machine.execAndn u grd src s
  | .orn u grd src => Sys2Proof.Machine.execOrn u grd src s
  | .min u grd src => Sys2Proof.Machine.execMin u grd src s
  | .max u grd src => Sys2Proof.Machine.execMax u grd src s
  | .minu u grd src => Sys2Proof.Machine.execMinu u grd src s
  | .maxu u grd src => Sys2Proof.Machine.execMaxu u grd src s
  | .abs u grd src => Sys2Proof.Machine.execAbs u grd src s
  | .pass u grd src => Sys2Proof.Machine.execPass u grd src s
  | .mul grd src => Sys2Proof.Machine.execMul grd src s
  | .mulh grd src => Sys2Proof.Machine.execMulh grd src s
  | .mulhu grd src => Sys2Proof.Machine.execMulhu grd src s
  | .mulw grd src => Sys2Proof.Machine.execMulw grd src s
  | .div grd src => Sys2Proof.Machine.execDiv grd src s
  | .divu grd src => Sys2Proof.Machine.execDivu grd src s
  | .rem grd src => Sys2Proof.Machine.execRem grd src s
  | .remu grd src => Sys2Proof.Machine.execRemu grd src s
  | .shl grd src => Sys2Proof.Machine.execShl grd src s
  | .shr grd src => Sys2Proof.Machine.execShr grd src s
  | .sha grd src => Sys2Proof.Machine.execSha grd src s
  | .rol grd src => Sys2Proof.Machine.execRol grd src s
  | .clz grd src => Sys2Proof.Machine.execClz grd src s
  | .ctz grd src => Sys2Proof.Machine.execCtz grd src s
  | .pop grd src => Sys2Proof.Machine.execPop grd src s
  | .ext grd src => Sys2Proof.Machine.execExt grd src s
  | .ins grd src => Sys2Proof.Machine.execIns grd src s
  | .rev grd src => Sys2Proof.Machine.execRev grd src s
  | .ceq grd src p => Sys2Proof.Machine.execCeq grd src p s
  | .cne grd src p => Sys2Proof.Machine.execCne grd src p s
  | .clt grd src p => Sys2Proof.Machine.execClt grd src p s
  | .cltu grd src p => Sys2Proof.Machine.execCltu grd src p s
  | .cge grd src p => Sys2Proof.Machine.execCge grd src p s
  | .cgeu grd src p => Sys2Proof.Machine.execCgeu grd src p s
  | .ctst grd src p => Sys2Proof.Machine.execCtst grd src p s
  | .pand grd src p => Sys2Proof.Machine.execPand grd src p s
  | .por grd src p => Sys2Proof.Machine.execPor grd src p s
  | .pnot grd src p => Sys2Proof.Machine.execPnot grd src p s
  | .aadd grd src => Sys2Proof.Machine.execAadd grd src s
  | .asub grd src => Sys2Proof.Machine.execAsub grd src s
  | .atag grd src => Sys2Proof.Machine.execAtag grd src s
  | .aget grd src => Sys2Proof.Machine.execAget grd src s
  | .aidx grd src => Sys2Proof.Machine.execAidx grd src s
  | .adiff grd src => Sys2Proof.Machine.execAdiff grd src s
  | .fadd grd src r => Sys2Proof.Machine.execFadd grd src r s
  | .fsub grd src r => Sys2Proof.Machine.execFsub grd src r s
  | .fmul grd src r => Sys2Proof.Machine.execFmul grd src r s
  | .fma grd src r => Sys2Proof.Machine.execFma grd src r s
  | .fmin grd src => Sys2Proof.Machine.execFmin grd src s
  | .fmax grd src => Sys2Proof.Machine.execFmax grd src s
  | .fabs grd src => Sys2Proof.Machine.execFabs grd src s
  | .fneg grd src => Sys2Proof.Machine.execFneg grd src s
  | .fsqrt grd src r => Sys2Proof.Machine.execFsqrt grd src r s
  | .frcp grd src r => Sys2Proof.Machine.execFrcp grd src r s
  | .fdiv grd src r => Sys2Proof.Machine.execFdiv grd src r s
  | .fcmp grd src c p => Sys2Proof.Machine.execFcmp grd src c p s
  | .fcvt grd src sf d nan => Sys2Proof.Machine.execFcvt grd src sf d nan s
  | .ld grd src z sp sx => Sys2Proof.Machine.execLd grd src z sp sx s
  | .st grd src z sp => Sys2Proof.Machine.execSt grd src z sp s
  | .lda grd src z sp sc => Sys2Proof.Machine.execLda grd src z sp sc s
  | .stl grd src z sp sc => Sys2Proof.Machine.execStl grd src z sp sc s
  | .cas grd src z sp => Sys2Proof.Machine.execCas grd src z sp s
  | .swp grd src z sp => Sys2Proof.Machine.execSwp grd src z sp s
  | .amo grd src op z sp => Sys2Proof.Machine.execAmo grd src op z sp s
  | .ared grd src op z => Sys2Proof.Machine.execAred grd src op z s
  | .rbr grd src sp c => Sys2Proof.Machine.execRbr grd src sp c s
  | .fence grd src kinds sc => Sys2Proof.Machine.execFence grd src kinds sc s
  | .br grd src => Sys2Proof.Machine.execBr grd src s
  | .bi grd src => Sys2Proof.Machine.execBi grd src s
  | .call grd src => Sys2Proof.Machine.execCall grd src s
  | .ret grd src => Sys2Proof.Machine.execRet grd src s
  | .loop grd src n => Sys2Proof.Machine.execLoop grd src n s
  | .lbrk grd src n => Sys2Proof.Machine.execLbrk grd src n s
  | .chnew grd src hr hs => Sys2Proof.Machine.execChnew grd src hr hs s
  | .snd grd src n c => Sys2Proof.Machine.execSnd grd src n c s
  | .sndh grd src n c => Sys2Proof.Machine.execSndh grd src n c s
  | .rtry grd src p => Sys2Proof.Machine.execRtry grd src p s
  | .hmov grd src h => Sys2Proof.Machine.execHmov grd src h s
  | .hdup grd src h => Sys2Proof.Machine.execHdup grd src h s
  | .hclr grd src => Sys2Proof.Machine.execHclr grd src s
  | .close grd src => Sys2Proof.Machine.execClose grd src s
  | .hkind grd src => Sys2Proof.Machine.execHkind grd src s
  | .hsave grd src h => Sys2Proof.Machine.execHsave grd src h s
  | .hload grd src h => Sys2Proof.Machine.execHload grd src h s
  | .gsnd grd src n c => Sys2Proof.Machine.execGsnd grd src n c s
  | .slate grd src => Sys2Proof.Machine.execSlate grd src s
  | .fin grd src => Sys2Proof.Machine.execFin grd src s
  | .pin grd src => Sys2Proof.Machine.execPin grd src s
  | .retake grd src => Sys2Proof.Machine.execRetake grd src s
  | .brk grd src => Sys2Proof.Machine.execBrk grd src s
  | .trap grd src => Sys2Proof.Machine.execTrap grd src s
  | .gcr grd src => Sys2Proof.Machine.execGcr grd src s
  | .scr grd src => Sys2Proof.Machine.execScr grd src s
  | .sig grd src => Sys2Proof.Machine.execSig grd src s
  | .hset grd src => Sys2Proof.Machine.execHset grd src s
  | .lnch grd src => Sys2Proof.Machine.execLnch grd src s
  | .vld grd src sp part v => Sys2Proof.Machine.execVld grd src sp part v s
  | .vst grd src sp part v => Sys2Proof.Machine.execVst grd src sp part v s
  | .vbcast grd src t v => Sys2Proof.Machine.execVbcast grd src t v s
  | .vperm grd src t v => Sys2Proof.Machine.execVperm grd src t v s
  | .vmv grd src v => Sys2Proof.Machine.execVmv grd src v s
  | .vadd grd src t v => Sys2Proof.Machine.execVadd grd src t v s
  | .vsub grd src t v => Sys2Proof.Machine.execVsub grd src t v s
  | .vmul grd src t v => Sys2Proof.Machine.execVmul grd src t v s
  | .vfma grd src t v => Sys2Proof.Machine.execVfma grd src t v s
  | .vmax grd src t v => Sys2Proof.Machine.execVmax grd src t v s
  | .vmin grd src t v => Sys2Proof.Machine.execVmin grd src t v s
  | .vabs grd src t v => Sys2Proof.Machine.execVabs grd src t v s
  | .vneg grd src t v => Sys2Proof.Machine.execVneg grd src t v s
  | .vexp2 grd src t v => Sys2Proof.Machine.execVexp2 grd src t v s
  | .vlog2 grd src t v => Sys2Proof.Machine.execVlog2 grd src t v s
  | .vrcp grd src t v => Sys2Proof.Machine.execVrcp grd src t v s
  | .vrsq grd src t v => Sys2Proof.Machine.execVrsq grd src t v s
  | .vand grd src v => Sys2Proof.Machine.execVand grd src v s
  | .vor grd src v => Sys2Proof.Machine.execVor grd src v s
  | .vxor grd src v => Sys2Proof.Machine.execVxor grd src v s
  | .vsel grd src t v => Sys2Proof.Machine.execVsel grd src t v s
  | .vcmp grd src c t v => Sys2Proof.Machine.execVcmp grd src c t v s
  | .vamax grd src k => Sys2Proof.Machine.execVamax grd src k s
  | .vredadd grd src t => Sys2Proof.Machine.execVredadd grd src t s
  | .vredmax grd src t => Sys2Proof.Machine.execVredmax grd src t s
  | .vscan grd src t v => Sys2Proof.Machine.execVscan grd src t v s
  | .vmerge grd src t v => Sys2Proof.Machine.execVmerge grd src t v s
  | .vrecv grd src t v => Sys2Proof.Machine.execVrecv grd src t v s
  | .vsnd grd src c => Sys2Proof.Machine.execVsnd grd src c s
  | .vcvt grd src blk k amx sr nan vd => Sys2Proof.Machine.execVcvt grd src blk k amx sr nan vd s
  | .tld grd src sp t => Sys2Proof.Machine.execTld grd src sp t s
  | .tst grd src sp t => Sys2Proof.Machine.execTst grd src sp t s
  | .tcst grd src sp amx sr nan t => Sys2Proof.Machine.execTcst grd src sp amx sr nan t s
  | .tzero grd src t => Sys2Proof.Machine.execTzero grd src t s
  | .tmv grd src t => Sys2Proof.Machine.execTmv grd src t s
  | .mma grd src ta tb t a => Sys2Proof.Machine.execMma grd src ta tb t a s
  | .mmsk grd src sk t a => Sys2Proof.Machine.execMmsk grd src sk t a s
  | .gmma grd src ta tb t a => Sys2Proof.Machine.execGmma grd src ta tb t a s
  | .taccTile grd src amx sr t a => Sys2Proof.Machine.execTaccTile grd src amx sr t a s
  | .taccVector grd src v a => Sys2Proof.Machine.execTaccVector grd src v a s
  | .aclr grd src a => Sys2Proof.Machine.execAclr grd src a s
  | .skset grd src k => Sys2Proof.Machine.execSkset grd src k s
  | .cpush grd src => Sys2Proof.Machine.execCpush grd src s
  | .cpushn grd src => Sys2Proof.Machine.execCpushn grd src s
  | .cpoll grd src => Sys2Proof.Machine.execCpoll grd src s
  | .binit grd src => Sys2Proof.Machine.execBinit grd src s
  | .barr grd src => Sys2Proof.Machine.execBarr grd src s
  | .bwait grd src ph => Sys2Proof.Machine.execBwait grd src ph s
  | .bexp grd src => Sys2Proof.Machine.execBexp grd src s
  | .hwbar grd src => Sys2Proof.Machine.execHwbar grd src s
  | .gset grd src => Sys2Proof.Machine.execGset grd src s
  | .gdec grd src => Sys2Proof.Machine.execGdec grd src s
  | .rinit grd src => Sys2Proof.Machine.execRinit grd src s
  | .rawait grd src => Sys2Proof.Machine.execRawait grd src s
  | .rrel grd src => Sys2Proof.Machine.execRrel grd src s
  | .rpeek grd src => Sys2Proof.Machine.execRpeek grd src s
  | .mon grd src => Sys2Proof.Machine.execMon grd src s
  | .mwait grd src => Sys2Proof.Machine.execMwait grd src s
  | .dispatch cell => Sys2Proof.Machine.execDispatch cell s
  | .engineFileAcquire cell => Sys2Proof.Machine.execEngineFileAcquire cell s
  | .unitOpComplete cell th u => Sys2Proof.Machine.execUnitOpComplete cell th u s
  | .vxOpStart cell => Sys2Proof.Machine.execVxOpStart cell s
  | .vxOpComplete cell => Sys2Proof.Machine.execVxOpComplete cell s
  | .mxOpStart cell => Sys2Proof.Machine.execMxOpStart cell s
  | .mxOpComplete cell => Sys2Proof.Machine.execMxOpComplete cell s
  | .gmmaJoinComplete grove ctx => Sys2Proof.Machine.execGmmaJoinComplete grove ctx s
  | .print cell th => Sys2Proof.Machine.execPrint cell th s
  | .remoteRequestArrival what => Sys2Proof.Machine.execRemoteRequestArrival what s
  | .remoteAnswer id => Sys2Proof.Machine.execRemoteAnswer id s
  | .budget cell th => Sys2Proof.Machine.execBudget cell th s
  | .tlbWalkComplete grove ctx va => Sys2Proof.Machine.execTlbWalkComplete grove ctx va s
  | .dataPkt id => Sys2Proof.Machine.execDataPkt id s
  | .notePkt id => Sys2Proof.Machine.execNotePkt id s
  | .fwdPkt id => Sys2Proof.Machine.execFwdPkt id s
  | .freePkt id => Sys2Proof.Machine.execFreePkt id s
  | .returnPkt id => Sys2Proof.Machine.execReturnPkt id s
  | .creditPkt id => Sys2Proof.Machine.execCreditPkt id s
  | .regPkt id => Sys2Proof.Machine.execRegPkt id s
  | .movedPkt id => Sys2Proof.Machine.execMovedPkt id s
  | .pullPkt id => Sys2Proof.Machine.execPullPkt id s
  | .shipPkt id => Sys2Proof.Machine.execShipPkt id s
  | .movePkt id => Sys2Proof.Machine.execMovePkt id s
  | .endPkt id => Sys2Proof.Machine.execEndPkt id s
  | .closerPkt id => Sys2Proof.Machine.execCloserPkt id s
  | .copyStart cell => Sys2Proof.Machine.execCopyStart cell s
  | .copyClaim cell => Sys2Proof.Machine.execCopyClaim cell s
  | .copyPublish cell => Sys2Proof.Machine.execCopyPublish cell s
  | .landingPacket cell => Sys2Proof.Machine.execLandingPacket cell s
  | .launchPlacement die ctx => Sys2Proof.Machine.execLaunchPlacement die ctx s
  | .completionUp launch grove => Sys2Proof.Machine.execCompletionUp launch grove s
  | .completionDown launch grove => Sys2Proof.Machine.execCompletionDown launch grove s
  | .completionConfirm launch grove => Sys2Proof.Machine.execCompletionConfirm launch grove s
  | .balancerSample die => Sys2Proof.Machine.execBalancerSample die s
  | .balancingInterval die => Sys2Proof.Machine.execBalancingInterval die s
  | .cellRetarget cell ctx => Sys2Proof.Machine.execCellRetarget cell ctx s
  | .bwaitTimeout cell th => Sys2Proof.Machine.execBwaitTimeout cell th s
  | .wiredCompletionDelivery die set => Sys2Proof.Machine.execWiredCompletionDelivery die set s
  | .hwbarTimeout cell th => Sys2Proof.Machine.execHwbarTimeout cell th s
  | .mwaitTimeout cell th => Sys2Proof.Machine.execMwaitTimeout cell th s
  | .vrecvTimeout cell => Sys2Proof.Machine.execVrecvTimeout cell s
  | .proxyAtomic id => Sys2Proof.Machine.execProxyAtomic id s
  | .hostAtomicCompletion die lane timedOut => Sys2Proof.Machine.execHostAtomicCompletion die lane timedOut s
  | .requestLost id => Sys2Proof.Machine.execRequestLost id s
  | .packetLifetimeExpiry id => Sys2Proof.Machine.execPacketLifetimeExpiry id s
  | .rdmaAck cell => Sys2Proof.Machine.execRdmaAck cell s
  | .sqDoorbell f t => Sys2Proof.Machine.execSqDoorbell f t s
  | .hostDescriptorRead f => Sys2Proof.Machine.execHostDescriptorRead f s
  | .cqHeadWrite f v => Sys2Proof.Machine.execCqHeadWrite f v s
  | .partitionReset f => Sys2Proof.Machine.execPartitionReset f s
  | .functionLevelReset f => Sys2Proof.Machine.execFunctionLevelReset f s
  | .msixUnmask f w => Sys2Proof.Machine.execMsixUnmask f w s
  | .preemptRequest die ctx pre => Sys2Proof.Machine.execPreemptRequest die ctx pre s
  | .killFlood die ctx => Sys2Proof.Machine.execKillFlood die ctx s
  | .killAtCell cell ctx => Sys2Proof.Machine.execKillAtCell cell ctx s
  | .routerSweepEnd die ctx => Sys2Proof.Machine.execRouterSweepEnd die ctx s
  | .killDoneReport cell ctx => Sys2Proof.Machine.execKillDoneReport cell ctx s
  | .reportRingRidxWrite die ctx v => Sys2Proof.Machine.execReportRingRidxWrite die ctx v s
  | .releaseRegisterWrite cell w => Sys2Proof.Machine.execReleaseRegisterWrite cell w s
  | .stageHoldWrite die stage => Sys2Proof.Machine.execStageHoldWrite die stage s
  | .groupTableWrite die idx entry => Sys2Proof.Machine.execGroupTableWrite die idx entry s
  | .wiredSetWrite die set w => Sys2Proof.Machine.execWiredSetWrite die set w s
  | .gateWrite grove gate w => Sys2Proof.Machine.execGateWrite grove gate w s
  | .reductionWindowWrite n w => Sys2Proof.Machine.execReductionWindowWrite n w s
  | .pinnedRegionWrite grove idx entry => Sys2Proof.Machine.execPinnedRegionWrite grove idx entry s
  | .invalidation ctx va level => Sys2Proof.Machine.execInvalidation ctx va level s
  | .perfSelectorWrite cell n w => Sys2Proof.Machine.execPerfSelectorWrite cell n w s
  | .balancerControlWrite die w => Sys2Proof.Machine.execBalancerControlWrite die w s
  | .managementRegisterWrite by_ off w => Sys2Proof.Machine.execManagementRegisterWrite by_ off w s
  | .createCmd => Sys2Proof.Machine.execCreateCmd s
  | .grantCmd => Sys2Proof.Machine.execGrantCmd s
  | .sessionCmd => Sys2Proof.Machine.execSessionCmd s
  | .keyServiceReply accept volumes tenantKey => Sys2Proof.Machine.execKeyServiceReply accept volumes tenantKey s
  | .sessionTimeout => Sys2Proof.Machine.execSessionTimeout s
  | .rangeCmd => Sys2Proof.Machine.execRangeCmd s
  | .sweepCmd => Sys2Proof.Machine.execSweepCmd s
  | .sweepBlock range => Sys2Proof.Machine.execSweepBlock range s
  | .readCmd => Sys2Proof.Machine.execReadCmd s
  | .eraseCmd => Sys2Proof.Machine.execEraseCmd s
  | .sleepCmd => Sys2Proof.Machine.execSleepCmd s
  | .extendCmd => Sys2Proof.Machine.execExtendCmd s
  | .mailboxInvalidCommand => Sys2Proof.Machine.execMailboxInvalidCommand s
  | .wake accepted => Sys2Proof.Machine.execWake accepted s
  | .coldBoot first second nivar config nivarConfig => Sys2Proof.Machine.execColdBoot first second nivar config nivarConfig s
  | .dieTestComplete die ok digest => Sys2Proof.Machine.execDieTestComplete die ok digest s
  | .hbmTrainingComplete die ok => Sys2Proof.Machine.execHbmTrainingComplete die ok s
  | .fourBitTestComplete die ok => Sys2Proof.Machine.execFourBitTestComplete die ok s
  | .clockThrottle die => Sys2Proof.Machine.execClockThrottle die s
  | .clockRestore die => Sys2Proof.Machine.execClockRestore die s
  | .illegalWord => Sys2Proof.Machine.execIllegalWord s
  | .acknowledgement id => Sys2Proof.Machine.execAcknowledgement id s
  | .planeLoss plane => Sys2Proof.Machine.execPlaneLoss plane s
  | .hostCompletionTimeout what => Sys2Proof.Machine.execHostCompletionTimeout what s
  | .queuePairError cell => Sys2Proof.Machine.execQueuePairError cell s
  | .unsupportedRdmaArrival port => Sys2Proof.Machine.execUnsupportedRdmaArrival port s
  | .bringupClockRaise die => Sys2Proof.Machine.execBringupClockRaise die s
  | .hostFlushReadComplete ctx => Sys2Proof.Machine.execHostFlushReadComplete ctx s

end Sys2Proof.Machine
end

