-- ==== Sys2Proof/Machine/Issue.lean ====
section
/-! DEFINITION. The issue of one word of a cell (13_tables R295, R297). -/

namespace Sys2Proof.Machine

/-- The thread's word has issued: the take is past it, or has ended by it. DESIGN CHOICE (log 9). -/
def hasIssued (s s' : State) (c : Nat) (t : BitVec 3) : Bool :=
  (thr s' c t).words != (thr s c t).words || (thr s' c t).phase != (thr s c t).phase

/-- The word has not issued, and its thread now waits for the engine files (R77). -/
def joinsWait (s s' : State) (c : Nat) : Bool := (cellAt s' c).efWait != (cellAt s c).efWait

/-- The word's fault meets one that goes before it in this cycle: the timeout of an earlier `hwbar`, or BUDGET where its code is lower (R327). -/
def outranked (s s' : State) (c : Nat) (t : BitVec 3) : Bool :=
  match faultedBy s s' c t with
  | some code => (hwbarExpire s c t).isSome || (decide (causeCode .budget < code) && (budgetEnds s c t).isSome)
  | none => false

/-- The outcome of presenting the thread's next word; none while the word waits (R40, R42, R43). A word that waits is fetched, decoded and checked
anew at each attempt, so bytes changed meanwhile are seen. DESIGN CHOICE (log 9, 124). -/
def tryThread (s : State) (c : Nat) (t : BitVec 3) : Option (Host.Outcome State Fault Refusal) :=
  if !canIssue (thr s c t) then none
  else
    let s1 := { s with cur := (c, t) }
    match fetch s c t with
    | .noFetch => if outranked s (faultWord s1 c t .perm) c t then none else some (.next (faultWord s1 c t .perm))
    | .illegal =>
      match exec .illegalWord s1 with
      | .next s' => if outranked s s' c t then none else some (.next s')
      | o => some o
    | .instr i =>
      match exec i s1 with
      | .next s' => if hasIssued s s' c t && !outranked s s' c t then some (.next s') else none
      | o => some o

/-- The thread's next word begins to wait for the engine files. -/
def beginsWait (s : State) (c : Nat) (t : BitVec 3) : Bool :=
  canIssue (thr s c t) &&
    (match fetch s c t with
      | .instr i => (match exec i { s with cur := (c, t) } with
        | .next s' => !hasIssued s s' c t && joinsWait s s' c
        | _ => false)
      | _ => false)

/-- The threads that begin to wait in this cycle do so in thread order (R77). -/
def joinWaits (s : State) (c : Nat) : State :=
  match allThreads.filter (beginsWait s c) with
  | [] => s
  | ts => modCell s c (fun x => { x with efWait := x.efWait ++ ts.map (·.toNat) })

/-- The effects that a word of an irrevocable take has, as its take would hold them were it revocable. -/
def wordEffects (s : State) (c : Nat) (t : BitVec 3) : List Effect :=
  match fetch s c t with
  | .instr i =>
    match exec i { modThr s c t (fun x => { x with phase := .revocable, effects := [] }) with cur := (c, t) } with
    | .next s' => (thr s' c t).effects
    | _ => []
  | _ => []

/-- The next message of a `vsnd` that the vector engine runs for the thread (R161). -/
def streamEffects (s : State) (c : Nat) (t : BitVec 3) : List (EngOp × Effect) :=
  match (cellAt s c).vxf with
  | some o =>
    match o.insn with
    | .vsnd _ _ k =>
      if o.th != t.toNat then []
      else (((vsndPayloads (rget (cellAt s c).v (vNum o.a)) o.b).drop o.cnt).take 1).map (fun p => (o, .send (vsndKind o.h) (k.setWidth 5) 0 p 1))
    | _ => []
  | none => []

/-- Only the resource that the send needs keeps an irrevocable take from performing it. -/
def sendStuck (s : State) (c : Nat) (t : BitVec 3) (before : Nat) (e : Effect) : Bool :=
  isSend e && mayPerform s c t before && (performAll c t ((thr s c t).effects ++ [e]) s).2.1 == [e]

/-- The send that an irrevocable take would perform next, where it waits for a credit, a slot or room (R22, R235). DEDUCED (log 122). -/
def wantedSend (s : State) (c : Nat) (t : BitVec 3) : Option Effect :=
  let x := thr s c t
  if x.phase != .irrevocable then none
  else
    ((streamEffects s c t).find? (fun e => sendStuck s c t e.1.id e.2)).map (·.2) |>.or
      (if canIssue x then
        match wordEffects s c t with
        | [e] => if sendStuck s c t s.nextOp e then some e else none
        | _ => none
      else none)

/-- Sends of irrevocable takes that wait stand among the producers of their queue from this cycle on (R235). -/
def markWants (s : State) (c : Nat) : State :=
  modCell s c (fun y => { y with threads := Vector.ofFn (fun (i : Fin 8) =>
    let x := y.threads[i.val]'i.isLt
    if x.phase != .irrevocable then x
    else
      match wantedSend s c (BitVec.ofNat 3 i.val) with
      | some e => { x with wants := some e, waits := x.waits.or (some s.cyc.toNat) }
      | none => { x with wants := none, waits := if x.effects.isEmpty then none else x.waits }) })

/-! ## Which loads need not be performed in their turn (R207, R393) -/

/-- The rank of the scope at which the word orders later loads: an acquire's, or a fence's (Table 10.3, R211). -/
def orderRank : Instr → Nat
  | .lda _ _ _ _ sc => scopeRank sc
  | .fence _ _ _ sc => scopeRank sc
  | .bwait _ _ _ => scopeRank .dev
  | .hwbar _ _ => scopeRank .die
  | .rawait _ _ => scopeRank .sys
  | _ => 0

/-- The word loads what its take's later loads may not precede, or loads global memory at addresses of its own choosing: no later load is read
early. -/
def endsEarly : Instr → Bool
  | .rtry _ _ _ => true
  | .vrecv _ _ _ _ => true
  | .tld _ _ _ _ => true
  | .mmsk _ _ _ _ _ => true
  | .gmma _ _ _ _ _ _ => true
  | _ => false

/-- The source that gives a relaxed load its address. -/
def addressSrc : Instr → Option Src
  | .ld _ src _ .glb _ => some src
  | .vld _ src .glb _ _ => some src
  | _ => none

/-- A value at the source may come from a load of the take (P7). -/
def fromLoad (p : Past) : Src → Bool
  | .g n => p.g.getLsbD n.toNat
  | .e n => p.e.getLsbD n.toNat
  | .m _ => false
  | .imm _ => false
  | .y _ => true

/-- The destination holds what may come from a load, or no longer does. -/
def markLoaded (p : Past) (d : Dst) (b : Bool) : Past :=
  let put (w n : Nat) (old : BitVec w) : BitVec w := (old &&& ~~~(1#w <<< n)) ||| ((BitVec.ofBool b).setWidth w <<< n)
  match d with
  | .g n => { p with g := put 32 n.toNat p.g }
  | .e n => { p with e := put 8 n.toNat p.e }
  | _ => p

/-- The word moves values between registers. -/
def moveLoaded (p : Past) : Instr → Past
  | .plainMove src dst => markLoaded p dst (fromLoad p src)
  | .pairWord s1 d1 s2 d2 => markLoaded (markLoaded p d1 (fromLoad p s1)) d2 (fromLoad p s2)
  | .ldi _ n => markLoaded p (.g n) false
  | .rtry _ _ _ => { p with g := p.g ||| 0xFF000000#32 }
  | _ => p

/-- The global run of a request, which its thread loads. -/
def requestRun (r : Req) : Option (Nat × Nat) :=
  match r.kind with
  | .load (.glb a) n _ _ _ => some (a, n)
  | .check (.glb a) n _ _ _ => some (a, n)
  | .atomic (.glb a) n _ => some (a, n)
  | _ => none

/-- The request writes e3 with what it loads (R194). -/
def loadsE3 (r : Req) : Bool := match requestRun r with | some (_, n) => n == 16 | none => false

/-- What the word has the take load: requests, and a `vld` of global memory, with the runs they touch. -/
def newLoads (s s' : State) (c : Nat) (t : BitVec 3) (i : Instr) : List (Bool × Nat × Nat × Nat) :=
  (s'.reqs.filter (fun r => decide (s.nextReq ≤ r.id) && r.cell == c && r.th == t.toNat)).filterMap (fun r =>
    (requestRun r).map (fun e => (false, r.id, e.1, e.2))) ++
  (match i with
    | .vld _ _ .glb part _ =>
      ((vxOps (cellAt s' c) t).filter (fun o => decide (s.nextOp ≤ o.id))).map (fun o => (true, o.id, (o.t.extractLsb' 0 56).toNat, partBytes part))
    | _ => [])

/-- What a word that has issued leaves of the thread's loads out of turn. DESIGN CHOICE (log 120). -/
def notePast (s s' : State) (c : Nat) (t : BitVec 3) (i : Instr) : State :=
  let x : Thread := thr s c t
  let ls := newLoads s s' c t i
  let rank := (ldaRanks s c t).foldl max x.past.rank
  let apart : Nat × Nat → Bool := fun r => x.past.runs.all (fun q => !meets q.1 q.2 r.1 r.2)
  let early : Bool := x.phase == .revocable && (addressSrc i).any (fun src => !fromLoad x.past src)
  let loads : List EarlyLoad := if early then (ls.filter (fun l => apart l.2.2)).map (fun l => ⟨l.1, l.2.1, rank⟩) else []
  let e3 := s'.reqs.any (fun r => decide (s.nextReq ≤ r.id) && r.cell == c && r.th == t.toNat && loadsE3 r)
  modThr s' c t (fun y => { y with past := { moveLoaded y.past i with
    mem := if endsEarly i then none else y.past.mem,
    rank := max y.past.rank (orderRank i),
    e := (moveLoaded y.past i).e ||| (if e3 then 8#8 else 0#8),
    runs := y.past.runs ++ ls.map (fun l => l.2.2),
    loads := y.past.loads ++ loads } })

/-- The word that the thread has issued is noted, while the take goes on and such loads can still come. -/
def noteWord (s s' : State) (c : Nat) (t : BitVec 3) : State :=
  if (thr s c t).past.mem.isNone || (thr s' c t).past.mem.isNone then s'
  else
    match fetch s c t with
    | .instr i => notePast s s' c t i
    | _ => s'

/-- Threads in round-robin order after the pointer. -/
def issueOrder (rr : BitVec 3) : List (BitVec 3) := [rr + 1, rr + 2, rr + 3, rr + 4, rr + 5, rr + 6, rr + 7, rr]

/-- The first of the slotted contexts that has work: a ready thread, or a message and a free thread for it (R295). -/
def favoured (s : State) (c : Nat) (ready : List Nat) : Option Nat :=
  (slotScan s c).find? (fun ctx => ready.contains ctx || dispatchWork s c ctx)

/-- The pointer moves to the thread that issued, and the word counts (R297, R323); its loads are noted (R207). -/
def afterIssue (s s' : State) (c : Nat) (t : BitVec 3) : State :=
  let s' := noteWord s (modThr s' c t (fun x => if x.wants.isSome then { x with wants := none, waits := none } else x)) c t
  perf (modCell s' c (fun x => { x with rr := t, issuedAt := s.cyc.toNat + 1 })) c (thr s c t).ctx.toNat 0x01 1

/-- The cell issues one word: of the first ready thread after the pointer in the favoured context, else of any context (R297).
DESIGN CHOICE (log 8, 9). -/
def issueCell (s : State) (c : Nat) : Host.Outcome State Fault Refusal :=
  let s := markWants (joinWaits s c) c
  let outs := (issueOrder (cellAt s c).rr).filterMap (fun t => (tryThread s c t).map (fun o => (t, o)))
  let ctxOf : BitVec 3 → Nat := fun t => (thr s c t).ctx.toNat
  let fav := favoured s c (outs.map (fun e => ctxOf e.1))
  match (outs.find? (fun e => fav == some (ctxOf e.1))).or outs.head? with
  | some (t, .next s') => .next (afterIssue s s' c t)
  | some (_, o) => o
  | none => .next s

end Sys2Proof.Machine
end

