-- ==== Sys2Proof/Machine/Step.lean ====
section
/-! DEFINITION. One step: what the outside does next, else the device's next event, else the word of the next cell of the cycle, else
what the end of the cycle brings, else the clock. -/

namespace Sys2Proof.Machine

/-- DESIGN CHOICE (log 4, 5, 10). -/
def step (s : State) : Host.Outcome State Fault Refusal :=
  match s.agenda with
  | i :: r => exec i { s with agenda := r }
  | [] =>
    match nextEvent s with
    | some i => exec i s
    | none =>
      match s.todo with
      | c :: r => issueCell { s with todo := r } c
      | [] =>
        match lateEvent s with
        | some i => exec i s
        | none => .next (clock s)

/-- Where `withFetchWord` puts code: an address of the form 4k + 2, where a zero halfword is a no-op (R61). DESIGN CHOICE (log 4). -/
def fetchBase : Nat := 0x402

/-- Cell 0 with a running revocable take of context 0 on thread 0, which holds the engine files, its PC at `fetchBase` in one executable
region. DESIGN CHOICE (log 4). -/
def fetchCell (x : Cell) : Cell :=
  let th : Thread := { rget x.threads 0#3 with
    phase := .revocable, pc := BitVec.ofNat 64 fetchBase, bdgt := 0x3FFFFFF, pinned := false, pinning := false }
  let p : Position := { rget x.pos 0#2 with
    ctx := some 0, regions := rset (rget x.pos 0#2).regions 0#4 0xE001000000000000#64 }
  { x with threads := rset x.threads 0#3 th, pos := rset x.pos 0#2 p, efOwner := some 0, efCtx := some 0, efWait := [] }

/-- The state with an instruction's halfwords at the place the next step fetches from. DESIGN CHOICE (log 4). -/
def State.withFetchWord (s : State) (_nbits w : Nat) : State :=
  let s := { s with mem := writeKeys s.mem (keysFrom (locKey 0 fetchBase) 4) (leBytes 4 w) }
  { modCell s 0 fetchCell with agenda := [], todo := [0] }

end Sys2Proof.Machine
end

