-- ==== Sys2Proof/Certificates/Slice0/Obligations.lean ====
section
/-! DEFINITION. The statements about the machine, and the words they are made of: the spec's rules said over State. -/

open Sys2Proof

/-! ## Words and their operands -/

namespace Sys2Proof.Claims

open Sys2Proof.Machine

/-- The acting thread. -/
def me (s : State) : Thread := thr s s.cur.1 s.cur.2

/-- The acting thread of `s` becomes `x`; nothing else changes. -/
def setMe (s : State) (x : Thread) : State := putThr s s.cur.1 s.cur.2 x

/-- A trigger of the acting thread performs (R41, R46): a word can issue, the source reads `v` (and leaves `r`), the guard holds. -/
structure Performs (s : State) (grd : Guard) (src : Src) (v : Word) (r : State) : Prop where
  issue : canIssue (me s) = true
  source : readSrc s s.cur.1 s.cur.2 src = some (v, r)
  guard : guardHolds (me s) grd = true

/-- The number of zero bits above the highest 1 bit. -/
def leadingZeros (t : Word) : Nat := if t = 0 then 64 else 63 - Nat.log2 t.toNat

/-- The place of the lowest 1 bit. -/
def trailingZeros (t : Word) : Nat := ((List.range 64).find? (fun i => t.getLsbD i)).getD 64

/-- The operations of Table 6.3, R129 and Table 6.4 but `ext` and `ins`: unit, guard, source, and Y from A, B and T. -/
def integerOp : Instr → Option (BitVec 4 × Guard × Src × (Word → Word → Word → Word))
  | .add u g s => some (iuIdx u, g, s, fun a _ t => BitVec.ofInt 64 (a.toInt + t.toInt))
  | .addw u g s => some (iuIdx u, g, s, fun a _ t => (BitVec.ofInt 32 (a.toInt + t.toInt)).signExtend 64)
  | .sub u g s => some (iuIdx u, g, s, fun a _ t => BitVec.ofInt 64 (a.toInt - t.toInt))
  | .subw u g s => some (iuIdx u, g, s, fun a _ t => (BitVec.ofInt 32 (a.toInt - t.toInt)).signExtend 64)
  | .andi u g s => some (iuIdx u, g, s, fun a _ t => a &&& t)
  | .ori u g s => some (iuIdx u, g, s, fun a _ t => a ||| t)
  | .xori u g s => some (iuIdx u, g, s, fun a _ t => a ^^^ t)
  | .andn u g s => some (iuIdx u, g, s, fun a _ t => a &&& ~~~t)
  | .orn u g s => some (iuIdx u, g, s, fun a _ t => a ||| ~~~t)
  | .min u g s => some (iuIdx u, g, s, fun a _ t => BitVec.ofInt 64 (min a.toInt t.toInt))
  | .max u g s => some (iuIdx u, g, s, fun a _ t => BitVec.ofInt 64 (max a.toInt t.toInt))
  | .minu u g s => some (iuIdx u, g, s, fun a _ t => BitVec.ofNat 64 (min a.toNat t.toNat))
  | .maxu u g s => some (iuIdx u, g, s, fun a _ t => BitVec.ofNat 64 (max a.toNat t.toNat))
  | .abs u g s => some (iuIdx u, g, s, fun _ _ t => BitVec.ofNat 64 t.toInt.natAbs)
  | .pass u g s => some (iuIdx u, g, s, fun _ _ t => t)
  | .mul g s => some (2, g, s, fun a _ t => BitVec.ofNat 64 (a.toNat * t.toNat))
  | .mulh g s => some (2, g, s, fun a _ t => BitVec.ofInt 64 ((a.toInt * t.toInt) / 2 ^ 64))
  | .mulhu g s => some (2, g, s, fun a _ t => BitVec.ofNat 64 ((a.toNat * t.toNat) / 2 ^ 64))
  | .mulw g s => some (2, g, s, fun a _ t => (BitVec.ofNat 32 (a.toNat * t.toNat)).signExtend 64)
  | .div g s => some (2, g, s, fun a _ t =>
      if t = 0 then 0xFFFFFFFFFFFFFFFF#64
      else if a = 0x8000000000000000#64 ∧ t = 0xFFFFFFFFFFFFFFFF#64 then a
      else BitVec.ofInt 64 (Int.tdiv a.toInt t.toInt))
  | .divu g s => some (2, g, s, fun a _ t => if t = 0 then 0xFFFFFFFFFFFFFFFF#64 else BitVec.ofNat 64 (a.toNat / t.toNat))
  | .rem g s => some (2, g, s, fun a _ t =>
      if t = 0 then a
      else if a = 0x8000000000000000#64 ∧ t = 0xFFFFFFFFFFFFFFFF#64 then 0
      else BitVec.ofInt 64 (a.toInt - t.toInt * Int.tdiv a.toInt t.toInt))
  | .remu g s => some (2, g, s, fun a _ t => if t = 0 then a else BitVec.ofNat 64 (a.toNat % t.toNat))
  | .shl g s => some (3, g, s, fun a _ t => BitVec.ofNat 64 (a.toNat * 2 ^ (t.toNat % 64)))
  | .shr g s => some (3, g, s, fun a _ t => BitVec.ofNat 64 (a.toNat / 2 ^ (t.toNat % 64)))
  | .sha g s => some (3, g, s, fun a _ t => BitVec.ofInt 64 (a.toInt / 2 ^ (t.toNat % 64)))
  | .rol g s => some (3, g, s, fun a _ t =>
      BitVec.ofNat 64 (a.toNat * 2 ^ (t.toNat % 64) + a.toNat / 2 ^ (64 - t.toNat % 64)))
  | .clz g s => some (3, g, s, fun _ _ t => BitVec.ofNat 64 (leadingZeros t))
  | .ctz g s => some (3, g, s, fun _ _ t => BitVec.ofNat 64 (trailingZeros t))
  | .pop g s => some (3, g, s, fun _ _ t => BitVec.ofNat 64 ((List.range 64).countP (fun i => t.getLsbD i)))
  | .rev g s => some (3, g, s, fun _ _ t =>
      t.extractLsb' 0 8 ++ t.extractLsb' 8 8 ++ t.extractLsb' 16 8 ++ t.extractLsb' 24 8 ++ t.extractLsb' 32 8
        ++ t.extractLsb' 40 8 ++ t.extractLsb' 48 8 ++ t.extractLsb' 56 8)
  | _ => none

/-- The operations of R132 that only compute. -/
def pointerOp : Instr → Option (Guard × Src × (Word → Word → Word))
  | .aadd g s => some (g, s, fun a t => a.extractLsb' 56 8 ++ BitVec.ofInt 56 (a.toNat + t.toInt))
  | .asub g s => some (g, s, fun a t => a.extractLsb' 56 8 ++ BitVec.ofInt 56 (a.toNat - t.toInt))
  | .atag g s => some (g, s, fun a t => t.extractLsb' 0 8 ++ a.extractLsb' 0 56)
  | .aget g s => some (g, s, fun _ t => BitVec.ofNat 64 (t.toNat / 2 ^ 56))
  | .adiff g s => some (g, s, fun a t => (BitVec.ofInt 56 (a.toNat - t.toNat)).signExtend 64)
  | _ => none

/-- The high bit of the field that T describes for `ext` and `ins` (R130). -/
def fieldHi (t : Word) : Nat := min (t.toNat % 64 + t.toNat / 64 % 64) 63

/-- `y` is what `ext` extracts: A[hi:lo], extended by zeros or by the field's top bit (R130). -/
def IsExtract (a t y : Word) : Prop :=
  ∀ i, i < 64 → y.getLsbD i =
    if t.toNat % 64 + i ≤ fieldHi t then a.getLsbD (t.toNat % 64 + i) else t.getLsbD 12 && a.getLsbD (fieldHi t)

/-- `y` is A with bits hi:lo replaced by the low bits of B (R130). -/
def IsInsert (a b t y : Word) : Prop :=
  ∀ i, i < 64 → y.getLsbD i =
    if t.toNat % 64 ≤ i ∧ i ≤ fieldHi t then b.getLsbD (i - t.toNat % 64) else a.getLsbD i

/-- The width of Table 6.5, by the code in a tag. -/
def tableWidth (code : Nat) : Nat :=
  if code ∈ [2, 7, 8] then 16 else if code ∈ [3, 6] then 32 else if code = 4 then 64
  else if code ∈ [11, 12, 17, 18] then 6 else if code ∈ [13, 14, 19, 20] then 4 else 8

/-- The compares of R131: unit `cm`'s guard, source, predicate, and the bit from the thread's predicates, A and T. -/
def compareOp : Instr → Option (Guard × Src × BitVec 3 × (Thread → Word → Word → Bool))
  | .ceq g s p => some (g, s, p, fun _ a t => decide (a.toNat = t.toNat))
  | .cne g s p => some (g, s, p, fun _ a t => decide (a.toNat ≠ t.toNat))
  | .clt g s p => some (g, s, p, fun _ a t => decide (a.toInt < t.toInt))
  | .cltu g s p => some (g, s, p, fun _ a t => decide (a.toNat < t.toNat))
  | .cge g s p => some (g, s, p, fun _ a t => decide (a.toInt ≥ t.toInt))
  | .cgeu g s p => some (g, s, p, fun _ a t => decide (a.toNat ≥ t.toNat))
  | .ctst g s p => some (g, s, p, fun _ a t => decide ((a &&& t).toNat ≠ 0))
  | .pand g s p => some (g, s, p, fun x a t => readP x (a.extractLsb' 0 3) && readP x (t.extractLsb' 0 3))
  | .por g s p => some (g, s, p, fun x a t => readP x (a.extractLsb' 0 3) || readP x (t.extractLsb' 0 3))
  | .pnot g s p => some (g, s, p, fun x _ t => !readP x (t.extractLsb' 0 3))
  | _ => none

/-- The 32-bit magnitude order of FP32 codes that are no NaN; -0 and +0 are one value (R104, R136). -/
def f32Key (b : Nat) : Int := if b / 2 ^ 31 % 2 = 1 then -((b % 2 ^ 31 : Nat) : Int) else (b % 2 ^ 31 : Nat)

def f32Nan (b : Nat) : Bool := b / 2 ^ 23 % 256 == 255 && b % 2 ^ 23 != 0

/-- The low 32 bits of an operand. -/
def low32 (w : Word) : Nat := w.toNat % 2 ^ 32

/-- The lesser (or, with `most`, the greater) of two FP32 codes as R135 orders them, -0 below +0. -/
def extreme (most : Bool) (a t : Nat) : Nat :=
  if f32Nan a && f32Nan t then 0x7FC00000
  else if f32Nan a then t
  else if f32Nan t then a
  else if f32Key a < f32Key t then (if most then t else a)
  else if f32Key t < f32Key a then (if most then a else t)
  else if most then min a t else max a t

/-- The bit that `fcmp` computes (R136). -/
def fcmpHolds (c : FCond) (a t : Nat) : Bool :=
  match c with
  | .eq => !f32Nan a && !f32Nan t && f32Key a == f32Key t
  | .lt => !f32Nan a && !f32Nan t && decide (f32Key a < f32Key t)
  | .le => !f32Nan a && !f32Nan t && decide (f32Key a ≤ f32Key t)
  | .un => f32Nan a || f32Nan t

/-- The rounded operations of R134: guard, source, and the model's value and flags from A, B and T. -/
def floatOp : Instr → Option (Guard × Src × (Nat → Nat → Nat → Nat × FFlags))
  | .fadd g s r => some (g, s, fun a _ t => addFp specF32 (rmodeOf r) a t)
  | .fsub g s r => some (g, s, fun a _ t => subFp specF32 (rmodeOf r) a t)
  | .fmul g s r => some (g, s, fun a _ t => mulFp specF32 (rmodeOf r) a t)
  | .fma g s r => some (g, s, fun a b t => fmaFp specF32 (rmodeOf r) a b t)
  | .fsqrt g s r => some (g, s, fun _ _ t => sqrtFp specF32 (rmodeOf r) t)
  | .frcp g s r => some (g, s, fun _ _ t => rcpFp specF32 (rmodeOf r) t)
  | .fdiv g s r => some (g, s, fun a _ t => divFp specF32 (rmodeOf r) a t)
  | _ => none

/-- The rational value of a finite FP32 code. -/
def f32Val (b : Nat) : ℚ :=
  let k : Nat := b % 2 ^ 31
  let mag : ℚ := if k / 2 ^ 23 = 0 then (k : ℚ) * 2 ^ (-149 : ℤ) else ((2 ^ 23 + k % 2 ^ 23 : Nat) : ℚ) * 2 ^ (((k / 2 ^ 23 : Nat) : ℤ) - 150)
  if b / 2 ^ 31 % 2 = 1 then -mag else mag

def f32Finite (b : Nat) : Prop := b < 2 ^ 32 ∧ b / 2 ^ 23 % 256 ≠ 255

/-- The finite code `y` is the value `x` rounded in direction `r` (R110, R133). -/
def IsRounded (r : FRound) (x : ℚ) (y : Nat) : Prop :=
  match r with
  | .rne => ∀ z, f32Finite z → |f32Val y - x| ≤ |f32Val z - x| ∧ (|f32Val y - x| = |f32Val z - x| → f32Val z = f32Val y ∨ y % 2 = 0)
  | .rtz => 0 ≤ f32Val y * x ∧ |f32Val y| ≤ |x| ∧ ∀ z, f32Finite z → 0 ≤ f32Val z * x → |f32Val z| ≤ |x| → |f32Val z| ≤ |f32Val y|
  | .rdn => f32Val y ≤ x ∧ ∀ z, f32Finite z → f32Val z ≤ x → f32Val z ≤ f32Val y
  | .rup => x ≤ f32Val y ∧ ∀ z, f32Finite z → x ≤ f32Val z → f32Val y ≤ f32Val z

/-- The exact value of a sum, product or quotient of R134, and the operands T that it is defined for. -/
def exactOp : Instr → Option (FRound × (Nat → Nat → Nat → Nat × FFlags) × (ℚ → ℚ → ℚ → ℚ) × (ℚ → Prop))
  | .fadd _ _ r => some (r, fun a _ t => addFp specF32 (rmodeOf r) a t, fun a _ t => a + t, fun _ => True)
  | .fsub _ _ r => some (r, fun a _ t => subFp specF32 (rmodeOf r) a t, fun a _ t => a - t, fun _ => True)
  | .fmul _ _ r => some (r, fun a _ t => mulFp specF32 (rmodeOf r) a t, fun a _ t => a * t, fun _ => True)
  | .fma _ _ r => some (r, fun a b t => fmaFp specF32 (rmodeOf r) a b t, fun a b t => a * b + t, fun _ => True)
  | .frcp _ _ r => some (r, fun _ _ t => rcpFp specF32 (rmodeOf r) t, fun _ _ t => 1 / t, fun t => t ≠ 0)
  | .fdiv _ _ r => some (r, fun a _ t => divFp specF32 (rmodeOf r) a t, fun a _ t => a / t, fun t => t ≠ 0)
  | _ => none

/-- The largest finite FP32 value. -/
def f32Top : ℚ := f32Val 0x7F7FFFFF

/-- Rounding `x` to 24 bits with an unbounded exponent gives more than the largest finite value (R133): half a unit above it or more to nearest,
the next power of two toward zero. -/
def overflows (r : FRound) (x : ℚ) : Prop :=
  match r with
  | .rne => f32Top + 2 ^ (103 : ℤ) ≤ |x|
  | .rtz => 2 ^ (128 : ℤ) ≤ |x|
  | .rdn => 2 ^ (128 : ℤ) ≤ x ∨ x < -f32Top
  | .rup => f32Top < x ∨ x ≤ -2 ^ (128 : ℤ)

/-- What an overflow leaves in direction `r` (R133). -/
def overflowCode (r : FRound) (neg : Bool) : Nat :=
  match r, neg with
  | .rne, false => 0x7F800000
  | .rne, true => 0xFF800000
  | .rtz, false => 0x7F7FFFFF
  | .rtz, true => 0xFF7FFFFF
  | .rdn, false => 0x7F7FFFFF
  | .rdn, true => 0xFF800000
  | .rup, false => 0x7F800000
  | .rup, true => 0xFF7FFFFF

/-- Rounding `x` to 24 bits with an unbounded exponent gives less than the least normal value, and not zero (R133). -/
def tinyRounded (r : FRound) (x : ℚ) : Prop :=
  let least : ℚ := 2 ^ (-126 : ℤ)
  let below : ℚ := least - 2 ^ (-150 : ℤ)
  x ≠ 0 ∧
    match r with
    | .rne => |x| < least - 2 ^ (-151 : ℤ)
    | .rtz => |x| < least
    | .rdn => -below ≤ x ∧ x < least
    | .rup => -least < x ∧ x ≤ below

/-- The finite code `y` of no sign is the root of `t` rounded in direction `r` (R110, R133, R134). -/
def IsRoot (r : FRound) (t : ℚ) (y : Nat) : Prop :=
  0 ≤ f32Val y ∧
    match r with
    | .rne => ∀ z, f32Finite z → 0 ≤ f32Val z →
        (f32Val y < f32Val z → t ≤ ((f32Val y + f32Val z) / 2) ^ 2) ∧ (f32Val z < f32Val y → ((f32Val y + f32Val z) / 2) ^ 2 ≤ t)
    | .rtz => f32Val y ^ 2 ≤ t ∧ ∀ z, f32Finite z → 0 ≤ f32Val z → f32Val z ^ 2 ≤ t → f32Val z ≤ f32Val y
    | .rdn => f32Val y ^ 2 ≤ t ∧ ∀ z, f32Finite z → 0 ≤ f32Val z → f32Val z ^ 2 ≤ t → f32Val z ≤ f32Val y
    | .rup => t ≤ f32Val y ^ 2 ∧ ∀ z, f32Finite z → 0 ≤ f32Val z → t ≤ f32Val z ^ 2 → f32Val y ≤ f32Val z

/-- A floating-point format (Table 5.2, R104): exponent and mantissa bits, bias, the code of the largest finite magnitude, whether an infinity
follows it, and the canonical NaN where it has one. -/
structure Shape where
  eb : Nat
  mb : Nat
  bias : Int
  top : Nat
  inf : Bool
  nan : Option Nat

def floatShape : Fmt → Option Shape
  | .f32 => some ⟨8, 23, 127, 0x7F7FFFFF, true, some 0x7FC00000⟩
  | .bf16 => some ⟨8, 7, 127, 0x7F7F, true, some 0x7FC0⟩
  | .f16 => some ⟨5, 10, 15, 0x7BFF, true, some 0x7E00⟩
  | .e4m3 => some ⟨4, 3, 7, 0x7E, false, some 0x7F⟩
  | .e5m2 => some ⟨5, 2, 15, 0x7B, true, some 0x7E⟩
  | .e2m3 => some ⟨2, 3, 1, 0x1F, false, none⟩
  | .e3m2 => some ⟨3, 2, 3, 0x1F, false, none⟩
  | .e2m1 => some ⟨2, 1, 1, 7, false, none⟩
  | _ => none

/-- The place of the sign bit. -/
def signAt (f : Shape) : Nat := f.eb + f.mb

/-- The value of a finite code (R102). -/
def shapeVal (f : Shape) (b : Nat) : ℚ :=
  let k := b % 2 ^ signAt f
  let mag : ℚ := if k / 2 ^ f.mb = 0 then (k : ℚ) * 2 ^ (1 - f.bias - f.mb)
    else ((2 ^ f.mb + k % 2 ^ f.mb : Nat) : ℚ) * 2 ^ (((k / 2 ^ f.mb : Nat) : ℤ) - f.bias - f.mb)
  if b / 2 ^ signAt f % 2 = 1 then -mag else mag

def finiteCode (f : Shape) (b : Nat) : Prop := b < 2 ^ (signAt f + 1) ∧ b % 2 ^ signAt f ≤ f.top

/-- The finite code `y` is the nearest to `x`, of two equally near ones that with the even mantissa (R110). -/
def IsNearest (f : Shape) (x : ℚ) (y : Nat) : Prop :=
  finiteCode f y ∧ ∀ z, finiteCode f z →
    |shapeVal f y - x| ≤ |shapeVal f z - x| ∧ (|shapeVal f y - x| = |shapeVal f z - x| → shapeVal f z = shapeVal f y ∨ y % 2 = 0)

/-- `x` rounds, with an unbounded exponent, above the largest finite value: it lies past the middle to the next value, or on it where the
largest mantissa is odd. -/
def exceeds (f : Shape) (x : ℚ) : Prop :=
  let half := (shapeVal f f.top - shapeVal f (f.top - 1)) / 2
  if f.top % 2 = 1 then shapeVal f f.top + half ≤ |x| else shapeVal f f.top + half < |x|

/-- The integer `i` is the nearest to `x`, of two the even one. -/
def IsNearestInt (x : ℚ) (i : Int) : Prop := |(i : ℚ) - x| ≤ 1 / 2 ∧ (|(i : ℚ) - x| = 1 / 2 → i % 2 = 0)

/-- The bounds of an integer format, its width, and whether it is signed (R103, R112). -/
def intRange : Fmt → Option (Int × Int × Nat × Bool)
  | .i4 => some (-8, 7, 4, true)
  | .i8 => some (-128, 127, 8, true)
  | .i16 => some (-32768, 32767, 16, true)
  | .i32 => some (-2147483648, 2147483647, 32, true)
  | .i64 => some (-9223372036854775808, 9223372036854775807, 64, true)
  | .uint8 => some (0, 255, 8, false)
  | _ => none

/-- The value of the low bits of a word as a number of the given width. -/
def lowInt (w : Nat) (signed : Bool) (v : Word) : Int :=
  let x := v.toNat % 2 ^ w
  if signed = true ∧ 2 ^ (w - 1) ≤ x then (x : Int) - 2 ^ w else x

/-- The sign and value of a finite scalar source in the low bits of T (R137). -/
def sourceValue (sf : Fmt) (v : Word) : Option (Bool × ℚ) :=
  match floatShape sf with
  | some f =>
    let b := v.toNat % 2 ^ (signAt f + 1)
    if b % 2 ^ signAt f ≤ f.top then some (decide (b / 2 ^ signAt f = 1), shapeVal f b) else none
  | none => (intRange sf).map (fun r => (decide (lowInt r.2.2.1 r.2.2.2 v < 0), ((lowInt r.2.2.1 r.2.2.2 v : Int) : ℚ)))

/-- The sign of an infinite source. -/
def sourceInf (sf : Fmt) (v : Word) : Option Bool :=
  (floatShape sf).bind (fun f =>
    let b := v.toNat % 2 ^ (signAt f + 1)
    if f.inf = true ∧ b % 2 ^ signAt f = f.top + 1 then some (decide (b / 2 ^ signAt f = 1)) else none)

/-- The source is a NaN. -/
def sourceNan (sf : Fmt) (v : Word) : Prop := (floatShape sf).isSome = true ∧ sourceValue sf v = none ∧ sourceInf sf v = none

/-- A thread has g or e or p register, or latch, `d` written as a plain move writes it (R38): g0 and p0 discard the value. -/
def moved (x : Thread) (d : Dst) (v : Word) : Thread :=
  match d with
  | .g n => { x with g := if n = 0 then x.g else rset x.g n v }
  | .a u => { x with la := rset x.la u v }
  | .b u => { x with lb := rset x.lb u v }
  | .e n => { x with e := rset x.e n v }
  | .p n => { x with p := if n = 0 then x.p else rset x.p n (v.getLsbD 0) }

/-- The lowest bit of the window that `ldx` writes (Table 3.8). -/
def windowLow (q : BitVec 2) : Nat := if q = 0 then 0 else if q = 1 then 24 else if q = 2 then 40 else 16

/-- Bit by bit, `y` is `old` with the 24 bits of the window replaced (R55). -/
def IsLdx (old : Word) (imm : BitVec 24) (q : BitVec 2) (y : Word) : Prop :=
  ∀ i, i < 64 → y.getLsbD i =
    if windowLow q ≤ i ∧ i < windowLow q + 24 then imm.getLsbD (i - windowLow q) else old.getLsbD i

/-- A branch word completes at `pc`, with Y under way (R138). -/
def branched (x : Thread) (pc y : Word) : Thread := { x with pc := pc, words := x.words + 1, y := rset x.y 8#4 (.busy y) }

/-- What one loop counter does at the end of a word whose last halfword lies at `last` (R140): the counter, and whether it wraps. -/
def loopEnds (l : LoopCtr) (last : Nat) : LoopCtr × Bool :=
  let new : Int := l.cnt.toInt + l.stp.toInt
  if l.act = true ∧ l.fin.toNat = last then
    if (0 < l.stp.toInt ∧ new < l.bnd.toInt) ∨ (l.stp.toInt < 0 ∧ l.bnd.toInt < new) then ({ l with cnt := BitVec.ofInt 32 new }, true)
    else ({ l with cnt := BitVec.ofInt 32 new, act := false }, false)
  else (l, false)

/-- A word of `n` bytes completes without a taken branch (R140): the PC moves past it, or back to the start of the loop that wraps; lc1
steps first. -/
def completed (x : Thread) (n : Nat) : Thread :=
  let last := x.pc.toNat + n - 2
  let l1 := loopEnds (rget x.lc 1#1) last
  let l0 := loopEnds (rget x.lc 0#1) last
  if l1.2 then { x with words := x.words + 1, lc := rset x.lc 1#1 l1.1, pc := (rget x.lc 1#1).beg.setWidth 64 }
  else { x with
    words := x.words + 1
    lc := rset (rset x.lc 1#1 l1.1) 0#1 l0.1
    pc := if l0.2 then (rget x.lc 0#1).beg.setWidth 64 else x.pc + BitVec.ofNat 64 n }

/-- A thread with a result under way in unit `u`, past a word of 4 bytes. -/
def resultUnderWay (x : Thread) (u : BitVec 4) (y : Word) : Thread := completed { x with y := rset x.y u (.busy y) } 4

/-- The words that write only registers of their thread and never trap: the units `ia` to `cm`, `ad` but `aidx`, `fp`. -/
def registerWord (i : Instr) : Bool :=
  (integerOp i).isSome || (pointerOp i).isSome || (compareOp i).isSome || (floatOp i).isSome ||
    (match i with
      | .ext _ _ => true | .ins _ _ => true | .fmin _ _ => true | .fmax _ _ => true | .fabs _ _ => true | .fneg _ _ => true
      | .fcmp _ _ _ _ => true | .fcvt _ _ _ _ _ => true | _ => false)

/-- The word with result `v` under way in unit `u` has issued in the acting thread of `s` (R42). -/
def wordDone (s : State) (c : Nat) (t : BitVec 3) (u : BitVec 4) (v : Word) : State := modThr s c t (fun x => resultUnderWay x u v)

/-- What becomes of a word that defers the effects `es` and then gives `k` (R16, R18, R22): a revocable take holds them while its buffers
have room, and otherwise acts as `pin` first; an irrevocable take performs what it holds and then them at once. -/
def Deferred (s r : State) (es : List Effect) (k : State → State) (out : Host.Outcome State Fault Refusal) : Prop :=
  let c := s.cur.1
  let t := s.cur.2
  ((me s).phase = .revocable → fits (me s) es = true →
    out = .next (k (modThr r c t (fun x => { x with effects := x.effects ++ es })))) ∧
  ((me s).phase = .revocable → fits (me s) es = false → workDone r c t = true →
    out = .next (modThr r c t (fun x => { x with pinning := true, words := x.words + 1 }))) ∧
  ((me s).phase = .irrevocable → mayPerform r c t r.nextOp = true → ∀ r', (∃ b, performAll c t ((me s).effects ++ es) r = (r', [], b)) →
    out = .next (k (modThr r' c t (fun x => { x with effects := [] }))))

/-- What becomes of a word that holds an effect until a home has granted it (R22, R190): a request goes out with the effect held, where the
buffers, the 64 requests and the miss queue have room and an irrevocable take may perform its next effect. -/
def Requested (s r : State) (e : Effect) (kind : ReqKind) (k : State → State) (out : Host.Outcome State Fault Refusal) : Prop :=
  let c := s.cur.1
  let t := s.cur.2
  ((me s).phase = .revocable → fits (me s) [e] = true) → ((me s).phase = .irrevocable → mayPerform r c t r.nextOp = true) →
    canRequest r c t = true → kindRoom r c t kind = true →
    out = .next (k (modThr (addRequest r c t (me s).pc ((me s).words + 1) kind).1 c t (fun x => { x with effects := x.effects ++ [e] })))

/-- The bytes that a store takes from A and B (R195). -/
def storeBytes (x : Thread) (n : Nat) : List Byte := (leBytes 8 (rget x.la 7#4).toNat ++ leBytes 8 (rget x.lb 7#4).toNat).take n

/-- The operand of an atomic word (R196): `cas`, `swp` and `amo`. -/
def atomicOp : Instr → Option (Guard × Src × Size × Space × (Thread → Rmw))
  | .cas g s z sp => some (g, s, z, sp, fun x =>
      if z = .q then .cas (rget x.e 5#3 ++ rget x.e 4#3) (rget x.e 7#3 ++ rget x.e 6#3)
      else .cas ((rget x.la 7#4).setWidth 128) ((rget x.lb 7#4).setWidth 128))
  | .swp g s z sp => some (g, s, z, sp, fun x =>
      if z = .q then .swp (rget x.e 7#3 ++ rget x.e 6#3) else .swp ((rget x.la 7#4).setWidth 128))
  | .amo g s op z sp => some (g, s, z, sp, fun x => .amo op ((rget x.la 7#4).setWidth 128))
  | _ => none

/-- The value that a read-modify-write leaves at its place, by R196; a `cas` that does not match leaves it as it was. -/
def rmwLeaves (what : Rmw) (n old : Nat) : Nat := (rmwNew what n old).getD old

/-- The old value `v` of `n` bytes arrives in `ls.y`, its high half in e3 for 16 bytes (R194, R195). -/
def loaded (x : Thread) (n : Nat) (signed : Bool) (v : Nat) : Thread :=
  let y : Word := if n = 16 ∨ signed = false then BitVec.ofNat 64 v
    else BitVec.ofInt 64 (if 2 ^ (8 * n - 1) ≤ v then (v : Int) - 2 ^ (8 * n) else v)
  completed { x with y := rset x.y 7#4 (.busy y), e := if n = 16 then rset x.e 3#3 (BitVec.ofNat 64 (v / 2 ^ 64)) else x.e } 4

/-- The thread waits in `ls.y` for the answer of request `id`. -/
def awaiting (x : Thread) (id : Nat) : Thread := completed { x with y := rset x.y 7#4 (.pending (.request id)) } 4

/-- The triggering message stands at the head of the queue it came from (R21, R330), which is held where `hold`. A receive end lists its note
among those that came back; where the end has moved on, the stub sends it on in a RETURN with the hold (R257), and where it is closed its slot is
freed. -/
def ReturnedTo (s s' : State) (c : Nat) (t : BitVec 3) (hold : Bool) : Prop :=
  let x := thr s c t
  let ctx := x.ctx.toNat
  match x.origin with
  | .completion => resident s c ctx = true →
      (posOf s' c ctx).cq = x.msg :: (posOf s c ctx).cq ∧ (posOf s' c ctx).cqHeld = ((posOf s c ctx).cqHeld || hold)
  | .stage i ix lid => i < 32 → (stageAt s (dieOf c) i).v = true → (stageAt s (dieOf c) i).lid.toNat = lid →
      ix ∈ (stageAt s' (dieOf c) i).returned ∧ (stageAt s' (dieOf c) i).hold = ((stageAt s (dieOf c) i).hold || hold)
  | .channel eid n home => (∀ u ∈ x.undo, ∀ r e, u = .chnew r e → r ≠ eid) →
      let free := findStub (cellAt s c) eid = none
      (∀ e, findRecv (cellAt s c) eid = some e → e.closing = false →
        free ∨ (atStub s c eid n = false ∧ ∀ k ∈ x.consumed, k.eid ≠ eid) →
        ∃ e', findRecv (cellAt s' c) eid = some e' ∧ n ∈ e'.returned ∧ e'.held = (e.held || hold)) ∧
      (∀ u, findStub (cellAt s c) eid = some u → atStub s c eid n = true → (∀ k ∈ x.consumed, k.eid ≠ eid) →
        ∃ f ∈ s'.flights, f.dst = u.successor ∧ f.pkt = .ret eid u.ctx n hold) ∧
      (free → (∀ e, findRecv (cellAt s c) eid = some e → e.closing = true) →
        ∃ f ∈ s'.flights, f.dst = home ∧ f.pkt = .free eid 0 home n.slot n.sid)
  | .landing ring n => resident s c ctx = true → (posOf s' c ctx).landings = (ring, x.msg, n) :: (posOf s c ctx).landings

/-- The thread is out of its take: free, or with its report waiting; nothing of it is held or computing, but for an `ared` of an irrevocable take and
what was let through behind it, a store, a block read or a header's write, that are still to be performed before the report (R331; the model's
reading, log entry 95). -/
def TakeEnded (s' : State) (c : Nat) (t : BitVec 3) : Prop :=
  let x := thr s' c t
  (x.phase = .idle ∧ x.effects = [] ∨
      x.phase = .reporting ∧ ∀ e ∈ x.effects, (∃ tgt n what ks v insn, e = .rmw tgt n what ks true v insn) ∨
        (∃ ps n ks sy insn, e = .store ps n none (some ks) sy insn) ∨ (∃ src d n cls w ks insn, e = .rbr src d n cls w (some ks) insn) ∨
        (∃ hdr i, e = .rrel hdr i) ∨ ∃ hdr v, e = .rinit hdr v) ∧ x.undo = [] ∧ x.consumed = [] ∧ x.orc = 0 ∧ x.pinning = false ∧
    x.y = Vector.replicate 16 .untriggered ∧
    vxOps (cellAt s' c) t = [] ∧ mxOps (cellAt s' c) t = [] ∧ cpOps (cellAt s' c) t = [] ∧
    (∀ w ∈ (cellAt s' c).watch, w.th ≠ t.toNat) ∧ (cellAt s' c).efOwner ≠ some t.toNat

/-- The control registers that `gcr` reads (Table 4.15): what each number names. -/
def controlTable (s : State) (c : Nat) (t : BitVec 3) : List (Nat × Word) :=
  let x := thr s c t
  let p := posOf s c x.ctx.toNat
  [(0, x.pc), (1, x.ctx.setWidth 64), (2, t.setWidth 64), (3, x.cls.setWidth 64), (4, BitVec.ofNat 64 x.orc), (5, x.reqseq.setWidth 64),
    (6, BitVec.ofNat 64 x.bdgt), (8, x.fpst), (9, x.vxst), (10, x.mxst),
    (0x10, rget x.amax 0#2), (0x11, rget x.amax 1#2), (0x12, rget x.amax 2#2), (0x13, rget x.amax 3#2),
    (0x14, rget x.sk 0#2), (0x15, rget x.sk 1#2), (0x16, rget x.sk 2#2), (0x17, rget x.sk 3#2),
    (0x18, (rget x.lc 0#1).cnt.setWidth 64), (0x19, (rget x.lc 0#1).bnd.setWidth 64), (0x1A, (rget x.lc 0#1).stp.setWidth 64),
    (0x1B, BitVec.ofNat 64 ((if (rget x.lc 0#1).act then 2 ^ 63 else 0) + (rget x.lc 0#1).fin.toNat)),
    (0x1F, BitVec.ofNat 64 ((if (rget x.lc 1#1).act then 2 ^ 63 else 0) + (rget x.lc 1#1).fin.toNat)), (0x1C, (rget x.lc 1#1).cnt.setWidth 64), (0x1D, (rget x.lc 1#1).bnd.setWidth 64), (0x1E, (rget x.lc 1#1).stp.setWidth 64),
    (0x100, rget (cellAt s c).tcfg 0#3), (0x101, rget (cellAt s c).tcfg 1#3), (0x102, rget (cellAt s c).tcfg 2#3),
    (0x103, rget (cellAt s c).tcfg 3#3), (0x104, rget (cellAt s c).tcfg 4#3), (0x105, rget (cellAt s c).tcfg 5#3),
    (0x106, rget (cellAt s c).tcfg 6#3), (0x107, rget (cellAt s c).tcfg 7#3),
    (0x200, BitVec.ofNat 64 (dieOf c * 2 ^ 32 + (if c < 1024 then c % 256 / 16 * 2 ^ 24 + c % 16 * 2 ^ 16 else 0) + c)),
    (0x201, BitVec.ofNat 64 (if c < 1024 then c / 256 * 16 + c % 256 / 64 * 4 + c % 16 / 4 else 0x40)),
    (0x202, BitVec.ofNat 64 (dieOf c)), (0x203, p.idstage), (0x204, p.idslice),
    (0x208, rget p.idorg 0#2), (0x209, rget p.idorg 1#2), (0x20A, rget p.idorg 2#2), (0x20B, rget p.idorg 3#2),
    (0x20C, rget p.idext 0#2), (0x20D, rget p.idext 1#2), (0x20E, rget p.idext 2#2), (0x20F, rget p.idext 3#2),
    (0x300, s.cyc), (0xF00, s.cap)]

/-- The message words that `n` payload registers hold, from g24 on (R245). -/
def payload (x : Thread) (n : Nat) : List Word := (List.range n).map (fun i => rget x.g (BitVec.ofNat 5 (24 + i)))

/-- The handle-store entry as the take sees it: its own latest held `hsave` of the entry, else what the store holds (R249). -/
def savedHandle (s : State) (c : Nat) (x : Thread) (i : Nat) : Handle :=
  (x.effects.reverse.findSome? (fun e => match e with | .hsave j h => if j.toNat = i then some h else none | _ => none)).getD
    (tget (posOf s c x.ctx.toNat).hstore i 0)

/-- What `hkind` returns for a handle (Table 12.7). -/
def kindWord (s : State) (c : Nat) (h : Handle) : Word :=
  if h = 0 then 0
  else if h.extractLsb' 64 64 ≠ Config.handleMac (h.extractLsb' 0 64) then 15
  else match lookupEnd s c h with
    | some (.send e) => BitVec.ofNat 64 ((if e.orphan then 2 ^ 23 else 0) + (e.w - (e.ns - e.ck)) * 2 ^ 8 + 1)
    | some (.recv e) => BitVec.ofNat 64 (e.depth * 2 ^ 16 + 2)
    | some (.stage _ _) => 3
    | none => 4

/-- A handle: MAC, kind, context, eid and cell (Table 12.4). -/
def handleOf (kind ctx eid cell : Nat) : Handle :=
  let b : Word := BitVec.ofNat 64 (kind % 16 * 2 ^ 60 + ctx % 4096 * 2 ^ 48 + eid % 2 ^ 20 * 2 ^ 28 + cell % 2048 * 2 ^ 13)
  Config.handleMac b ++ b

/-- A place reference: its space in bits 57:56, a multiple of 16 (R265). -/
def referenced (s : State) (c : Nat) (t : BitVec 3) (a : Word) (glb : Bool) (n : Nat) (w : Bool) : Except Cause Place :=
  let place : Space → Except Cause Place := fun sp =>
    if a.toNat % 16 ≠ 0 then .error .align else placeOf s c t sp (a.toNat % 2 ^ 56) n w
  if a.toNat / 2 ^ 56 = 0 then place .grv
  else if a.toNat / 2 ^ 56 = 1 then place .loc
  else if a.toNat / 2 ^ 56 = 2 ∧ glb = true then place .glb
  else .error .illegal

/-- The 16 bytes at a local or grove place. -/
def sixteenAt (s : State) : Target → BitVec 128
  | .loc c o => word128At s (locKey c o)
  | .grv g o => word128At s (grvKey g o)
  | .glb _ => word128At s 0

/-- A header that `rinit` could have written: k at most 12, z from 4 to 12, zero bits between (R263). -/
def goodHeader (h : BitVec 128) : Prop :=
  h.toNat / 2 ^ 96 % 16 ≤ 12 ∧ 4 ≤ h.toNat / 2 ^ 104 % 32 ∧ h.toNat / 2 ^ 104 % 32 ≤ 12 ∧ h.toNat / 2 ^ 100 % 16 = 0 ∧ h.toNat / 2 ^ 109 % 8 = 0

/-- `ls`-style wait of unit `u` on what `p` names, past a word of 4 bytes. -/
def waiting (x : Thread) (u : BitVec 4) (p : Pending) : Thread := completed { x with y := rset x.y u (.pending p) } 4

/-- A barrier reference of Figure 14.1: its cell and index (R301). -/
def barrierRef (v : Word) : Prop := v.toNat % 2 ^ 16 < 512 ∧ v.toNat / 2 ^ 16 < 2 ^ 11

/-- The engine or copy unit of a trigger word: `vx` 11, `mx` 12, `cp` 13 (Table 3.9). -/
def engineUnit : Instr → Option (BitVec 4)
  | .vld _ _ _ _ _ => some 11 | .vst _ _ _ _ _ => some 11 | .vbcast _ _ _ _ => some 11 | .vperm _ _ _ _ => some 11 | .vmv _ _ _ => some 11
  | .vadd _ _ _ _ => some 11 | .vsub _ _ _ _ => some 11 | .vmul _ _ _ _ => some 11 | .vfma _ _ _ _ => some 11 | .vmax _ _ _ _ => some 11
  | .vmin _ _ _ _ => some 11 | .vabs _ _ _ _ => some 11 | .vneg _ _ _ _ => some 11 | .vexp2 _ _ _ _ => some 11 | .vlog2 _ _ _ _ => some 11
  | .vrcp _ _ _ _ => some 11 | .vrsq _ _ _ _ => some 11 | .vand _ _ _ => some 11 | .vor _ _ _ => some 11 | .vxor _ _ _ => some 11
  | .vsel _ _ _ _ => some 11 | .vcmp _ _ _ _ _ => some 11 | .vamax _ _ _ => some 11 | .vredadd _ _ _ => some 11 | .vredmax _ _ _ => some 11
  | .vscan _ _ _ _ => some 11 | .vmerge _ _ _ _ => some 11 | .vrecv _ _ _ _ => some 11 | .vsnd _ _ _ => some 11
  | .vcvt _ _ _ _ _ _ _ _ => some 11
  | .tld _ _ _ _ => some 12 | .tst _ _ _ _ => some 12 | .tcst _ _ _ _ _ _ _ => some 12 | .tzero _ _ _ => some 12 | .tmv _ _ _ => some 12
  | .mma _ _ _ _ _ _ => some 12 | .mmsk _ _ _ _ _ => some 12 | .gmma _ _ _ _ _ _ => some 12 | .taccTile _ _ _ _ _ _ => some 12
  | .taccVector _ _ _ _ => some 12 | .aclr _ _ _ => some 12 | .skset _ _ _ => some 12
  | .cpush _ _ => some 13 | .cpushn _ _ => some 13 | .cpoll _ _ => some 13
  | _ => none

/-- The engine words that touch memory, which wait behind the thread's acquires. -/
def engineMemory : Instr → Bool
  | .vld _ _ _ _ _ => true | .vst _ _ _ _ _ => true | .tld _ _ _ _ => true | .tst _ _ _ _ => true | .tcst _ _ _ _ _ _ _ => true
  | .mmsk _ _ _ _ _ => true | .gmma _ _ _ _ _ _ => true | _ => false

/-- The tile that an `mx` word names in its modifier field. -/
def namedTile : Instr → Option (BitVec 3)
  | .tld _ _ _ n => some n | .tst _ _ _ n => some n | .tcst _ _ _ _ _ _ n => some n | .tzero _ _ n => some n | .tmv _ _ n => some n
  | .mma _ _ _ _ n _ => some n | .mmsk _ _ _ n _ => some n | .gmma _ _ _ _ n _ => some n | .taccTile _ _ _ _ n _ => some n
  | _ => none

/-- What an engine operation holds in a revocable take from its trigger on: its places in the store and print buffers, and the place of a copy
request among the effects (R20, R147, R161, R165, R215). -/
def heldPlaces (o : EngOp) (insn : Nat) : List Effect :=
  let store : Nat → List Effect := fun n => if n = 0 then [] else [.store [] n (some o.id) none false insn]
  match o.insn with
  | .vst _ _ sp part _ => if sp = .scr then [] else store (if part = .all then 16 else 8)
  | .tst _ _ sp _ => if sp = .scr then [] else store (storeNeed o tileRuns)
  | .tcst _ _ sp _ _ _ _ => if sp = .scr then [] else store (storeNeed o tcstRuns)
  | .vsnd _ _ _ => List.replicate ((min (o.b.toNat % 64) 32 + 7) / 8) (.send (.vsnd o.id) 0 0 [] 1)
  | .cpush _ _ => [.kick o.id none]
  | .cpushn _ _ => [.kick o.id none]
  | _ => []

/-- The operation that a trigger word puts in a queue: its word and the operands at the trigger (R144, R164, R216). -/
def Sampled (s : State) (c : Nat) (t : BitVec 3) (i : Instr) (u : BitVec 4) (v : Word) (o : EngOp) : Prop :=
  let x := thr s c t
  o.id = s.nextOp ∧ o.th = t.toNat ∧ o.insn = i ∧ encode i = w32 o.word ∧ o.a = rget x.la u ∧ o.b = rget x.lb u ∧ o.t = v ∧ o.e = x.e ∧
    o.h = rget x.h (v.extractLsb' 0 3) ∧ o.neff = x.effects.length ∧ o.pushed = s.cyc.toNat ∧ o.pc = x.pc ∧ o.words = x.words + 1 ∧ o.keys = none ∧ o.req = none

/-- Element `i` of a vector of `w`-bit elements (R143). -/
def lane (w : Nat) (v : Vec) (i : Nat) : Nat := v.toNat / 2 ^ (w * i) % 2 ^ w

/-- The 32-bit two's complement value of an element. -/
def int32 (x : Nat) : Int := if x < 2 ^ 31 then x else (x : Int) - 2 ^ 32

/-- A zero sum is +0 (R150). -/
def positiveZero (ty : ElTy) (y : Nat) : Nat := if y = 2 ^ (elWidth ty - 1) then 0 else y

/-- The operations that work element by element (R150, Table 7.4): type, destination, and an element from those of A, B and T. -/
def lanewise : Instr → Option (ElTy × BitVec 5 × (Nat → Nat → Nat → Nat))
  | .vadd _ _ ty d => some (ty, d, fun a _ t => if ty = .i32 then a + t else positiveZero ty (addFp (elSpec ty) .rne a t).1)
  | .vsub _ _ ty d => some (ty, d, fun a _ t => if ty = .i32 then a + (2 ^ 32 - t) else positiveZero ty (subFp (elSpec ty) .rne a t).1)
  | .vmul _ _ ty d => some (ty, d, fun a _ t => if ty = .i32 then a * t else (mulFp (elSpec ty) .rne a t).1)
  | .vfma _ _ ty d => some (ty, d, fun a b t => if ty = .i32 then a * b + t else (fmaPos (elSpec ty) a b t).1)
  | .vmax _ _ ty d => some (ty, d, fun a _ t => if ty = .i32 then (if int32 a ≤ int32 t then t else a) else minmaxFp (elSpec ty) false a t)
  | .vmin _ _ ty d => some (ty, d, fun a _ t => if ty = .i32 then (if int32 a ≤ int32 t then a else t) else minmaxFp (elSpec ty) true a t)
  | .vabs _ _ ty d => some (ty, d, fun _ _ t => if ty = .i32 then (int32 t).natAbs else t % 2 ^ (elWidth ty - 1))
  | .vneg _ _ ty d => some (ty, d, fun _ _ t => if ty = .i32 then 2 ^ 32 - t else t + 2 ^ (elWidth ty - 1))
  | .vexp2 _ _ ty d => some (ty, d, fun _ _ t => (exp2Fp (elSpec ty) t).1)
  | .vlog2 _ _ ty d => some (ty, d, fun _ _ t => (log2Fp (elSpec ty) t).1)
  | .vrcp _ _ ty d => some (ty, d, fun _ _ t => (rcpFp (elSpec ty) .rne t).1)
  | .vrsq _ _ ty d => some (ty, d, fun _ _ t => (rsqFp (elSpec ty) t).1)
  | .vsel _ _ ty d => some (ty, d, fun a b t => if t = 0 then b else a)
  | .vand _ _ d => some (.f32, d, fun a _ t => a &&& t)
  | .vor _ _ d => some (.f32, d, fun a _ t => a ||| t)
  | .vxor _ _ d => some (.f32, d, fun a _ t => a ^^^ t)
  | .vmv _ _ d => some (.f32, d, fun _ _ t => t)
  | _ => none

/-- The operation in flight in the vector engine has what it waits for. -/
def vxReady (s : State) (c : Nat) (o : EngOp) : Prop := (cellAt s c).vxf = some o ∧ o.req = none ∧ ∃ ks, o.keys = some ks

/-- The one operation in flight in the matrix engine has what it waits for. -/
def mxReady (s : State) (c : Nat) (o : EngOp) : Prop := (cellAt s c).mxf = some o ∧ o.req = none ∧ ∃ ks, o.keys = some ks

/-- Cell `c` keeps its registers but those that `v`, `t` and `acc` give; its other engine, its memory and its ends stay. -/
def filesBecome (s s' : State) (c : Nat) (v : RegFile 5 Vec) (t : RegFile 3 Tile) (acc : RegFile 2 Acc) : Prop :=
  (cellAt s' c).v = v ∧ (cellAt s' c).t = t ∧ (cellAt s' c).acc = acc ∧ (cellAt s' c).tcfg = (cellAt s c).tcfg ∧ s'.mem = s.mem ∧
    (∀ c', c' ≠ c → cellAt s' c' = cellAt s c')

/-- The latch of unit `u` holds the result, where no later operation of the thread stands queued (R42). -/
def latchHolds (s' : State) (c : Nat) (t : BitVec 3) (u : BitVec 4) (later : List EngOp) (y : Word) : Prop :=
  (∀ o ∈ later, o.th ≠ t.toNat) → rget (thr s' c t).y u = .ready y

/-! ### Values of elements -/

/-- A value as the rules have it: NaN, an infinity, or a number with a sign, which a zero has too (R102–R104). -/
inductive Ext
  | nan
  | inf (neg : Bool)
  | fin (neg : Bool) (x : ℚ)

/-- The exact value that the model computes with. -/
def extOf : FV → Ext
  | .nan => .nan
  | .inf neg => .inf neg
  | .fin neg m e => .fin neg (if neg then -((m : ℚ) * 2 ^ e) else (m : ℚ) * 2 ^ e)

/-- The value of a code of a scalar format (Table 5.2, R103). -/
def codeVal (f : Fmt) (b : Nat) : Ext :=
  match floatShape f with
  | some h =>
    let k := b % 2 ^ signAt h
    let neg := decide (b / 2 ^ signAt h % 2 = 1)
    if k ≤ h.top then .fin neg (shapeVal h b) else if h.inf = true ∧ k = h.top + 1 then .inf neg else .nan
  | none =>
    match intRange f with
    | some (_, _, w, sg) => .fin (decide (lowInt w sg (BitVec.ofNat 64 b) < 0)) (lowInt w sg (BitVec.ofNat 64 b))
    | none => .nan

/-- The format of a block format's elements (R107, R108). -/
def elemFmt : Fmt → Fmt
  | .lbf4 => .e2m1 | .mx8e4 => .e4m3 | .mx8e5 => .e5m2 | .mx6e2 => .e2m3 | .mx6e3 => .e3m2 | .mx4 => .e2m1
  | f => f

/-- The exact product; NaN from a NaN, and from an infinity and a zero (R118). -/
def extMul : Ext → Ext → Ext
  | .nan, _ => .nan
  | _, .nan => .nan
  | .inf a, .inf b => .inf (a != b)
  | .inf a, .fin b y => if y = 0 then .nan else .inf (a != b)
  | .fin a x, .inf b => if x = 0 then .nan else .inf (a != b)
  | .fin a x, .fin b y => .fin (a != b) (x * y)

/-- The exact sum; NaN from a NaN and from opposite infinities, and +0 where it is zero, but of two -0 (R134). -/
def extAdd : Ext → Ext → Ext
  | .nan, _ => .nan
  | _, .nan => .nan
  | .inf a, .inf b => if a = b then .inf a else .nan
  | .inf a, .fin _ _ => .inf a
  | .fin _ _, .inf b => .inf b
  | .fin a x, .fin b y => .fin (if x + y = 0 then a && b else decide (x + y < 0)) (x + y)

def extNeg : Ext → Ext
  | .nan => .nan
  | .inf a => .inf (!a)
  | .fin a x => .fin (!a) (-x)

/-- The exact reciprocal (Table 7.6). -/
def extInv : Ext → Ext
  | .nan => .nan
  | .inf a => .fin a 0
  | .fin a x => if x = 0 then .inf a else .fin a (1 / x)

/-- A zero sum of an element-by-element operation is +0 (R150). -/
def zeroPos : Ext → Ext
  | .fin a x => .fin (if x = 0 then false else a) x
  | x => x

def extNan : Ext → Bool
  | .nan => true
  | _ => false

def extFin : Ext → Bool
  | .fin _ _ => true
  | _ => false

/-- |x| of a finite value, else 0. -/
def extMag : Ext → ℚ
  | .fin _ x => |x|
  | _ => 0

/-- The number, 0 where there is none. -/
def extVal : Ext → ℚ
  | .fin _ x => x
  | _ => 0

def oppositeInf : Ext → Ext → Bool
  | .inf a, .inf b => a != b
  | _, _ => false

/-- Less than zero. -/
def belowZero : Ext → Bool
  | .inf a => a
  | .fin _ x => decide (x < 0)
  | .nan => false

def extEq : Ext → Ext → Bool
  | .inf a, .inf b => a == b
  | .fin _ x, .fin _ y => decide (x = y)
  | _, _ => false

def extLt : Ext → Ext → Bool
  | .inf a, .inf b => a && !b
  | .inf a, .fin _ _ => a
  | .fin _ _, .inf b => !b
  | .fin _ x, .fin _ y => decide (x < y)
  | _, _ => false

/-- A zero and an infinity. -/
def zeroInf : Ext → Ext → Bool
  | .fin _ x, .inf _ => decide (x = 0)
  | .inf _, .fin _ x => decide (x = 0)
  | _, _ => false

/-- The value of a UE3M5 block scale (R106). -/
def ue3 (s : Nat) : ℚ := if s / 32 = 0 then ((s % 32 : Nat) : ℚ) / 128 else ((32 + s % 32 : Nat) : ℚ) * 2 ^ (((s / 32 : Nat) : ℤ) - 8)

/-- The value of a BF16 code. -/
def bf16Val (b : Nat) : ℚ := shapeVal ⟨8, 7, 127, 0x7F7F, true, some 0x7FC0⟩ b

/-- The factor of a block's elements (R107, R108). -/
def scaleVal (f : Fmt) (band s : Nat) : Ext :=
  if f = .lbf4 then extMul (codeVal .bf16 band) (if s = 255 then .nan else .fin false (ue3 s))
  else if s = 255 then .nan else .fin false (2 ^ ((s : ℤ) - 127))

/-- Element `j` of an image of `n` elements: its code, under its block's scale behind the elements (R109). -/
def imageVal (f : Fmt) (band n img j : Nat) : Ext :=
  let code := img / 2 ^ (fmtWidth f * j) % 2 ^ fmtWidth f
  if blockLen f = 0 then codeVal f code
  else extMul (scaleVal f band (img / 2 ^ (8 * (elemBytes f n + j / blockLen f)) % 256)) (codeVal (elemFmt f) code)

/-! ### Rounding and conversion -/

def signedCode (h : Shape) (neg : Bool) (k : Nat) : Nat := (if neg then 2 ^ signAt h else 0) + k

/-- `b` is the value rounded to nearest as IEEE 754 does: an overflow gives an infinity, NaN is canonical (R104, R150). -/
def IeeeIs (h : Shape) (x : Ext) (b : Nat) : Prop :=
  match x with
  | .nan => h.nan = some b
  | .inf neg => b = signedCode h neg (h.top + 1)
  | .fin neg v => (exceeds h v → b = signedCode h neg (h.top + 1)) ∧
      (¬exceeds h v → ∃ k, k < 2 ^ signAt h ∧ IsNearest h |v| k ∧ b = signedCode h neg k)

/-- The stochastic step (R114): `x` truncated to the destination's last digit, and one unit more where the rest and the draw reach 2^32. -/
def Stepped (h : Shape) (dw : Nat) (x mag : ℚ) : Prop :=
  ∃ (k : Nat) (q : ℤ), 1 - h.bias - h.mb ≤ q ∧ k < 2 ^ (h.mb + 1) ∧ (2 ^ h.mb ≤ k ∨ q = 1 - h.bias - h.mb) ∧
    (k : ℚ) * 2 ^ q ≤ x ∧ x < ((k : ℚ) + 1) * 2 ^ q ∧
    mag = ((k : ℚ) + if 2 ^ 32 ≤ ⌊(x / 2 ^ q - k) * 2 ^ 32⌋ + (dw : ℤ) then 1 else 0) * 2 ^ q

/-- `b` is the conversion of `x` to a scalar format, with its counts: saturated, invalid (R110 to R112, R114, Table 5.4). `dr` is the draw of a
stochastic conversion. -/
def Converts (d : Fmt) (nan : Bool) (dr : Option Nat) (x : Ext) (b : Nat) (sat bad : Bool) : Prop :=
  match floatShape d with
  | some h =>
    (match x with
    | .nan => (∀ k, h.nan = some k → b = k ∧ sat = false ∧ bad = false) ∧ (h.nan = none → b = 0 ∧ sat = false ∧ bad = true)
    | .inf neg =>
      bad = false ∧
        if d = .f32 ∨ nan = true ∧ dr = none ∧ h.inf = true then b = signedCode h neg (h.top + 1) ∧ sat = false
        else if nan = true ∧ dr = none then h.nan = some b ∧ sat = true
        else b = signedCode h neg h.top ∧ sat = true
    | .fin neg v =>
      bad = false ∧
        match dr with
        | none =>
          (¬exceeds h v → ∃ k, k < 2 ^ signAt h ∧ IsNearest h |v| k ∧ b = signedCode h neg k ∧ sat = false) ∧
          (exceeds h v →
            if nan = true ∧ h.inf = true then b = signedCode h neg (h.top + 1) ∧ sat = false
            else if nan = true then h.nan = some b ∧ sat = true
            else b = signedCode h neg h.top ∧ sat = true)
        | some dw => ∃ mag, Stepped h dw |v| mag ∧
          (shapeVal h h.top < mag → b = signedCode h neg h.top ∧ sat = true) ∧
          (mag ≤ shapeVal h h.top → ∃ k, k < 2 ^ signAt h ∧ finiteCode h k ∧ shapeVal h k = mag ∧ b = signedCode h neg k ∧ sat = false))
  | none =>
    match intRange d with
    | some (lo, hi, w, _) =>
      (match x with
      | .nan => b = 0 ∧ sat = false ∧ bad = true
      | .inf neg => b = ((if neg then lo else hi) % 2 ^ w).toNat ∧ sat = true ∧ bad = true
      | .fin _ v => ∃ i, IsNearestInt v i ∧ b = (max lo (min hi i) % 2 ^ w).toNat ∧ sat = (decide (i < lo) || decide (hi < i)) ∧ bad = sat)
    | none => False

/-- emax of R115. -/
def emaxOf : Fmt → ℤ
  | .mx8e4 => 8 | .mx8e5 => 15 | .mx6e2 => 2 | .mx6e3 => 4 | _ => 2

/-- The scale of a block whose largest finite magnitude is `m` (R115, R116). -/
def ScaleIs (d : Fmt) (band : Nat) (m : ℚ) (s : Nat) : Prop :=
  (m = 0 → s = 0) ∧
  (m ≠ 0 →
    if d = .lbf4 then s ≤ 254 ∧ (m ≤ 6 * bf16Val band * ue3 s ∨ s = 254) ∧ ∀ z, z < s → 6 * bf16Val band * ue3 z < m
    else ∃ e : ℤ, 2 ^ e ≤ m ∧ m < 2 ^ (e + 1) ∧ (s : ℤ) = max 0 (min 254 (e - emaxOf d + 127)))

/-- The largest magnitude among the finite of the first `n` values. -/
def LargestOf (n : Nat) (xs : Nat → Ext) (m : ℚ) : Prop :=
  (∀ j, j < n → extMag (xs j) ≤ m) ∧ (m = 0 ∨ ∃ j, j < n ∧ m = extMag (xs j))

/-- One block of `n` values quantised: its scale, and code and counts of each element (R115 to R117; log entries 101, 102). -/
def BlockIs (d : Fmt) (nan : Bool) (band n : Nat) (xs : Nat → Ext) (dr : Nat → Option Nat) (s : Nat) (code : Nat → Nat) (sat bad : Nat → Bool) : Prop :=
  if nan = true ∧ ∃ j, j < n ∧ extFin (xs j) = false then s = 255 ∧ ∀ j, j < n → code j = 0 ∧ sat j = false ∧ bad j = false
  else ∃ m, LargestOf n xs m ∧ ScaleIs d band m s ∧
    let unit : ℚ := if d = .lbf4 then bf16Val band * ue3 s else 2 ^ ((s : ℤ) - 127)
    ∀ j, j < n →
      match xs j with
      | .fin neg v =>
        if unit = 0 then code j = 0 ∧ sat j = false ∧ bad j = false
        else Converts (elemFmt d) false (dr j) (.fin neg (v / unit)) (code j) (sat j) (bad j)
      | y => Converts (elemFmt d) false none y (code j) (sat j) (bad j)

/-- `img` is the image of `n` values converted to format `d` (R109 to R117), `sats` counts those that saturated, and `inv` says whether a
conversion was invalid. -/
def RowConverted (d : Fmt) (nan : Bool) (band n : Nat) (xs : Nat → Ext) (dr : Nat → Option Nat) (img sats : Nat) (inv : Bool) : Prop :=
  ∃ (code : Nat → Nat) (sat bad : Nat → Bool),
    (∀ j, j < n → img / 2 ^ (fmtWidth d * j) % 2 ^ fmtWidth d = code j) ∧
    sats = ((List.range n).filter sat).length ∧ inv = (List.range n).any bad ∧
    if blockLen d = 0 then img < 2 ^ (fmtWidth d * n) ∧ ∀ j, j < n → Converts d nan (dr j) (xs j) (code j) (sat j) (bad j)
    else img < 2 ^ (8 * imageLen d n) ∧ ∀ k, k < n / blockLen d →
      BlockIs d nan band (blockLen d) (fun i => xs (k * blockLen d + i)) (fun i => dr (k * blockLen d + i))
        (img / 2 ^ (8 * (elemBytes d n + k)) % 256) (fun i => code (k * blockLen d + i)) (fun i => sat (k * blockLen d + i))
        (fun i => bad (k * blockLen d + i))

/-- The band scale that an operation derives from the largest finite magnitude of the band (R116), at most the largest finite BF16. -/
def BandIs (m : ℚ) (S : Nat) : Prop :=
  (m = 0 → S = 0x3F80) ∧
  (m ≠ 0 → 0x80 ≤ S ∧ S ≤ 0x7F7F ∧ (m / 186 ≤ bf16Val S ∨ S = 0x7F7F) ∧ ∀ z, 0x80 ≤ z → z < S → bf16Val z < m / 186)

/-- The draws of a stochastic operation, from the seed and slice of e4 (R113, R154). -/
def drawOf (sr : Bool) (o : EngOp) (i : Nat) : Option Nat :=
  if sr then some (draw ((rget o.e 4#3).extractLsb' 32 32) (((rget o.e 4#3).extractLsb' 0 10).setWidth 32)
    ((rget o.e 5#3).extractLsb' 32 32 + BitVec.ofNat 32 i)).toNat
  else none

/-- The FP32 code of |x| as amax takes it: nearest, +infinity above the largest finite value (R82). -/
def MagIs (x : Ext) (b : Nat) : Prop :=
  match x with
  | .nan => False
  | .inf _ => b = 0x7F800000
  | .fin _ v =>
    let h : Shape := ⟨8, 23, 127, 0x7F7FFFFF, true, some 0x7FC00000⟩
    (exceeds h v → b = 0x7F800000) ∧ (¬exceeds h v → b < 2 ^ 31 ∧ IsNearest h |v| b)

/-- An amax register that tracked the values: the largest magnitude, and the NaNs counted (R82). -/
def Tracked (old new : Word) (xs : List Ext) : Prop :=
  let mag := new.toNat % 2 ^ 32
  new.toNat / 2 ^ 32 = min (old.toNat / 2 ^ 32 + (xs.filter extNan).length) (2 ^ 32 - 1) ∧
    old.toNat % 2 ^ 31 ≤ mag ∧ (mag = old.toNat % 2 ^ 31 ∨ ∃ x ∈ xs, MagIs x mag) ∧ ∀ x ∈ xs, ∀ b, MagIs x b → b ≤ mag

/-! ### Vector operations -/

/-- The scalar format of an element type. -/
def tyFmt : ElTy → Fmt
  | .f32 => .f32 | .bf16 => .bf16 | .f16 => .f16 | .i32 => .i32

/-- Which elements make an element-by-element operation invalid (Tables 7.5 and 7.6, from those of A, B and T), and which hold a NaN among those it
reads. -/
def laneInvalid : Instr → Option (ElTy × (Ext → Ext → Ext → Bool) × (Ext → Ext → Ext → Bool))
  | .vadd _ _ ty _ => some (ty, fun a _ t => oppositeInf a t, fun a _ t => extNan a || extNan t)
  | .vsub _ _ ty _ => some (ty, fun a _ t => oppositeInf a (extNeg t), fun a _ t => extNan a || extNan t)
  | .vmul _ _ ty _ => some (ty, fun a _ t => zeroInf a t, fun a _ t => extNan a || extNan t)
  | .vfma _ _ ty _ => some (ty, fun a b t => zeroInf a b || oppositeInf (extMul a b) t, fun a b t => extNan a || extNan b || extNan t)
  | .vlog2 _ _ ty _ => some (ty, fun _ _ t => belowZero t, fun _ _ t => extNan t)
  | .vrsq _ _ ty _ => some (ty, fun _ _ t => belowZero t, fun _ _ t => extNan t)
  | i => (lanewise i).map (fun e => (e.1, fun _ _ _ => false, fun _ _ _ => false))

/-- `vcmp` of two elements (R151): INT32 signed, and in floating types -0 equal to +0, and a NaN unequal to everything. -/
def compared (k : VCond) (ty : ElTy) (a t : Nat) : Bool :=
  let x := codeVal (tyFmt ty) a
  let y := codeVal (tyFmt ty) t
  match k with
  | .eq => if ty = .i32 then decide (int32 a = int32 t) else extEq x y
  | .ne => if ty = .i32 then decide (int32 a ≠ int32 t) else !extEq x y
  | .lt => if ty = .i32 then decide (int32 a < int32 t) else extLt x y
  | .le => if ty = .i32 then decide (int32 a ≤ int32 t) else extLt x y || extEq x y

/-- The code is 1/√x of a positive x, rounded to nearest (R152); 1/√x never lies midway between two codes. -/
def IsInvRoot (h : Shape) (x : ℚ) (k : Nat) : Prop :=
  k < 2 ^ signAt h ∧ finiteCode h k ∧ ∀ z, z < 2 ^ signAt h → finiteCode h z →
    (k < z → 1 ≤ x * ((shapeVal h k + shapeVal h z) / 2) ^ 2) ∧ (z < k → x * ((shapeVal h k + shapeVal h z) / 2) ^ 2 ≤ 1)

/-- An element as FP32, exactly (R156); an INT32 element as it stands. -/
def Widened (ty : ElTy) (e x : Nat) : Prop :=
  match ty with
  | .f32 => x = e
  | .i32 => x = e
  | ty =>
    match codeVal (tyFmt ty) e with
    | .nan => x = 0x7FC00000
    | .inf neg => x = (if neg then 0xFF800000 else 0x7F800000)
    | .fin neg v => f32Finite x ∧ f32Val x = v ∧ (2 ^ 31 ≤ x ↔ neg = true)

/-- One level of the tree of R156. -/
def halved (op : Nat → Nat → Nat) (l : List Nat) : List Nat :=
  (List.range (l.length / 2)).map (fun j => op (l.getD (2 * j) 0) (l.getD (2 * j + 1) 0))

/-- The tree of R156 over 64 or 128 elements. -/
def treeOf (ty : ElTy) (op : Nat → Nat → Nat) (l : List Nat) : Nat := ((halved op)^[if elWidth ty = 32 then 6 else 7] l).getD 0 0

/-- An addition of the tree of R156 adds opposite infinities. -/
def treeInvalid (ty : ElTy) (op : Nat → Nat → Nat) (l : List Nat) : Bool :=
  ty != .i32 && (List.range (if elWidth ty = 32 then 6 else 7)).any (fun k =>
    let m := (halved op)^[k] l
    (List.range (m.length / 2)).any (fun j => oppositeInf (codeVal .f32 (m.getD (2 * j) 0)) (codeVal .f32 (m.getD (2 * j + 1) 0))))

/-- The addition of reductions, scans and merges: INT32 modulo 2^32, else IEEE 754's rounded to nearest in the type (R156 to R158). -/
def sumEl (ty : ElTy) (a b : Nat) : Nat := if ty = .i32 then (a + b) % 2 ^ 32 else (addFp (elSpec ty) .rne a b).1

/-- An element in Y: INT32 sign-extended. -/
def inY (ty : ElTy) (x : Nat) : Word := if ty = .i32 then BitVec.ofInt 64 (int32 x) else BitVec.ofNat 64 x

/-- vxst or mxst with more flags set. -/
def gained (old : Word) (a b c : Bool) : Word := old ||| BitVec.ofNat 64 ((if a then 4 else 0) + (if b then 2 else 0) + (if c then 1 else 0))

/-- The runs of an operation's store reach the scratch window at once, a revocable take's place in the store buffer, or memory in their turn in
an irrevocable take (R20, R22, R147, R165). -/
def StoresBytes (s s' : State) (c : Nat) (o : EngOp) (scr : Bool) (ks : List Nat) (bss : List (List Byte)) : Prop :=
  let t := BitVec.ofNat 3 o.th
  let pieces := (o.runs.zip bss).map (fun e => (⟨e.1.1, e.2⟩ : Piece))
  (scr = true → s'.mem = writeKeys s.mem ks bss.flatten ∧ (thr s' c t).effects = (thr s c t).effects) ∧
  (scr = false → (thr s c t).phase ≠ .irrevocable → s'.mem = s.mem ∧
    (thr s' c t).effects = (thr s c t).effects.map (fun e =>
      match e with
      | .store _ n (some id) _ sr insn => if id = o.id then .store pieces n none (some ks) sr insn else e
      | e => e)) ∧
  (scr = false → (thr s c t).phase = .irrevocable → ∀ s1 b,
    performAll c t ((thr s c t).effects ++ [.store pieces 0 none (some ks) false 0]) s = (s1, [], b) →
      s'.mem = s1.mem ∧ (thr s' c t).effects = [])

/-- An irrevocable take may store or send now, and what it holds is performed with the effect `e`. -/
def MayAct (s : State) (c : Nat) (o : EngOp) (e : Effect) : Prop :=
  let t := BitVec.ofNat 3 o.th
  (thr s c t).phase = .irrevocable →
    mayPerform s c t o.id = true ∧ ∃ s1 b, performAll c t ((thr s c t).effects ++ [e]) s = (s1, [], b)

/-- The store effect of an operation. -/
def storeOf (o : EngOp) (ks : List Nat) (bss : List (List Byte)) : Effect :=
  .store ((o.runs.zip bss).map (fun e => (⟨e.1.1, e.2⟩ : Piece))) 0 none (some ks) false 0

/-! ### Tiles -/

/-- Element (r, c) of a span as R167 and R168 place it: its code, under its block and band scales. -/
def tileVal (sh : Machine.Shape) (ts : RegFile 3 Tile) (n : BitVec 3) (r c : Nat) : Ext :=
  let x := (rget ts (n + BitVec.ofNat 3 (r / sh.p))).toNat
  let row := r % sh.p
  let code := x / 2 ^ (8 * (row * sh.rowb) + fmtWidth sh.fmt * c) % 2 ^ fmtWidth sh.fmt
  if blockLen sh.fmt = 0 then codeVal sh.fmt code
  else extMul (scaleVal sh.fmt (x / 2 ^ (8 * (sh.p * (sh.rowb + sh.sb))) % 2 ^ 16)
    (x / 2 ^ (8 * (sh.p * sh.rowb + row * sh.sb + c / blockLen sh.fmt)) % 256)) (codeVal (elemFmt sh.fmt) code)

/-- The layout of a tile operand (R168, Table 8.2). -/
def LaidOut (w : Word) (sh : Machine.Shape) : Prop :=
  let b := blockLen sh.fmt
  let fits : Nat → Prop := fun p => (∃ i, p = 2 ^ i) ∧ p ≤ (if fmtWidth sh.fmt < 8 ∨ b ≠ 0 then 64 else 256) ∧ p * (sh.rowb + sh.sb) + sh.band ≤ 8192
  fmtOfCode (w.toNat % 32) = some sh.fmt ∧ sh.rows = w.toNat / 32 % 256 + 1 ∧ sh.rowb = 32 * 2 ^ (w.toNat / 2 ^ 13 % 4) ∧
    sh.e = (if fmtWidth sh.fmt = 4 then 2 * sh.rowb else if fmtWidth sh.fmt ≤ 8 then sh.rowb else sh.rowb * 8 / fmtWidth sh.fmt) ∧
    sh.sb = (if b = 0 then 0 else sh.e / b) ∧ sh.band = (if sh.fmt = .lbf4 then 2 else 0) ∧
    fits sh.p ∧ (∀ p, fits p → p ≤ sh.p) ∧ sh.s = (sh.rows + sh.p - 1) / sh.p

/-- Byte `i` of tile `k` of a span whose rows have the images `img` and whose bands the scales `band`: R168, every other byte 0. -/
def spanByte (sh : Machine.Shape) (img band : Nat → Nat) (k i : Nat) : Nat :=
  let eb := elemBytes sh.fmt sh.e
  if i < sh.p * sh.rowb then
    if k * sh.p + i / sh.rowb < sh.rows ∧ i % sh.rowb < eb then img (k * sh.p + i / sh.rowb) / 2 ^ (8 * (i % sh.rowb)) % 256 else 0
  else if i < sh.p * (sh.rowb + sh.sb) then
    let j := i - sh.p * sh.rowb
    if k * sh.p + j / sh.sb < sh.rows then img (k * sh.p + j / sh.sb) / 2 ^ (8 * (eb + j % sh.sb)) % 256 else 0
  else if sh.fmt = .lbf4 ∧ i < sh.p * (sh.rowb + sh.sb) + 2 then band (k * sh.p / 64) / 2 ^ (8 * (i - sh.p * (sh.rowb + sh.sb))) % 256
  else 0

/-- The span holds these rows and bands; the other tiles are as they were. -/
def SpanHolds (sh : Machine.Shape) (n : BitVec 3) (ts ts' : RegFile 3 Tile) (img band : Nat → Nat) : Prop :=
  ∀ m : BitVec 3,
    if n.toNat ≤ m.toNat ∧ m.toNat < n.toNat + sh.s then
      ∀ i, i < 8192 → (rget ts' m).toNat / 2 ^ (8 * i) % 256 = spanByte sh img band (m.toNat - n.toNat) i
    else rget ts' m = rget ts m

/-- GroupSum (R118, R119): the new running value, and whether a NaN arose from terms of which none was one. -/
def GroupIs (c : Nat) (ts : List Ext) (y : Nat) (bad : Bool) : Prop :=
  let u := codeVal .f32 c :: ts
  let h : Shape := ⟨8, 23, 127, 0x7F7FFFFF, true, some 0x7FC00000⟩
  let mixed : Prop := Ext.nan ∈ u ∨ Ext.inf false ∈ u ∧ Ext.inf true ∈ u
  (mixed → y = 0x7FC00000 ∧ (bad = true ↔ Ext.nan ∉ u)) ∧
  (¬mixed → bad = false ∧ (Ext.inf false ∈ u → y = 0x7F800000) ∧ (Ext.inf true ∈ u → y = 0xFF800000) ∧
    ((∀ x ∈ u, extFin x = true) →
      ((∀ x ∈ u, extVal x = 0) → ((∀ x ∈ u, x = .fin true 0) → y = 0x80000000) ∧ ((∃ x ∈ u, x ≠ .fin true 0) → y = 0)) ∧
      ((∃ x ∈ u, extVal x ≠ 0) → ∃ e : ℤ, (∃ x ∈ u, 2 ^ e ≤ |extVal x|) ∧ (∀ x ∈ u, |extVal x| < 2 ^ (e + 1)) ∧
        let q : ℚ := 2 ^ (e - 31)
        let sum : ℚ := (u.map (fun x => (if extVal x < 0 then -1 else 1) * (⌊|extVal x| / q⌋ : ℚ) * q)).sum
        (sum = 0 → y = 0) ∧ (sum ≠ 0 → IeeeIs h (.fin (decide (sum < 0)) sum) y))))

/-- The terms of a group that are not skipped. -/
def groupTerms (g : Nat) (l : List (Option (FV × FV))) (k : Nat) : List Ext :=
  (((l.drop (k * g)).take g).filterMap id).map (fun e => extMul (extOf e.1) (extOf e.2))

/-- The accumulator gains the products of rows A and columns B from (i0, j0) on (R172); absent elements of A are skipped (R173). -/
def productOf (cl : MClass) (old new : Acc) (i0 j0 : Nat) (rows : List (List (Option FV))) (cols : List (List FV)) : Prop :=
  ∀ i j, i < 64 → j < 64 → accGet new i j =
    if i0 ≤ i ∧ i < i0 + rows.length ∧ j0 ≤ j ∧ j < j0 + cols.length then
      (accElem cl (accGet old i j) (((rows.getD (i - i0) []).zip (cols.getD (j - j0) [])).map (fun e => e.1.map (fun a => (a, e.2))))).1 % 2 ^ 32
    else accGet old i j

/-- The bytes of one row of a skip list say which blocks of 8 are kept: the high half of a byte skips, the low half keeps (R173). -/
def kept (bs : List Nat) : List Bool := bs.flatMap (fun x => List.replicate (x / 16) false ++ List.replicate (x % 16) true)

/-- Operation `o` of memory here, whose runs are `rs`, starts as `p`, its bytes read under the take's view (R144, R147, R164, R165). -/
def ReadHere (s : State) (c : Nat) (t : BitVec 3) (o : EngOp) (rs : List (Place × Nat)) (p : EngOp) : Prop :=
  let runs := rs.map (fun r => (placeTarget r.1, r.2))
  let ks := runs.flatMap (fun r => (directKeys r.1 r.2).getD [])
  (∀ r ∈ rs, isHere r.1 = true) ∧ directAhead s c t ks = false ∧ o.id ∉ s.opErrors ∧
    ∃ bss, readRuns s c t { o with start := s.cyc.toNat, runs := runs } ks = .ok bss ∧
      p = { o with start := s.cyc.toNat, runs := runs, keys := some ks, data := some bss.flatten }

/-- The bytes are the walk of one row over `blocks` blocks, with room for its kept ones in a row of `e` elements (R173). -/
def RowWalk (blocks e : Nat) (bs : List Nat) : Prop :=
  (kept bs).length = blocks ∧ (∀ m, m < bs.length → (kept (bs.take m)).length < blocks) ∧ 8 * ((kept bs).filter id).length ≤ e ∧ ∀ x ∈ bs, x < 256

/-- Element `k` of a sparse row: of a kept block, the next eight of the packed row (R173). -/
def sparseAt (keep : List Bool) (els : List FV) (k : Nat) : Option FV :=
  if keep.getD (k / 8) false then els[8 * ((keep.take (k / 8)).filter id).length + k % 8]? else none

/-- An accumulator element as `tacc` reads it, times the scale (R176). -/
def scaledVal (o : EngOp) (acc : Acc) (i j : Nat) : Ext :=
  let w := accGet acc i j
  extMul (if o.a.getLsbD 0 then .fin (decide (int32 w < 0)) (int32 w) else codeVal .f32 w) (codeVal .f32 (o.t.toNat % 2 ^ 32))

/-- The latch of unit `mx` holds the result, where it waits for the engine and no later operation of the thread stands queued (R42). -/
def mxLatch (s s' : State) (c : Nat) (t : BitVec 3) (later : List EngOp) (y : Word) : Prop :=
  rget (thr s c t).y 12#4 = .pending .engine → latchHolds s' c t 12 later y

/-- Words that name e3 (R169, R170, R174, R217). -/
def readsE3 : Instr → Bool
  | .tld _ _ _ _ => true | .tst _ _ _ _ => true | .tcst _ _ _ _ _ _ _ => true | .gmma _ _ _ _ _ _ => true
  | .cpush _ _ => true | .cpushn _ _ => true
  | _ => false

/-- The entry of the copy FIFO that a request takes: the request words, Reserved by the thread (R215, R217). -/
def reservedEntry (s : State) (c : Nat) (t : BitVec 3) (o : EngOp) : FifoEntry :=
  ⟨.reserved t.toNat, 0, (thr s c t).ctx.toNat, (thr s c t).msg.launch, o.a, o.b, o.t, rget o.e 3#3⟩

/-- A cell of die `d` takes part in a wired set whose word is `w` (R310). -/
def takesPart (d : Nat) (w : Word) (c : Nat) : Bool :=
  decide (d * 256 ≤ c) && decide (c < d * 256 + 256) && w.getLsbD (32 + c % 256 / 16) && w.getLsbD (16 + c % 16)

/-- The thread waits on wired set `set`. -/
def waitsFor (x : Thread) (set : BitVec 2) : Prop := ∃ start lim, rget x.y 14#4 = .pending (.hwbar set start lim)

/-- A completion of the set waits to be delivered to the threads of the context at the cell (R312). -/
def comesTo (s : State) (c ctx : Nat) (set : BitVec 2) : Prop := ∃ e ∈ rget (dieAt s (dieOf c)).wiredAt set, c ∈ e.cells ∧ e.ctx = ctx

/-- A thread of the cell waits on the set, and no completion is on its way to it: the cell's flag is raised (R310, R312). -/
def flagUp (s : State) (c : Nat) (set : BitVec 2) : Prop := ∃ t, waitsFor (thr s c t) set ∧ ¬comesTo s c (thr s c t).ctx.toNat set

/-- There is a participant of the set, and each has raised its flag (R312). -/
def setComplete (s : State) (d : Nat) (set : BitVec 2) : Prop :=
  let w := rget (dieAt s d).wired set
  w.getLsbD 63 = true ∧ (∃ c, takesPart d w c = true) ∧ ∀ c, takesPart d w c = true → flagUp s c set

/-- The thread is free and holds nothing (Table 1.3). -/
def Free (s : State) (c : Nat) (t : BitVec 3) : Prop :=
  let x := thr s c t
  x.phase = .idle ∧ x.effects = [] ∧ x.undo = [] ∧ x.consumed = [] ∧ x.pinning = false ∧ x.y = Vector.replicate 16 .untriggered ∧
    ∀ w ∈ (cellAt s c).watch, w.th ≠ t.toNat

/-- A barrier word: its fields in the order of Table 14.2. -/
def barrierWordOf (ctx : Nat) (ph bovf bsat : Bool) (exp gen arv : Nat) (pend : Int) : BitVec 128 :=
  BitVec.ofNat 128 (ctx % 2 ^ 12 * 2 ^ 116 + 2 ^ 115 + (if ph then 2 ^ 114 else 0) + (if bovf then 2 ^ 113 else 0) + (if bsat then 2 ^ 112 else 0)
    + exp % 2 ^ 16 * 2 ^ 96 + gen % 2 ^ 16 * 2 ^ 80 + arv % 2 ^ 32 * 2 ^ 48 + (pend % 2 ^ 32).toNat)

/-- A posted access `r` is lost (R209, R214): it is never acknowledged, and what waits for it waits on; a take that has not printed ends with a
late REFUSED, reason 3. -/
def Lost (s : State) (id : Nat) (r : Req) : State :=
  let t := BitVec.ofNat 3 r.th
  let x := thr s r.cell t
  let s' := modReq s id (fun q => { q with stage := .lost })
  if x.takes = r.take ∧ (x.phase = .irrevocable ∨ x.phase = .settling) then
    trapEntry s' r.cell t ⟨.refused, x.pc, r.seq, reasonCode .unreachable, none, 0, 0⟩
  else s'

/-- The packet `p` for cell `dst` is the next one sent after those of `s` (R261). -/
def sentNext (s : State) (dst : Nat) (p : Packet) : Flight := ⟨s.nextFlight, dst, p, s.cyc.toNat⟩

/-- A packet `p` for cell `dst` is in flight under `id`, and no router on its way discards it for a kill (R343). -/
def InFlight (s : State) (id dst : Nat) (p : Packet) : Prop :=
  (∃ born, findFlight s id = some ⟨id, dst, p, born⟩) ∧ ∀ k ∈ s.kills, sweptCtx p = some k.ctx → dieOf dst ∈ k.routers

/-- A posted access of the thread is unacknowledged (R209). -/
def unacknowledged (s : State) (c : Nat) (t : BitVec 3) : Prop :=
  ∃ q ∈ s.reqs, q.cell = c ∧ q.th = t.toNat ∧ ∃ ks bs w, q.kind = .posted ks bs w

/-- One of them touches a 64-byte line of `ks` (P1, R209). -/
def lineTaken (s : State) (c : Nat) (t : BitVec 3) (ks : List Nat) : Prop :=
  ∃ q ∈ s.reqs, q.cell = c ∧ q.th = t.toNat ∧ ∃ ls bs w, q.kind = .posted ls bs w ∧ ∃ a ∈ ls, ∃ b ∈ ks, a / 64 = b / 64

/-- `s'` is `s` with one more request, of the thread, that asks `kind` and counts in no orc (R190, R209). -/
def SilentRequest (s s' : State) (c : Nat) (t : BitVec 3) (kind : ReqKind) : Prop :=
  ∃ r, s' = { s with reqs := s.reqs ++ [r], nextReq := s.nextReq + 1 } ∧ r.id = s.nextReq ∧ r.cell = c ∧ r.th = t.toNat ∧
    r.ctx = (thr s c t).ctx.toNat ∧ r.kind = kind ∧ r.stage = .sent ∧ r.discarded = false ∧ r.born = s.cyc.toNat

/-- Another take of the cell began to wait for a credit of the end before cycle `n`, and is served first (R235, R241). -/
def creditWaiter (s : State) (c eid n : Nat) : Prop :=
  ∃ x ∈ (cellAt s c).threads.toList, (∃ w, x.waits = some w ∧ w < n) ∧ ∃ e, standsAt x = some e ∧ sendsOn eid e = true

/-- The send end has a credit, and the take that began to wait in cycle `n` is the next to be served. -/
def maySend (s : State) (c : Nat) (e : SendEnd) (n : Nat) : Prop := e.ns - e.ck < e.w ∧ ¬creditWaiter s c e.eid n

/-- The message `m` enters slot `start` of the stage's reel, and its claim is published (R264, R270, Table 12.3). -/
def published (s : State) (d idx lid k : Nat) (start : BitVec 32) (m : Msg) : State :=
  let h := word128At s k
  let img := leBytes 8 m.slate.toNat ++ ((m.payload ++ List.replicate 8 0).take 8).flatMap (fun w : Word => leBytes 8 w.toNat) ++ List.replicate 56 0
  let s1 := write128 (applyWrite s (slotKeys k h start 128) img) k (h.extractLsb' 32 96 ++ (start + 1))
  modStage s1 d idx (fun g => if g.v = true ∧ g.lid.toNat = lid then { g with tags := (start, m.launch) :: g.tags } else g)

/-- Request `id` has its answer (R190). -/
def answeredAs (s : State) (id : Nat) (a : Answer) : State := modReq s id (fun q => { q with stage := .answered a })

/-- The request reaches its home and is served there: it was sent, its packet lives, and each of its pages has a translation (R187, R344). -/
def AtHome (s : State) (id : Nat) (r : Req) : Prop :=
  findReq s id = some r ∧ r.id = id ∧ r.stage = .sent ∧ outlived s r = false ∧ missing s r = none

/-- What the requester's view has of the `n` bytes at `ks`: the bytes that stand at home, or stood there where the load may be early (log entry
120), under the first `neff` held effects (R16, R190). -/
def viewBytes (s : State) (r : Req) (neff : Nat) (tgt : Target) (ks : List Nat) : List Byte :=
  let t := BitVec.ofNat 3 r.th
  overlay ((thr s r.cell t).effects.take neff) (identOf tgt) (some ks) (earlyBytes s r.cell t false r.id ks (readKeys s.mem ks))

/-- An earlier posted access of the request's thread is unacknowledged (R209); with `ls`, on a line of those bytes. -/
def postedFirst (s : State) (r : Req) (ls : Option (List Nat)) : Prop :=
  ∃ q ∈ s.reqs, q.id < r.id ∧ q.cell = r.cell ∧ q.th = r.th ∧ ∃ ks bs w, q.kind = .posted ks bs w ∧
    ∀ l, ls = some l → ∃ a ∈ ks, ∃ b ∈ l, a / 64 = b / 64

/-- `h'` is the header `h` with index R + `d` released (R268). -/
def Releases (h h' : BitVec 128) (d : Nat) : Prop :=
  let m := h.extractLsb' 112 16 ||| BitVec.ofNat 16 (2 ^ d)
  ∃ n, (∀ j, j < n → m.getLsbD j = true) ∧ m.getLsbD n = false ∧
    h' = (m >>> n) ++ h.extractLsb' 64 48 ++ (h.extractLsb' 32 32 + BitVec.ofNat 32 n) ++ h.extractLsb' 0 32

/-- The messages of the notes carry no handle and close nothing. -/
def Plain (s : State) (r : RecvEnd) (l : List Note) : Prop :=
  ∀ n ∈ l, ∀ m, noteSlot s r.home r.eid n = some m → m.msg.lane = none ∧ m.isClose = false

/-- Thread `t` of cell `c` starts a take: every register at its value of Table 4.2. -/
def Starts (s s' : State) (c : Nat) (t : BitVec 3) (ctx cls : Nat) (m : Msg) (o : Origin) : Prop :=
  let e := handlerAt s c ctx cls
  thr s' c t = { Thread.reset with
    m := Vector.ofFn (fun (i : Fin 8) => m.payload.getD i.val 0),
    slate := m.slate,
    pc := BitVec.ofNat 64 (e.toNat % 2 ^ 17),
    bdgt := e.toNat / 2 ^ 33 % 2 ^ 20 * 64,
    ctx := BitVec.ofNat 12 ctx,
    cls := BitVec.ofNat 5 cls,
    msg := m,
    origin := o,
    frame := (thr s c t).frame,
    reqseq := (thr s c t).reqseq,
    takes := (thr s c t).takes + 1,
    past := { Past.reset with mem := some s.mem },
    phase := .revocable }

/-- What a take's start does to memory: every byte of the thread's scratch window, where the context has one, is zero or, of an earlier take of
the same context, as it was (R79, R183; which of them is a free value, log entry 1); nothing else changes. -/
def ScratchFresh (s s' : State) (c : Nat) (t : BitVec 3) (ctx : Nat) : Prop :=
  let b := (posOf s c ctx).scratch
  let lo := locKey c (b.toNat % 2 ^ 17 + 2048 * t.toNat)
  (b.getLsbD 63 = false → s'.mem = s.mem) ∧
  (b.getLsbD 63 = true → ∀ k, (k < lo ∨ lo + 2048 ≤ k → memGet s'.mem k = memGet s.mem k) ∧
    (lo ≤ k → k < lo + 2048 → memGet s'.mem k = 0 ∨ (rget (cellAt s c).scrCtx t = some ctx ∧ memGet s'.mem k = memGet s.mem k)))

/-- The oldest kicked entry of a cell that no request in progress serves: entry `q` with order `o` (R226). -/
def OldestKicked (x : Cell) (q : BitVec 4) (o : Nat) : Prop :=
  (∃ n, (rget x.fifo q).st = .kicked o n) ∧ (∀ j ∈ x.jobs, j.order ≠ o) ∧
    ∀ i o' n, (rget x.fifo i).st = .kicked o' n → (∀ j ∈ x.jobs, j.order ≠ o') → i ≠ q → o < o'

/-- The job leaves the engine, and its FIFO entry is free (R226). -/
def freed (s : State) (c : Nat) (j : CopyJob) : State :=
  modCell s c (fun x =>
    let mine : Bool := match (rget x.fifo j.entry).st with | .kicked o _ => o == j.order | _ => false
    let free : FifoEntry := { FifoEntry.reset with since := s.cyc.toNat + 1 }
    { x with jobs := x.jobs.filter (fun k => k.order != j.order), fifo := if mine then rset x.fifo j.entry free else x.fifo })

/-- Word 0 of a completion record (Table 11.5). -/
def recordWord (j : CopyJob) : Nat := j.w0.toNat % 2 ^ 16 * 2 ^ 48 + j.err % 256 * 2 ^ 32 + j.bytes % 2 ^ 32

/-- Another producer that waits for slots of the reel at `k` began to wait before cycle `n`: a copy request, a print, or a launch's completion
record (R235). -/
def reelWaiter (s : State) (k n : Nat) : Prop :=
  (∃ e ∈ s.cells, ∃ j ∈ e.2.jobs, j.claim = none ∧ jobReel e.1 j = k ∧ ∃ w, j.waits = some w ∧ w < n) ∨
  (∃ e ∈ s.cells, ∃ x ∈ e.2.threads.toList, headReel s e.1 x = some k ∧ ∃ w, x.waits = some w ∧ w < n) ∨
  (∃ l ∈ s.launches, l.claim = none ∧ ∃ w, l.waits = some (w, k) ∧ w < n)

/-- A landing packet that waits for room in the ring at `off` of cell `cell` began to wait before cycle `n` (R235). -/
def ringWaiter (s : State) (cell off n : Nat) : Prop :=
  ∃ e ∈ s.cells, ∃ j ∈ e.2.jobs, j.packets ≠ [] ∧ remPlace (j.w2.toNat % 2 ^ 56) 16 = .ok (.away (.loc cell off)) ∧ ∃ w, j.waits = some w ∧ w < n

/-- The done record of a launch enters its reel at header key `k` (R286). -/
def recorded (s : State) (k : Nat) (l : Launch) (status : Nat) : State :=
  let h := word128At s k
  let s1 := applyWrite (write128 s k (withC h (reelC h + 1))) (slotKeys k h (reelC h) 16)
    (leBytes 8 (descTag l.desc * 2 ^ 48 + status * 2 ^ 32) ++ leBytes 8 s.cyc.toNat)
  write128 s1 k (withW (word128At s1 k) (reelC h + 1))

/-- The launch ends in `s`: its done record where the reel it names can be written whole, its host record, and it is gone (R286, R354). -/
def endState (s : State) (l : Launch) (status : Nat) : State :=
  let s1 := match doneReel s l with
    | none => s
    | some k => if doneBad s l = true then s else recorded s k l status
  { hostRecord s1 l (descTag l.desc) status with launches := (hostRecord s1 l (descTag l.desc) status).launches.filter (fun k => k.id != l.id) }

/-- A done reel that is named and usable has a free slot, no claim of it is open, and nobody has waited longer for a slot (R235, R264). -/
def canEnd (s : State) (l : Launch) : Prop :=
  ∀ k, doneReel s l = some k → doneBad s l = false →
    reelRoom (word128At s k) 1 = true ∧ reelW (word128At s k) = reelC (word128At s k) ∧ ¬reelWaiter s k ((l.waits.map (·.1)).getD s.cyc.toNat)

/-- Tiles of dimension `j`: the size over the tile, rounded up (R89). -/
def tilesOf (d : List Byte) (j : Nat) : Nat := (descSize d j + descTile d j - 1) / descTile d j

/-- Tiles of the dimensions below `j`. -/
def tilesBelow (d : List Byte) (j : Nat) : Nat := ((List.range j).map (tilesOf d)).foldl (· * ·) 1

/-- The origin in dimension `j` of cell number `i` of the first stage (R89). -/
def originOf (d : List Byte) (i j : Nat) : Nat :=
  if tilesBelow d (descDims d) ≤ i then 0
  else if j < descDims d then i / tilesBelow d j % tilesOf d j * descTile d j else 0

/-- Its extent. -/
def extentOf (d : List Byte) (i j : Nat) : Nat :=
  if tilesBelow d (descDims d) ≤ i then 0
  else if j < descDims d then min (descTile d j) (descSize d j - originOf d i j) else 1

/-- Its slices: n, the first, and how many (Table 4.12). -/
def sliceWord (d : List Byte) (c i : Nat) : Word :=
  BitVec.ofNat 64 (descN d * 2 ^ 32 + i * 2 ^ descN d / c * 2 ^ 16 + ((i + 1) * 2 ^ descN d / c - i * 2 ^ descN d / c))

/-- Cells that the launch needs on a die. -/
def cellsNeeded (l : Launch) : Nat := ((stageRecs l.desc).map (·.init)).sum

/-- The ring of a partition's submissions: its log2 size where the register names one (R352). -/
def ringOf (w : Word) : Option Nat := if 4 ≤ w.toNat % 16 ∧ w.toNat % 16 ≤ 12 then some (w.toNat % 16) else none

/-- The doorbell value `t` is ignored (R352, R353). -/
def doorbellIgnored (p : Partition) (t : BitVec 32) : Prop :=
  match ringOf p.sqk with
  | none => True
  | some k => p.ctl.getLsbD 63 = false ∨ p.ctl.getLsbD 61 = true ∨ 2 ^ k < (p.sqtail - p.sqhead).toNat + (t - p.sqtail).toNat

/-- Interrupt of a submission entry's word 0. -/
def irqOf (w : Word) : Option Nat := if w.getLsbD 63 then some (w.toNat / 2 ^ 48 % 2 ^ 11) else none

/-- A completion record's word 0, less its phase (R354). -/
def hostRecordWord (tag status : Nat) (index : BitVec 32) (ctx : Nat) : Word :=
  BitVec.ofNat 64 (tag * 2 ^ 48 + status * 2 ^ 32 + index.toNat % 2 ^ 16 * 2 ^ 16 + ctx)

/-- The context lives, and partition `f` owns it. -/
def owns (s : State) (f : BitVec 4) (ctx : Nat) : Prop := (secWord s ctx).getLsbD 63 = true ∧ partOf s ctx = f

/-- Table 16.6: a doorbell was written in this cycle. -/
def rungNow (s : State) (p : Partition) : Bool :=
  match p.rang with
  | some (n, _) => n == s.cyc
  | none => false

/-- The submission ring's tail as it stood before the doorbells of this cycle. -/
def tailAtStart (s : State) (p : Partition) : BitVec 32 :=
  match p.rang with
  | some (n, t) => if n = s.cyc then t else p.sqtail
  | none => p.sqtail

/-- Cell `n` of the die is in four valid groups other than `i`: a fifth would be refused (R292). -/
def inFourGroups (s : State) (d i n : Nat) : Prop :=
  4 ≤ ((dieAt s d).groups.filter (fun e => e.1 != i && e.2.getLsbD 63 && e.2.getLsbD (128 + n))).length

/-- A participant of the wired set waits, and no completion comes to it (R310). -/
def setBusy (s : State) (d : Nat) (set : BitVec 2) : Prop :=
  ∃ c, takesPart d (rget (dieAt s d).wired set) c = true ∧ flagUp s c set

/-- A gate is armed, and the write `w` takes it from its context (R315). -/
def gateTaken (x : Gate) (w : Word) : Prop :=
  x.word.getLsbD 62 = true ∧ (w.getLsbD 63 = false ∨ w.toNat / 2 ^ 48 % 2 ^ 12 ≠ x.word.toNat / 2 ^ 48 % 2 ^ 12)

/-- The cell's tables of local memory changed: no scratch window is known to hold its own context's bytes (R79, R183). -/
def unscratched (s : State) (c : Nat) : State := modCell s c (fun x => { x with scrCtx := Vector.replicate 8 none })

/-- The partition's control word becomes `c`; vectors above its nvec are pending no longer (R355, Table 16.6). -/
def withControl (p : Partition) (c : Word) : Partition :=
  { p with ctl := c, pend := p.pend.filter (fun v => decide (v ≤ c.toNat / 2 ^ 32 % 2 ^ 11)) }

/-- An atomic to a reduction window has not been acknowledged, or is held and has been let through (R199). -/
def reductionOpen (s : State) : Prop :=
  (∃ r ∈ s.reqs, ∃ ks bs what, r.kind = .posted ks bs (some what)) ∨
    ∃ e ∈ s.cells, ∃ x ∈ e.2.threads.toList, ∃ tgt n what ks v insn, Effect.rmw tgt n what (some ks) true v insn ∈ x.effects

/-- A word of a 16-B entry replaced: the high one or the low one. -/
def withHalf (e : BitVec 128) (hi : Bool) (w : Word) : BitVec 128 := if hi then w ++ e.extractLsb' 0 64 else e.extractLsb' 64 64 ++ w

/-- What becomes of `s` where step 3 of bring-up is over: Nivar has set the domain register and enabled a partition. Its configuration is extended,
and nvr is 1 (R384, R386; which writes end the step is the model's reading, log entry 71). -/
def step3Ended (s : State) : State :=
  match s.step3 with
  | none => s
  | some d => if s.domainSet = true ∧ ∃ p ∈ s.parts.toList, p.ctl.getLsbD 63 = true then
      { s with measure := rset s.measure 3 (measureExtend (rget s.measure 3) d), cap := s.cap ||| 0x4000000000000000#64, step3 := none } else s

/-- What a print performs next, program order with sends last (R20), ends with a kill of its context (Tables 1.5, 10.5, 12.16): a send that waits
for a credit, a reel slot or its turn to publish a claim, a marker of system scope, an `stl.sys`, what waits for an access that was declared lost,
or nothing more than the end of its lane. -/
def endsWithKill (s : State) (c : Nat) (t : BitVec 3) : Prop :=
  let es := (thr s c t).effects
  ∀ e, (es.filter (fun e => !isSend e) ++ es.filter isSend).head? = some e →
    (e = .marker ∨ (∃ ps n op ks i, e = .store ps n op ks true i) ∨
      (∃ k cls sub pl n, e = .send k cls sub pl n ∧ ((∃ sid, k = .chan sid) ∨ (∃ a b d g, k = .move a b d g) ∨ (∃ a b, k = .closeSend a b) ∨
        (∃ a b d g, k = .gate a b d g) ∨ (∃ i l, k = .stage i l) ∨ ∃ i l a b, k = .claimed i l a b)) ∨
      ∃ r ∈ s.reqs, r.cell = c ∧ r.th = t.toNat ∧ r.stage = .lost)

/-- A print of the context that a kill waits for. -/
def printStays (s : State) (c ctx : Nat) (t : BitVec 3) : Prop :=
  (thr s c t).phase = .printing ∧ (thr s c t).ctx.toNat = ctx ∧ ¬endsWithKill s c t

/-- No print of the context at the cell can perform more before the kill: each waited already, and none for room for a report (R334, Table 1.5). -/
def printsWait (s : State) (c ctx : Nat) : Prop :=
  ∀ t, (thr s c t).ctx.toNat = ctx → reportWaits s c t = false ∧ ((thr s c t).phase = .printing → (thr s c t).waits ≠ none)

/-- The queued completion messages of the context at the cell are discarded (R345). -/
def unqueued (s : State) (c ctx : Nat) : State :=
  modPos s c ctx (fun p => { p with cq := [], cqHeld := false, cqSince := none, cqReported := none })

/-- Bit `i` of the capability register (Table 18.2). -/
def capIs (s : State) (i : Nat) : Bool := s.cap.getLsbD i

/-- The die's clock in eighths of 3.0 GHz (Table 18.2). -/
def clkField (s : State) (d : Nat) : Nat := s.cap.toNat / 2 ^ (4 * d) % 16

/-- The mailbox waits for command `n` to be served, with its arguments well formed (R366, R367). -/
def commanded (s : State) (n : Nat) : Prop := s.mailbox.go = true ∧ s.mailbox.cmd.toNat = n ∧ commandOk s = true

/-- A live context, a range or a sweep names the slot (Table 17.2, ERASE). -/
def named (s : State) (i : BitVec 6) : Prop :=
  (∃ e ∈ s.secWords, e.2.getLsbD 63 = true ∧ e.2.getLsbD 61 = true ∧ e.2.toNat / 2 ^ 32 % 64 = i.toNat) ∨
    ∃ j, (rget s.ranges j).v = true ∧ ((rget s.ranges j).slot = i ∨ (rget s.ranges j).sw = true ∧ (rget s.ranges j).nslot = i)

/-- The slot holds a key of another tenant (R375). -/
def foreign (s : State) (tenant : BitVec 32) (i : BitVec 6) : Prop := (rget s.keys i).v = true ∧ (rget s.keys i).tenant ≠ tenant

/-- Some sweep is active. -/
def someSweep (s : State) : Prop := ∃ j, (rget s.ranges j).v = true ∧ (rget s.ranges j).sw = true

end Sys2Proof.Claims

open Sys2Proof Sys2Proof.Machine Sys2Proof.Claims

/-! ## Decoding, stepping, reset -/

/-- Tables 3.2 to 3.7, 3.21, 6.2, 6.6, 12.5, 14.3: words that the spec writes out, and what they decode to. -/
def Obligations.DecodesSpecWords : Prop :=
  decodeTableWord 32 0x00002A01 = some (.fin .always (.imm 0)) ∧
  decodeTableWord 32 0x10002A01 = some (.fin (.ifSet 1) (.imm 0)) ∧
  decodeTableWord 32 0x00000111 = some (.add .ia .always (.m 2)) ∧
  decodeTableWord 32 0x0162D821 = some (.fcmp .always (.g 4) .lt 3) ∧
  decodeTableWord 32 0x01299829 = some (.fcvt .always (.g 5) .f32 .e4m3 false) ∧
  decodeTableWord 32 0x10216201 = some (.lbrk (.ifSet 1) (.imm 0) 1) ∧
  decodeTableWord 32 0x00016819 = some (.gcr .always (.g 3)) ∧
  decodeTableWord 32 0x0020B821 = some (.bwait .always (.g 4) 1) ∧
  decodeTableWord 32 0x00003821 = some (.binit .always (.g 4)) ∧
  decodeTableWord 32 0x00026829 = some (.lnch .always (.g 5)) ∧
  decodeTableWord 32 0x00022821 = some (.hset .always (.g 4)) ∧
  decodeTableWord 16 0 = some (.plainMove (.g 0) (.g 0))

/-- R51, R63, Tables 3.2 to 3.20: decoding what a well-formed instruction encodes to gives it back, and leaves the halfwords after it. -/
def Obligations.DecodeOfEncode : Prop :=
  ∀ (i : Instr) (rest : List (BitVec 16)), i.wf = true → encode i ≠ [] → decode (encode i ++ rest) = .ok (i, rest)

/-- R51, R63: only the words of well-formed instructions decode, each to its one instruction; every other encoding is refused. -/
def Obligations.EncodeOfDecode : Prop :=
  ∀ (l rest : List (BitVec 16)) (i : Instr), decode l = .ok (i, rest) → i.wf = true ∧ l = encode i ++ rest

/-- R12, R182, R295, R297: a step is the next event of the outside, else of the device, else the decoded word of one thread of the next cell of
the cycle, else what ends with the cycle, else the clock. The order is the model's choice: what the outside does stands in the agenda and goes
first (log entry 10), events go before the words of a cycle, timeouts, budgets and the returns of `mwait` after them (log entry 6), and a word
that waits answers the state unchanged, so that its thread has no outcome (log entry 9). What a waiting send counts from (log entry 122) and what
loads may read early (log entry 120) are the model's own. A word's fault gives way to the timeout of an earlier
`hwbar` and to BUDGET where its code is lower (R327). -/
def Obligations.StepRunsTheDecodedInstruction : Prop :=
  (∀ s i r, s.agenda = i :: r → step s = exec i { s with agenda := r }) ∧
  (∀ s i, s.agenda = [] → nextEvent s = some i → step s = exec i s) ∧
  (∀ s, s.agenda = [] → nextEvent s = none → s.todo = [] → (∀ i, lateEvent s = some i → step s = exec i s) ∧
    (lateEvent s = none → step s = .next (clock s) ∧ (clock s).cyc = s.cyc + 1)) ∧
  (∀ s c r, s.agenda = [] → nextEvent s = none → s.todo = c :: r → let s0 := markWants (joinWaits { s with todo := r } c) c
    ((∀ t, beginsWait { s with todo := r } c t = false) → (∀ t, (thr s c t).phase ≠ .irrevocable) → s0 = { s with todo := r }) ∧
    (∀ t, (thr s c t).phase = .irrevocable → (thr s0 c t).wants = wantedSend (joinWaits { s with todo := r } c) c t ∧
      ((thr s0 c t).wants ≠ none → (thr s0 c t).waits = some ((thr s c t).waits.getD s.cyc.toNat))) ∧
    ((∀ t, tryThread s0 c t = none) → step s = .next s0) ∧
    (∀ t, tryThread s0 c t ≠ none → ∃ u o, tryThread s0 c u = some o ∧
      ((∀ v, tryThread s0 c v ≠ none → v = t) → u = t) ∧
      (∀ s', o = .next s' → step s = .next (afterIssue s0 s' c u)) ∧ ((∀ s', o ≠ .next s') → step s = o))) ∧
  (∀ s c t, let x := thr s c t
    let p := posOf s c x.ctx.toNat
    let pc := x.pc.toNat
    let hs := halfAt s c pc :: (if localOk p pc 4 false true then [halfAt s c (pc + 2)] else [])
    let zeros := pc % 4 = 0 ∧ hs = [0, 0]
    let s1 := { s with cur := (c, t) }
    (canIssue x = false → tryThread s c t = none) ∧
    let noFetch : Prop := outranked s (faultWord s1 c t .perm) c t = false → tryThread s c t = some (.next (faultWord s1 c t .perm))
    (canIssue x = true → localOk p pc 2 false true = false → noFetch) ∧
    (canIssue x = true → localOk p pc 2 false true = true →
      (∀ i rest s', ¬zeros → decode hs = .ok (i, rest) → exec i s1 = .next s' →
        (hasIssued s s' c t = true → outranked s s' c t = false → tryThread s c t = some (.next s') ∧
          let s2 := modThr s' c t (fun y => if y.wants = none then y else { y with wants := none, waits := none })
          ∃ p, (x.past.mem = none → p = (thr s2 c t).past) ∧ afterIssue s s' c t =
            perf (modCell (modThr s2 c t (fun y => { y with past := p })) c (fun y => { y with rr := t, issuedAt := s.cyc.toNat + 1 })) c x.ctx.toNat 0x01 1) ∧
        (hasIssued s s' c t = false → tryThread s c t = none)) ∧
      (decode hs = .error .short → noFetch) ∧
      (zeros ∨ (∃ e, e ≠ .short ∧ decode hs = .error e) → ∀ s', exec .illegalWord s1 = .next s' → outranked s s' c t = false →
        tryThread s c t = some (.next s'))))

/-- Reset (Tables 4.3, 4.14, 13.5, 16.1, 16.2, 17.1, 17.4, 18.2): what each register holds. That every unlisted byte of memory reads 0 is the
model's choice (log entry 2); the memory has its canonical form. -/
def Obligations.ResetValues : Prop :=
  let s := State.reset
  s.cyc = 0 ∧ s.cap = 0 ∧ (∀ k, memGet s.mem k = 0) ∧ Memory.wf s.mem = true ∧
  (∀ c t, let x := thr s c t
    x.phase = .idle ∧ (∀ n, rget x.g n = 0) ∧ (∀ n, rget x.p n = (n == 0#3)) ∧ (∀ n, rget x.e n = 0) ∧ (∀ n, rget x.h n = 0) ∧
      (∀ n, rget x.m n = 0) ∧ (∀ n, rget x.la n = 0 ∧ rget x.lb n = 0 ∧ rget x.y n = .untriggered) ∧ x.orc = 0 ∧ x.reqseq = 0) ∧
  (∀ c, (cellAt s c).slots = 0 ∧ ∀ p, (rget (cellAt s c).pos p).ctx = none) ∧
  (∀ c ctx cls, bound s c ctx cls = false) ∧
  (∀ d, (dieAt s d).balancer = 0x8000001000000000#64 ∧ ∀ i, (stageAt s d i).v = false) ∧
  (∀ f, part s f = Partition.reset ∧ (part s f).ctl = 0 ∧ (part s f).sqk = 0 ∧ (part s f).cqk = 0) ∧
  s.mailbox.go = false ∧ s.mailbox.done = false ∧ s.mailbox.ievt = 0 ∧
  (∀ i, (rget s.keys i).v = false ∧ (rget s.ranges i).v = false) ∧ (∀ i, rget s.measure i = 0) ∧ (∀ ctx, secWord s ctx = 0) ∧ s.asleep = none

/-- The model's memory keeps its canonical form: whatever a step does, addresses stay strictly rising and no entry holds the byte that an unlisted
address reads as. -/
def Obligations.StepKeepsMemoryCanonical : Prop :=
  ∀ s s' : State, Memory.wf s.mem = true → step s = .next s' → Memory.wf s'.mem = true

/-! ## Scalar words -/

/-- R128, R129, R130: the integer, multiply, divide, shift and bit-field operations, on every operand. -/
def Obligations.IntegerResults : Prop :=
  (∀ s i u grd src f v r, integerOp i = some (u, grd, src, f) → Performs s grd src v r → unitBusy (me s) u = false →
    exec i s = .next (modThr r s.cur.1 s.cur.2 (fun x => resultUnderWay x u (f (rget x.la u) (rget x.lb u) v)))) ∧
  (∀ s grd src v r, Performs s grd src v r → unitBusy (me s) 3 = false →
    (∃ y, IsExtract (rget (me s).la 3#4) v y ∧
      exec (.ext grd src) s = .next (modThr r s.cur.1 s.cur.2 (fun x => resultUnderWay x 3 y))) ∧
    (∃ y, IsInsert (rget (me s).la 3#4) (rget (me s).lb 3#4) v y ∧
      exec (.ins grd src) s = .next (modThr r s.cur.1 s.cur.2 (fun x => resultUnderWay x 3 y))))

/-- R132: the fat-pointer operations; `aidx` traps ALIGN where the distance is no whole number of bytes, and steps otherwise. -/
def Obligations.PointerResults : Prop :=
  (∀ s i grd src f v r, pointerOp i = some (grd, src, f) → Performs s grd src v r → unitBusy (me s) 5 = false →
    exec i s = .next (modThr r s.cur.1 s.cur.2 (fun x => resultUnderWay x 5 (f (rget x.la 5#4) v)))) ∧
  (∀ s grd src v r, Performs s grd src v r → unitBusy (me s) 5 = false →
    let a := rget (me s).la 5#4
    let bits : Int := v.toInt * tableWidth (a.extractLsb' 59 5).toNat
    (bits % 8 ≠ 0 → exec (.aidx grd src) s = .next (faultWord r s.cur.1 s.cur.2 .align)) ∧
    (bits % 8 = 0 → exec (.aidx grd src) s = .next (modThr r s.cur.1 s.cur.2 (fun x =>
      resultUnderWay x 5 (a.extractLsb' 56 8 ++ BitVec.ofInt 56 (a.toNat + bits / 8))))))

/-- R131: a compare writes its bit to the named predicate, p0 excepted, and to Y. -/
def Obligations.CompareResults : Prop :=
  ∀ s i grd src p f v r, compareOp i = some (grd, src, p, f) → Performs s grd src v r → unitBusy (me s) 4 = false →
    exec i s = .next (modThr r s.cur.1 s.cur.2 (fun x =>
      let b := f x (rget x.la 4#4) v
      resultUnderWay { x with p := if p = 0 then x.p else rset x.p p b } 4 (if b then 1 else 0)))

/-- R135, R136: `fmin`, `fmax`, `fabs`, `fneg` and `fcmp` by their operands' values. -/
def Obligations.FloatMinMaxCompare : Prop :=
  ∀ s grd src v r, Performs s grd src v r → unitBusy (me s) 6 = false →
    let a := low32 (rget (me s).la 6#4)
    let t := low32 v
    exec (.fmin grd src) s = .next (modThr r s.cur.1 s.cur.2 (fun x => resultUnderWay x 6 (BitVec.ofNat 64 (extreme false a t)))) ∧
    exec (.fmax grd src) s = .next (modThr r s.cur.1 s.cur.2 (fun x => resultUnderWay x 6 (BitVec.ofNat 64 (extreme true a t)))) ∧
    exec (.fabs grd src) s = .next (modThr r s.cur.1 s.cur.2 (fun x => resultUnderWay x 6 (BitVec.ofNat 64 (t % 2 ^ 31)))) ∧
    exec (.fneg grd src) s = .next (modThr r s.cur.1 s.cur.2 (fun x =>
      resultUnderWay x 6 (BitVec.ofNat 64 (if t < 2 ^ 31 then t + 2 ^ 31 else t - 2 ^ 31)))) ∧
    (∀ c p, exec (.fcmp grd src c p) s = .next (modThr r s.cur.1 s.cur.2 (fun x =>
      let b := fcmpHolds c a t
      resultUnderWay { x with
        fpst := if (c = .lt ∨ c = .le) ∧ (f32Nan a || f32Nan t) then x.fpst ||| 16 else x.fpst
        p := if p = 0 then x.p else rset x.p p b } 6 (if b then 1 else 0))))

/-- R134: every rounded FP32 operation gives its value in Y and sets its flags in fpst (the values of all seven operations: the next statement, FloatSumsAndSpecialCases). -/
def Obligations.FloatArithmeticCompletes : Prop :=
  ∀ s i grd src f v r, floatOp i = some (grd, src, f) → Performs s grd src v r → unitBusy (me s) 6 = false →
    exec i s = .next (modThr r s.cur.1 s.cur.2 (fun x =>
      let y := f (low32 (rget x.la 6#4)) (low32 (rget x.lb 6#4)) (low32 v)
      resultUnderWay { x with fpst := x.fpst ||| BitVec.ofNat 64 (flagBits y.2) } 6 (BitVec.ofNat 64 y.1)))

/-- R110, R133, R134: a sum, difference, product, quotient, reciprocal or fused product of finite operands is its exact value rounded once in
its mode, and so is the square root of one that is not negative: the nearest value, or the one on the mode's side, with the sign of the exact
value. nx says whether it is exact; uf, whether it is inexact and tiny after rounding; a value that overflows gives the infinity or the largest finite
value, as its mode rounds, with of and nx. And the invalid operations, the divisions by zero, NaN operands, signed zeros,
and every operation on an infinity. The model's choice: a sum
of two zeros of one sign is an exact zero sum too (log entry 98). -/
def Obligations.FloatSumsAndSpecialCases : Prop :=
  ((∀ i rnd f op dom a b t, exactOp i = some (rnd, f, op, dom) → f32Finite a → f32Finite b → f32Finite t → dom (f32Val t) →
    let y := f a b t
    let x := op (f32Val a) (f32Val b) (f32Val t)
    (¬overflows rnd x → f32Finite y.1 ∧ IsRounded rnd x y.1 ∧ (x < 0 → 2 ^ 31 ≤ y.1) ∧ (0 < x → y.1 < 2 ^ 31) ∧
      (y.2.nx = true ↔ f32Val y.1 ≠ x) ∧ (y.2.uf = true ↔ tinyRounded rnd x ∧ f32Val y.1 ≠ x) ∧
      y.2.nv = false ∧ y.2.dz = false ∧ y.2.ov = false) ∧
    (overflows rnd x → y = (overflowCode rnd (decide (x < 0)), ⟨false, false, true, false, true⟩))) ∧
  (∀ rnd a t, f32Finite a → f32Finite t →
    (mulFp specF32 (rmodeOf rnd) a t).1 / 2 ^ 31 = (a / 2 ^ 31 + t / 2 ^ 31) % 2 ∧
    (f32Val t ≠ 0 → (divFp specF32 (rmodeOf rnd) a t).1 / 2 ^ 31 = (a / 2 ^ 31 + t / 2 ^ 31) % 2)) ∧
  (∀ rnd t, f32Finite t → 0 ≤ f32Val t →
    let y := sqrtFp specF32 (rmodeOf rnd) t
    f32Finite y.1 ∧ IsRoot rnd (f32Val t) y.1 ∧ (0 < f32Val t → y.1 < 2 ^ 31) ∧ (y.2.nx = true ↔ f32Val y.1 ^ 2 ≠ f32Val t) ∧
      y.2.nv = false ∧ y.2.dz = false ∧ y.2.ov = false ∧ y.2.uf = false)) ∧
  ((∀ m : RMode,
    let invalid : Nat × FFlags := (0x7FC00000, ⟨true, false, false, false, false⟩)
    let inf : Bool → Nat := fun n => if n then 0xFF800000 else 0x7F800000
    let zero : Bool → Nat := fun n => if n then 0x80000000 else 0
    let neg : Nat → Bool := fun a => decide (2 ^ 31 ≤ a)
    (∀ a t, a < 2 ^ 32 → t < 2 ^ 32 → f32Nan a || f32Nan t →
      addFp specF32 m a t = (0x7FC00000, FFlags.none) ∧ subFp specF32 m a t = (0x7FC00000, FFlags.none) ∧
      mulFp specF32 m a t = (0x7FC00000, FFlags.none) ∧ divFp specF32 m a t = (0x7FC00000, FFlags.none) ∧
      (∀ c, fmaFp specF32 m a t c = (0x7FC00000, FFlags.none))) ∧
    (∀ t, t < 2 ^ 32 → f32Nan t → sqrtFp specF32 m t = (0x7FC00000, FFlags.none) ∧ rcpFp specF32 m t = (0x7FC00000, FFlags.none)) ∧
    (∀ p q c, fmaFp specF32 m (zero p) (inf q) c = invalid ∧ fmaFp specF32 m (inf q) (zero p) c = invalid) ∧
    (∀ a b t, a < 2 ^ 32 → b < 2 ^ 32 → t < 2 ^ 32 → f32Nan a = false → f32Nan b = false → f32Nan t = true →
      (∀ p q, ¬(a = zero p ∧ b = inf q) ∧ ¬(a = inf q ∧ b = zero p)) → fmaFp specF32 m a b t = (0x7FC00000, FFlags.none)) ∧
    (∀ p x, f32Finite x →
      addFp specF32 m (inf p) x = (inf p, FFlags.none) ∧ addFp specF32 m x (inf p) = (inf p, FFlags.none) ∧
      subFp specF32 m (inf p) x = (inf p, FFlags.none) ∧ subFp specF32 m x (inf p) = (inf (!p), FFlags.none) ∧
      divFp specF32 m (inf p) x = (inf (p != neg x), FFlags.none) ∧ divFp specF32 m x (inf p) = (zero (p != neg x), FFlags.none) ∧
      (f32Val x ≠ 0 →
        mulFp specF32 m (inf p) x = (inf (p != neg x), FFlags.none) ∧ mulFp specF32 m x (inf p) = (inf (p != neg x), FFlags.none))) ∧
    (∀ p q,
      addFp specF32 m (inf p) (inf q) = (if p = q then (inf p, FFlags.none) else invalid) ∧
      subFp specF32 m (inf p) (inf q) = (if p = q then invalid else (inf p, FFlags.none)) ∧
      mulFp specF32 m (inf p) (inf q) = (inf (p != q), FFlags.none) ∧ divFp specF32 m (inf p) (inf q) = invalid ∧
      mulFp specF32 m (zero p) (inf q) = invalid ∧ mulFp specF32 m (inf q) (zero p) = invalid ∧ divFp specF32 m (zero p) (zero q) = invalid) ∧
    (∀ p x t, (f32Finite x ∧ f32Val x ≠ 0) ∨ x = inf (neg x) → t < 2 ^ 32 → f32Nan t = false →
      let y := if t = inf (!(p != neg x)) then invalid else (inf (p != neg x), FFlags.none)
      fmaFp specF32 m (inf p) x t = y ∧ fmaFp specF32 m x (inf p) t = y) ∧
    (∀ a b p, f32Finite a → f32Finite b → fmaFp specF32 m a b (inf p) = (inf p, FFlags.none)) ∧
    (∀ t p, f32Finite t → f32Val t ≠ 0 → divFp specF32 m t (zero p) = (inf (neg t != p), ⟨false, true, false, false, false⟩)) ∧
    (∀ p, rcpFp specF32 m (zero p) = (inf p, ⟨false, true, false, false, false⟩) ∧ rcpFp specF32 m (inf p) = (zero p, FFlags.none) ∧
      sqrtFp specF32 m (zero p) = (zero p, FFlags.none)) ∧
    (∀ t, 2 ^ 31 < t → t ≤ 0xFF800000 → sqrtFp specF32 m t = invalid) ∧
    sqrtFp specF32 m (inf false) = (inf false, FFlags.none) ∧
    addFp specF32 m 0x80000000 0x80000000 = (0x80000000, FFlags.none) ∧
    addFp specF32 m 0 0 = (if m = .rdn then 0x80000000 else 0, FFlags.none) ∧
    subFp specF32 m 0 0x80000000 = (if m = .rdn then 0x80000000 else 0, FFlags.none) ∧
    fmaFp specF32 m 0 0x3F800000 0 = (if m = .rdn then 0x80000000 else 0, FFlags.none) ∧
    addFp specF32 m 0x3F800000 0xBF800000 = (if m = .rdn then 0x80000000 else 0, FFlags.none)))

/-- R110, R111, R112, R137: `fcvt` writes the converted value of the low bits of T, extended as its format says, and its flags. Between integer
formats the value is kept or saturated, with nv where it is saturated. A finite source becomes the nearest code of a floating-point format
with the source's sign, nx where it is not exact; where it rounds above the largest finite value it becomes that value, or under `.nan` the
infinity or the NaN, with of and nx. An infinity stays one for FP32 and, under `.nan`, where the format has one, with no flag; else it becomes
the largest finite value, or NaN, with of and nx. A NaN becomes the canonical NaN, or +0 with nv. To an integer, a finite source becomes the
nearest integer or the bound of the range with nv, an infinity the bound with nv, and a NaN 0 with nv. (A format without NaN takes no `.nan`:
R111. No conversion sets uf: the model's choice, log entry 100.) -/
def Obligations.ConversionResults : Prop :=
  (∀ s grd src sf df nan v r, Performs s grd src v r → unitBusy (me s) 6 = false →
    exec (.fcvt grd src sf df nan) s = .next (modThr r s.cur.1 s.cur.2 (fun x =>
      let y := convert df .rne nan (decodeElem sf v.toNat)
      resultUnderWay { x with fpst := x.fpst ||| BitVec.ofNat 64 (flagBits (fcvtFlags df y)) } 6 (fcvtY df y)))) ∧
  (∀ sf df nan lo hi w sg lo' hi' w' sg' v, intRange sf = some (lo, hi, w, sg) → intRange df = some (lo', hi', w', sg') →
    let i := lowInt w sg v
    let y := convert df .rne nan (decodeElem sf v.toNat)
    fcvtY df y = BitVec.ofInt 64 (max lo' (min hi' i)) ∧
      fcvtFlags df y = ⟨decide (i < lo') || decide (hi' < i), false, false, false, false⟩) ∧
  (∀ sf df nan v f, floatShape df = some f → (nan = true → f.nan.isSome = true) →
    let y := convert df .rne nan (decodeElem sf v.toNat)
    let code : Bool → Nat → Word := fun neg b => BitVec.ofNat 64 ((if neg then 2 ^ signAt f else 0) + b)
    (∀ neg x, sourceValue sf v = some (neg, x) →
      (¬exceeds f x → ∃ b, fcvtY df y = code neg b ∧ b < 2 ^ signAt f ∧ IsNearest f |x| b ∧
        fcvtFlags df y = ⟨false, false, false, false, decide (shapeVal f b ≠ |x|)⟩) ∧
      (exceeds f x → fcvtFlags df y = ⟨false, false, true, false, true⟩ ∧
        fcvtY df y = if nan = false then code neg f.top else if f.inf = true then code neg (f.top + 1) else code false (f.nan.getD 0))) ∧
    (∀ neg, sourceInf sf v = some neg →
      (df = .f32 ∨ (nan = true ∧ f.inf = true) → fcvtY df y = code neg (f.top + 1) ∧ fcvtFlags df y = FFlags.none) ∧
      (df ≠ .f32 → nan = true → f.inf = false →
        fcvtY df y = code false (f.nan.getD 0) ∧ fcvtFlags df y = ⟨false, false, true, false, true⟩) ∧
      (df ≠ .f32 → nan = false → fcvtY df y = code neg f.top ∧ fcvtFlags df y = ⟨false, false, true, false, true⟩)) ∧
    (sourceNan sf v →
      (∀ n, f.nan = some n → fcvtY df y = code false n ∧ fcvtFlags df y = FFlags.none) ∧
      (f.nan = none → fcvtY df y = 0 ∧ fcvtFlags df y = ⟨true, false, false, false, false⟩))) ∧
  (∀ sf df nan v f lo hi w sg, floatShape sf = some f → intRange df = some (lo, hi, w, sg) →
    let y := convert df .rne nan (decodeElem sf v.toNat)
    (∀ neg x, sourceValue sf v = some (neg, x) → ∃ i, IsNearestInt x i ∧ fcvtY df y = BitVec.ofInt 64 (max lo (min hi i)) ∧
      fcvtFlags df y = ⟨decide (i < lo) || decide (hi < i), false, false, false,
        decide (lo ≤ i) && decide (i ≤ hi) && decide ((i : ℚ) ≠ x)⟩) ∧
    (∀ neg, sourceInf sf v = some neg →
      fcvtY df y = BitVec.ofInt 64 (if neg then lo else hi) ∧ fcvtFlags df y = ⟨true, false, false, false, false⟩) ∧
    (sourceNan sf v → fcvtY df y = 0 ∧ fcvtFlags df y = ⟨true, false, false, false, false⟩))

/-- R38, R41, R42: what a source socket reads. A `.y` not triggered in the take reads a free value of Config (log entry 1), and a not-ready
one holds the word. -/
def Obligations.SourceSockets : Prop :=
  ∀ s c t,
    (∀ n, readSrc s c t (.g n) = some (if n = 0 then 0 else rget (thr s c t).g n, s)) ∧
    (∀ n, readSrc s c t (.m n) = some (rget (thr s c t).m n, s)) ∧
    (∀ n, readSrc s c t (.e n) = if n = 3 ∧ e3Busy s c t = true then none else some (rget (thr s c t).e n, s)) ∧
    (∀ v, readSrc s c t (.imm v) = some (BitVec.ofInt 64 v.toInt, s)) ∧
    (∀ u, readSrc s c t (.y u) = match rget (thr s c t).y u with
      | .ready v => some (v, s)
      | .untriggered => some (Config.freeY s.fresh, { s with fresh := s.fresh + 1 })
      | .busy _ => none
      | .pending _ => none)

/-- R46: a trigger whose guard does not hold reads its source and passes: nothing starts, no latch changes. -/
def Obligations.UnperformedTriggerPasses : Prop :=
  ∀ s i grd src v r, i.trigger? = some (grd, src) → canIssue (me s) = true → readSrc s s.cur.1 s.cur.2 src = some (v, r) →
    (match grd with | .always => false | .ifSet p => !readP (me s) p | .ifClear p => readP (me s) p) = true →
    exec i s = .next (modThr r s.cur.1 s.cur.2 (fun x => completed x 4))

/-- R40, R42, R46: a trigger whose source is not ready waits, whatever its guard, and one of a unit that holds one operation of a thread waits
while the thread's previous one has not completed: the state does not change. -/
def Obligations.TriggerWaits : Prop :=
  (∀ s i grd src, i.trigger? = some (grd, src) → canIssue (me s) = true → readSrc s s.cur.1 s.cur.2 src = none → exec i s = .next s) ∧
  (∀ s i u, (∃ w, encode i = w32 w ∧ w.extractLsb' 0 3 = 1#3 ∧ w.extractLsb' 10 4 = u) → u ∈ [0#4, 1, 2, 3, 4, 5, 6, 8, 9, 10, 14, 15] →
    ∀ grd src v r, i.trigger? = some (grd, src) → Performs s grd src v r → unitBusy (me s) u = true → exec i s = .next s)

/-- R38, R45, R50, R54, R55: plain moves, pair words, `ldi` and `ldx`. -/
def Obligations.MoveResults : Prop :=
  ∀ s, canIssue (me s) = true →
    (∀ src d v r, readSrc s s.cur.1 s.cur.2 src = some (v, r) → dstReady s s.cur.1 s.cur.2 d = true →
      exec (.plainMove src d) s = .next (modThr r s.cur.1 s.cur.2 (fun x => completed (moved x d v) 2))) ∧
    (∀ s1 d1 s2 d2 v1 v2 r1 r2, readSrc s s.cur.1 s.cur.2 s1 = some (v1, r1) → readSrc r1 s.cur.1 s.cur.2 s2 = some (v2, r2) →
      dstReady s s.cur.1 s.cur.2 d1 = true → dstReady s s.cur.1 s.cur.2 d2 = true → (d1 ≠ d2 ∨ d1 = .g 0 ∨ d1 = .p 0) →
      exec (.pairWord s1 d1 s2 d2) s = .next (modThr r2 s.cur.1 s.cur.2 (fun x => completed (moved (moved x d1 v1) d2 v2) 4))) ∧
    (∀ s1 d s2, d ≠ .g 0 → d ≠ .p 0 → exec (.pairWord s1 d s2 d) s = .next (faultWord s s.cur.1 s.cur.2 .illegal)) ∧
    (∀ imm n, exec (.ldi imm n) s = .next (modThr s s.cur.1 s.cur.2 (fun x => completed (moved x (.g n) (BitVec.ofInt 64 imm.toInt)) 4))) ∧
    (∀ imm q n, (n = 3 → e3Busy s s.cur.1 s.cur.2 = false) → ∃ y, IsLdx (rget (me s).e n) imm q y ∧
      exec (.ldx imm q n) s = .next (modThr s s.cur.1 s.cur.2 (fun x => completed (moved x (.e n) y) 4)))

/-- R56, R138: branches and calls, in their trigger and control forms; an odd indirect target traps ALIGN. -/
def Obligations.BranchResults : Prop :=
  ∀ s, unitBusy (me s) 8 = false →
    (∀ grd src v r, Performs s grd src v r →
      exec (.br grd src) s = .next (modThr r s.cur.1 s.cur.2 (fun x => branched x (x.pc + BitVec.ofInt 64 (2 * v.toInt)) 0)) ∧
      exec (.call grd src) s = .next (modThr r s.cur.1 s.cur.2 (fun x =>
        branched { x with g := rset x.g 31#5 (x.pc + 4) } (x.pc + BitVec.ofInt 64 (2 * v.toInt)) (x.pc + 4))) ∧
      (v.getLsbD 0 = false →
        exec (.bi grd src) s = .next (modThr r s.cur.1 s.cur.2 (fun x => branched x (BitVec.ofNat 64 (v.toNat % 2 ^ 56)) 0)) ∧
        exec (.ret grd src) s = .next (modThr r s.cur.1 s.cur.2 (fun x => branched x (BitVec.ofNat 64 (v.toNat % 2 ^ 56)) 0))) ∧
      (v.getLsbD 0 = true →
        exec (.bi grd src) s = .next (faultWord r s.cur.1 s.cur.2 .align) ∧
        exec (.ret grd src) s = .next (faultWord r s.cur.1 s.cur.2 .align))) ∧
    (canIssue (me s) = true → ∀ off : BitVec 22,
      exec (.bControl off) s = .next (modThr s s.cur.1 s.cur.2 (fun x => branched x (x.pc + BitVec.ofInt 64 (2 * off.toInt)) 0)) ∧
      exec (.callControl off) s = .next (modThr s s.cur.1 s.cur.2 (fun x =>
        branched { x with g := rset x.g 31#5 (x.pc + 4) } (x.pc + BitVec.ofInt 64 (2 * off.toInt)) (x.pc + 4))))

/-- R139, R140, R141: setting up a hardware loop, skipping a body of no trips, the LOOP trap, and `lbrk`; and a word that completes moves the PC
on, or back to the start of a loop that wraps, lc1 before lc0. The model's choices: a skipped body is a branch taken, so it steps no loop
(log entry 104); `lbrk` extends the counter by its sign whatever act is (log entry 105). -/
def Obligations.LoopResults : Prop :=
  (∀ s grd src v r, Performs s grd src v r → unitBusy (me s) 8 = false → ∀ n : BitVec 1,
    let stp := (rget (me s).e 7#3).extractLsb' 0 32
    let bnd := (rget (me s).e 6#3).extractLsb' 0 32
    let cnt := (rget (me s).la 8#4).extractLsb' 0 32
    let bad := stp = 0 ∨ v.toInt < 2 ∨ 2 ^ 21 - 1 < v.toInt
    let none_ := (0 < stp.toInt ∧ bnd.toInt ≤ cnt.toInt) ∨ (stp.toInt < 0 ∧ cnt.toInt ≤ bnd.toInt)
    (bad → exec (.loop grd src n) s = .next (faultWord r s.cur.1 s.cur.2 .loop)) ∧
    (¬bad → none_ → exec (.loop grd src n) s = .next (modThr r s.cur.1 s.cur.2 (fun x =>
      branched { x with lc := rset x.lc n { rget x.lc n with act := false } } (x.pc + 2 * v + 2) 0))) ∧
    (¬bad → ¬none_ → exec (.loop grd src n) s = .next (modThr r s.cur.1 s.cur.2 (fun x =>
      completed { x with
        y := rset x.y 8#4 (.busy 0)
        lc := rset x.lc n ⟨cnt, bnd, stp, true, (x.pc + 2 * v).extractLsb' 0 56, (x.pc + 4).extractLsb' 0 56⟩ } 4))) ∧
    ((rget (me s).lc n).act = true → exec (.lbrk grd src n) s = .next (modThr r s.cur.1 s.cur.2 (fun x =>
      branched { x with lc := rset x.lc n { rget x.lc n with act := false } } ((rget x.lc n).fin.setWidth 64 + 2)
        (BitVec.ofInt 64 (rget x.lc n).cnt.toInt)))) ∧
    ((rget (me s).lc n).act = false → exec (.lbrk grd src n) s = .next (modThr r s.cur.1 s.cur.2 (fun x =>
      completed { x with y := rset x.y 8#4 (.busy (BitVec.ofInt 64 (rget x.lc n).cnt.toInt)) } 4)))) ∧
  (∀ x n, advance x n = completed x n)

/-- R15, R124: a word of the scalar units writes only its thread's registers: at most g, p, fpst, a result latch, the loop counters and the
PC of the acting thread; every byte of memory, every other thread and every other part of the machine is as before. -/
def Obligations.ScalarWordFrame : Prop :=
  ∀ s i s', registerWord i = true → exec i s = .next s' →
    s' = s ∨ ∃ r x, (r = s ∨ r = { s with fresh := s.fresh + 1 }) ∧ s' = putThr r s.cur.1 s.cur.2 x ∧ (∀ k, memGet s'.mem k = memGet s.mem k) ∧
      ((compareOp i).isNone → (∀ g n c p, i ≠ .fcmp g n c p) → x.p = (me s).p) ∧
      ((floatOp i).isNone → (∀ g n c p, i ≠ .fcmp g n c p) → (∀ g n a b m, i ≠ .fcvt g n a b m) → x.fpst = (me s).fpst) ∧
      { x with p := (me s).p, fpst := (me s).fpst, pc := (me s).pc, lc := (me s).lc, words := (me s).words, y := (me s).y } = me s ∧
      (∀ u, (∀ w, encode i = w32 w → w.extractLsb' 10 4 ≠ u) → rget x.y u = rget (me s).y u)

/-! ## Memory words -/

/-- R194, R195: a load traps where its address may not be read, gives the bytes the take sees where the cell can read them, and sends a
request where they lie elsewhere. `lsPlace` is the check of the address (AddressChecks). The model's readings: a load waits behind an `lda`
only where that scope holds its location, known here or told by a translation later (log entry 111), and behind the engines' memory
operations; `loadWaits` says so. -/
def Obligations.LoadResults : Prop :=
  ∀ s i grd src z sp sx acq v r,
    (i = .ld grd src z sp sx ∧ acq = none) ∨ (∃ sc, i = .lda grd src z sp sc ∧ sx = false ∧ acq = some sc) →
    Performs s grd src v r → awaitsAcquire (me s) = false → engineMem (cellAt r s.cur.1) s.cur.2 = false →
    (z = .q → e3Busy r s.cur.1 s.cur.2 = false) →
    let c := s.cur.1
    let t := s.cur.2
    let n := sizeBytes z
    match lsPlace r c t sp v n false with
    | .error e => exec i s = .next (faultWord r c t e)
    | .ok (.here tgt) => loadWaits r c t tgt n = false → viewUnknown (me s).effects (identOf tgt) n = false →
        exec i s = .next (modThr r c t (fun x => loaded x n sx (leNat (viewDirect r (me s).effects tgt n))))
    | .ok (.away tgt) => loadWaits r c t tgt n = false → canRequest r c t = true → targetRoom r c t tgt n = true →
        exec i s = .next (modThr (addRequest r c t (me s).pc ((me s).words + 1) (.load tgt n sx acq (me s).effects.length)).1 c t
          (fun x => awaiting x r.nextReq))

/-- R195, R183: a store of the scratch window writes its bytes at once; any other is held, or performed at once by an irrevocable take, or
held until its home grants it. -/
def Obligations.StoreResults : Prop :=
  ∀ s i grd src z sp sys v r,
    (i = .st grd src z sp ∧ sys = false) ∨ (∃ sc, i = .stl grd src z sp sc ∧ sys = (sc == .sys)) →
    Performs s grd src v r → lsWaits r s.cur.1 s.cur.2 = false →
    let c := s.cur.1
    let t := s.cur.2
    let n := sizeBytes z
    let bs := storeBytes (me s) n
    match lsPlace r c t sp v n true with
    | .error e => exec i s = .next (faultWord r c t e)
    | .ok (.here tgt) =>
        let ks := (directKeys tgt n).getD []
        (sp = .scr → exec i s = .next (wordDone (applyWrite r ks bs) c t 7 0)) ∧
        (sp ≠ .scr → Deferred s r [.store [⟨tgt, bs⟩] 1 none (some ks) sys (me s).words] (fun s => wordDone s c t 7 0) (exec i s))
    | .ok (.away tgt) =>
        Requested s r (.store [⟨tgt, bs⟩] 1 none none sys (me s).words) (.check tgt n none (me s).words (me s).effects.length)
          (fun s => wordDone s c t 7 0) (exec i s)

/-- R16, R22, R183: a store changes no byte but those it stores to, and none at all where it is held. Of its thread it changes the latch of `ls`,
the PC and the loop counters, and what counts its words, requests and held effects; every other register of the thread, every other thread
and the engine files stay. -/
def Obligations.StoreFrame : Prop :=
  ∀ s i grd src z sp v r s',
    (i = .st grd src z sp) ∨ (∃ sc, i = .stl grd src z sp sc) →
    Performs s grd src v r → lsWaits r s.cur.1 s.cur.2 = false → exec i s = .next s' →
    (∃ p, lsPlace r s.cur.1 s.cur.2 sp v (sizeBytes z) true = .ok p) →
    (∀ tgt ks, lsPlace r s.cur.1 s.cur.2 sp v (sizeBytes z) true = .ok (.here tgt) → directKeys tgt (sizeBytes z) = some ks →
      (∀ k, k ∉ ks → memGet s'.mem k = memGet s.mem k) ∧
      (sp = .scr → readKeys s'.mem ks = storeBytes (me s) (sizeBytes z)) ∧
      (sp ≠ .scr → (me s).phase = .revocable → s'.mem = s.mem)) ∧
    (∀ tgt, lsPlace r s.cur.1 s.cur.2 sp v (sizeBytes z) true = .ok (.away tgt) → s'.mem = s.mem) ∧
    (∀ c' t', (c', t') ≠ s.cur → thr s' c' t' = thr s c' t') ∧
    (∀ u, u ≠ 7 → rget (me s').y u = rget (me s).y u) ∧
    { me s' with
        y := (me s).y, pc := (me s).pc, lc := (me s).lc, words := (me s).words, effects := (me s).effects,
        pinning := (me s).pinning, orc := (me s).orc, reqseq := (me s).reqseq } = me s ∧
    (∀ c', (cellAt s' c').v = (cellAt s c').v ∧ (cellAt s' c').t = (cellAt s c').t ∧ (cellAt s' c').acc = (cellAt s c').acc ∧
      (cellAt s' c').tcfg = (cellAt s c').tcfg)

/-- R196, R197: an atomic word returns the old value; it acts at once on the scratch window and for an irrevocable take, on the take's view
for a revocable one, and by a request elsewhere; and what each read-modify-write operation leaves at its place: `amo.fadd` the FP32 or BF16 sum
rounded to nearest, the infinity of its sign above the largest finite value, and the canonical NaN where an operand is NaN. The model's reading:
the conditions of a word in an irrevocable take are those of log entry 22. -/
def Obligations.AtomicResults : Prop :=
  (∀ s i grd src z sp op v r, atomicOp i = some (grd, src, z, sp, op) → Performs s grd src v r → lsWaits r s.cur.1 s.cur.2 = false →
    (z = .q → e3Busy r s.cur.1 s.cur.2 = false) →
    let c := s.cur.1
    let t := s.cur.2
    let n := sizeBytes z
    let x := me s
    match lsPlace r c t sp v n true with
    | .error e => exec i s = .next (faultWord r c t e)
    | .ok (.here tgt) =>
        let ks := (directKeys tgt n).getD []
        (directAhead r c t ks = true → exec i s = .next s) ∧ (directAhead r c t ks = false →
        (sp = .scr → let old := leNat (readKeys r.mem ks)
          exec i s = .next (modThr (match rmwNew (op x) n old with | some w => applyWrite r ks (leBytes n w) | none => r) c t
            (fun x => loaded x n false old))) ∧
        (sp ≠ .scr → x.phase = .irrevocable → mayPerform r c t r.nextOp = true → ∀ r', (∃ b, performAll c t x.effects r = (r', [], b)) →
          let q := modThr r' c t (fun x => { x with effects := [] })
          let old := leNat (readKeys q.mem ks)
          exec i s = .next (modThr (match rmwNew (op x) n old with | some w => applyWrite q ks (leBytes n w) | none => q) c t
            (fun x => loaded x n false old))) ∧
        (sp ≠ .scr → x.phase = .revocable → viewUnknown x.effects (identOf tgt) n = false →
          let old := leNat (viewDirect r x.effects tgt n)
          let e : Effect := .rmw tgt n (op x) (some ks) false (some (BitVec.ofNat 128 (rmwLeaves (op x) n old))) x.words
          fits x [e] = true →
          exec i s = .next (modThr r c t (fun x => loaded { x with effects := x.effects ++ [e] } n false old))))
    | .ok (.away tgt) =>
        (x.phase = .irrevocable → mayPerform r c t r.nextOp = true → canRequest r c t = true → targetRoom r c t tgt n = true →
          ∀ r', (∃ b, performAll c t x.effects r = (r', [], b)) →
          exec i s = .next (modThr (addRequest r' c t x.pc (x.words + 1) (.atomic tgt n (op x))).1 c t
            (fun x => awaiting { x with effects := [] } r'.nextReq))) ∧
        (x.phase = .revocable → fits x [.rmw tgt n (op x) none false none x.words] = true → canRequest r c t = true →
          targetRoom r c t tgt n = true →
          exec i s = .next (modThr (addRequest r c t x.pc (x.words + 1) (.check tgt n (some (op x)) x.words x.effects.length)).1 c t
            (fun x => awaiting { x with effects := x.effects ++ [.rmw tgt n (op x) none false none x.words] } r.nextReq)))) ∧
  ((∀ n f old (w : BitVec 128), (n = 4 ∧ floatShape .f32 = some f) ∨ (n = 2 ∧ floatShape .bf16 = some f) → old < 2 ^ (8 * n) →
    let a := w.toNat % 2 ^ (8 * n)
    let x := shapeVal f old + shapeVal f a
    let isNan := fun b : Nat => f.top + 1 < b % 2 ^ signAt f
    (finiteCode f old → finiteCode f a → ¬exceeds f x → ∃ y, rmwNew (.amo .fadd w) n old = some y ∧ IsNearest f x y) ∧
    (finiteCode f old → finiteCode f a → exceeds f x →
      rmwNew (.amo .fadd w) n old = some ((if x < 0 then 2 ^ signAt f else 0) + f.top + 1)) ∧
    (isNan old ∨ isNan a → rmwNew (.amo .fadd w) n old = f.nan)) ∧
  ∀ n old, n ∈ [4, 8, 16] → old < 2 ^ (8 * n) →
    (∀ e w : BitVec 128, rmwNew (.cas e w) n old = if old = e.toNat % 2 ^ (8 * n) then some (w.toNat % 2 ^ (8 * n)) else none) ∧
    (∀ w : BitVec 128, rmwNew (.swp w) n old = some (w.toNat % 2 ^ (8 * n))) ∧
    (∀ w : BitVec 128, let a := w.toNat % 2 ^ (8 * n)
      let sg := fun v : Nat => if 2 ^ (8 * n - 1) ≤ v then (v : Int) - 2 ^ (8 * n) else (v : Int)
      rmwNew (.amo .add w) n old = some ((old + a) % 2 ^ (8 * n)) ∧ rmwNew (.amo .and w) n old = some (old &&& a) ∧
      rmwNew (.amo .or w) n old = some (old ||| a) ∧ rmwNew (.amo .xor w) n old = some (old ^^^ a) ∧
      rmwNew (.amo .min w) n old = some (if sg old ≤ sg a then old else a) ∧
      rmwNew (.amo .max w) n old = some (if sg old ≤ sg a then a else old) ∧
      rmwNew (.amo .minu w) n old = some (min old a) ∧ rmwNew (.amo .maxu w) n old = some (max old a)))

/-- R199, R200, R210, R211: `ared` and `rbr` hold their effect behind a request; `fence` holds a marker, waits, or passes by its kinds and scope.
The model's reading: in an irrevocable take it first performs the reductions held within its scope (log entry 107). -/
def Obligations.ReductionBlockReadFence : Prop :=
  ∀ s grd src v r, Performs s grd src v r →
    let c := s.cur.1
    let t := s.cur.2
    let x := me s
    (lsWaits r c t = false →
    (∀ op z,
      match lsPlace r c t .glb v (sizeBytes z) true with
      | .error e => exec (.ared grd src op z) s = .next (faultWord r c t e)
      | .ok p => p = .away (.glb (v.toNat % 2 ^ 56)) ∧
          let w : Rmw := .amo op ((rget x.la 7#4).setWidth 128)
          let e : Effect := .rmw (.glb (v.toNat % 2 ^ 56)) (sizeBytes z) w none true none x.words
          (x.phase = .revocable → Requested s r e (.check (.glb (v.toNat % 2 ^ 56)) (sizeBytes z) (some w) x.words x.effects.length)
            (fun s => wordDone s c t 7 0) (exec (.ared grd src op z) s)) ∧
          (x.phase = .irrevocable → mayPerform r c t r.nextOp = true → canRequest r c t = true →
            targetRoom r c t (.glb (v.toNat % 2 ^ 56)) (sizeBytes z) = true → ∀ r', (∃ b, performAll c t x.effects r = (r', [], b)) →
            exec (.ared grd src op z) s = .next (wordDone (modThr (addRequest r' c t x.pc (x.words + 1)
              (.check (.glb (v.toNat % 2 ^ 56)) (sizeBytes z) (some w) x.words 0)).1 c t (fun x => { x with effects := [e] })) c t 7 0))) ∧
    (∀ k sp, sp ∈ [Space.rem, .grv, .glb] →
      let b := rget x.lb 7#4
      let n := b.toNat
      let dst := (rget x.la 7#4).toNat % 2 ^ 17
      let a := v.toNat % 2 ^ 56
      (n < 16 ∨ 4096 < n ∨ n % 16 ≠ 0 → exec (.rbr grd src sp k) s = .next (faultWord r c t .illegal)) ∧
      (16 ≤ n → n ≤ 4096 → n % 16 = 0 → (a % 16 ≠ 0 ∨ dst % 16 ≠ 0) → exec (.rbr grd src sp k) s = .next (faultWord r c t .align)) ∧
      (16 ≤ n → n ≤ 4096 → n % 16 = 0 → a % 16 = 0 → dst % 16 = 0 → tagValid v = true → tagBytes v = true →
        (localOk (posOf r c x.ctx.toNat) dst n true false = false → exec (.rbr grd src sp k) s = .next (faultWord r c t .perm)) ∧
        (∀ tgt, localOk (posOf r c x.ctx.toNat) dst n true false = true →
          ((sp = .glb ∧ a + n ≤ 2 ^ 56 ∧ tgt = .glb a) ∨ (sp = .rem ∧ remPlace a n = .ok (.away tgt)) ∨
            (sp = .grv ∧ ∃ g o, grvAddr (groveOf c) a = some (g, o) ∧ tgt = .grv g o)) →
          Requested s r (.rbr tgt dst n k v none x.words) (.header tgt n false (.block x.words)) (fun s => wordDone s c t 7 0)
            (exec (.rbr grd src sp k) s)))) ∧
    (∀ kinds, exec (.fence grd src kinds .thr) s = .next (wordDone r c t 7 0)) ∧
    (∀ kinds sc, x.phase = .irrevocable → sc ≠ .thr →
      (kinds[1] = true ∨ kinds[0] = true → loadsDone r c t = false → exec (.fence grd src kinds sc) s = .next s) ∧
      ((kinds[1] = true ∨ kinds[0] = true → loadsDone r c t = true) →
        (kinds[3] = true ∨ kinds[2] = true → x.effects.any (aredWithin c sc) = false) →
        ((kinds[3] = true ∨ kinds[2] = true) → effectsDone r c t sc = false → exec (.fence grd src kinds sc) s = .next s) ∧
        ((kinds[3] = true ∨ kinds[2] = true → effectsDone r c t sc = true) →
          exec (.fence grd src kinds sc) s = .next (wordDone r c t 7 0))) ∧
      ((kinds[1] = true ∨ kinds[0] = true → loadsDone r c t = true) → (kinds[3] = true ∨ kinds[2] = true) →
        x.effects.any (aredWithin c sc) = true →
        (mayPerform r c t r.nextOp = false ∨ (∀ q b, performAll c t x.effects r ≠ (q, [], b)) →
          exec (.fence grd src kinds sc) s = .next s) ∧
        (mayPerform r c t r.nextOp = true → ∀ q b, performAll c t x.effects r = (q, [], b) →
          let q := modThr q c t (fun x => { x with effects := [] })
          exec (.fence grd src kinds sc) s = .next (if effectsDone q c t sc then wordDone q c t 7 0
            else modThr q c t (fun x => { x with words := x.words + 1 }))))) ∧
    (∀ kinds sc, x.phase = .revocable →
      let ww := kinds[3]
      let wr := kinds[2]
      let rw := kinds[1]
      let rr := kinds[0]
      (sc ≠ .thr → wr = true → workDone r c t = true →
        exec (.fence grd src kinds sc) s = .next (modThr r c t (fun x => { x with pinning := true, words := x.words + 1 }))) ∧
      (sc ≠ .thr → wr = false → rr = true → loadsDone r c t = false → exec (.fence grd src kinds sc) s = .next s) ∧
      (sc ≠ .thr → wr = false → (rr = true → loadsDone r c t = true) → ¬(sc = .sys ∧ (ww = true ∨ rw = true)) →
        exec (.fence grd src kinds sc) s = .next (wordDone r c t 7 0)) ∧
      (sc = .sys → wr = false → (rr = true → loadsDone r c t = true) → (ww = true ∨ rw = true) → fits x [.marker] = true →
        exec (.fence grd src kinds sc) s = .next (wordDone (modThr r c t (fun x => { x with effects := x.effects ++ [.marker] })) c t 7 0))))

/-- R179, R181, R182, R183, R184, R194, R327: the check of an `ls` address: alignment, tag, then the space's own check. The model's readings:
within one word the lowest cause counts (log entry 29); a `.rem` cell number from 1,024 on, an offset from 0x16000 on and a `.glb` access
past 2^56 fault PERM at the word (log entry 28). -/
def Obligations.AddressChecks : Prop :=
  ∀ s c t sp v n w,
    let a := v.toNat % 2 ^ 56
    let code := v.toNat / 2 ^ 59
    let p := posOf s c (thr s c t).ctx.toNat
    let tagOk : Prop := code ∈ [0, 1, 2, 3, 4, 5, 6, 7, 8, 9, 10] ∧ v.toNat / 2 ^ 56 % 8 = 0
    n ∈ [1, 2, 4, 8, 16] →
    (a % n ≠ 0 → lsPlace s c t sp v n w = .error .align) ∧
    (a % n = 0 → ¬tagOk → lsPlace s c t sp v n w = .error .format) ∧
    (a % n = 0 → tagOk →
      (lsPlace s c t .loc v n w = if localOk p a n w false then .ok (.here (.loc c a)) else .error .perm) ∧
      (lsPlace s c t .scr v n w = if a + n ≤ 2048 ∧ p.scratch.getLsbD 63 = true then
        .ok (.here (.loc c (p.scratch.toNat % 2 ^ 17 + 2048 * t.toNat + a))) else .error .perm) ∧
      (lsPlace s c t .rem v n w = if 2 ^ 28 ≤ a ∨ 1024 ≤ a / 2 ^ 17 % 2048 ∨ 0x16000 < a % 2 ^ 17 + n then .error .perm
        else .ok (.away (.loc (a / 2 ^ 17 % 2048) (a % 2 ^ 17)))) ∧
      (lsPlace s c t .glb v n w = if 2 ^ 56 < a + n then .error .perm else .ok (.away (.glb a))) ∧
      (2 ^ 32 ≤ a ∨ 2 ≤ a / 2 ^ 30 % 4 ∨ (a / 2 ^ 30 % 4 = 0 ∧ a / 2 ^ 24 % 64 ≠ 0) → lsPlace s c t .grv v n w = .error .perm) ∧
      (∀ g, a < 2 ^ 32 → (a / 2 ^ 30 = 0 ∧ a / 2 ^ 24 % 64 = 0 ∧ g = groveOf c) ∨ (a / 2 ^ 30 = 1 ∧ a / 2 ^ 24 % 64 = g) →
        let off := a % 2 ^ 24
        let covers : Nat → Bool → Prop := fun m wr => ∃ e ∈ (groveAt s g).windows, e.2.getLsbD 63 = true ∧ (wr = true → e.2.getLsbD 62 = true) ∧
          e.2.toNat / 2 ^ 48 % 2 ^ 12 = (thr s c t).ctx.toNat ∧ e.2.toNat / 2 ^ 16 % 256 * 2 ^ 16 ≤ off ∧
          off + m ≤ (e.2.toNat / 2 ^ 16 % 256 + e.2.toNat / 2 ^ 32 % 256 + 1) * 2 ^ 16
        (g ≠ groveOf c → lsPlace s c t .grv v n w = .ok (.away (.grv g off))) ∧
        (g = groveOf c → covers n w → off + n ≤ 2 ^ 24 → lsPlace s c t .grv v n w = .ok (.here (.grv g off))) ∧
        (g = groveOf c → ¬covers n w → lsPlace s c t .grv v n w = .error .perm ∨ lsPlace s c t .grv v n w = .error .notMapped) ∧
        (g = groveOf c → ¬covers 1 false → lsPlace s c t .grv v n w = .error .notMapped) ∧
        (g = groveOf c → covers 1 false → ¬covers 1 w → lsPlace s c t .grv v n w = .error .perm))) ∧
    (∀ q : Position, localOk q a n w false = true ↔ ∃ i : BitVec 4, let e := rget q.regions i
      e.getLsbD 63 = true ∧ (w = true → e.getLsbD 62 = true) ∧ e.toNat % 2 ^ 17 ≤ a ∧
        a + n ≤ e.toNat % 2 ^ 17 + e.toNat / 2 ^ 32 % 2 ^ 17 ∧ a + n ≤ 0x16000)

/-! ## The end of a take, traps, system words -/

/-- R337, Table 1.3: `fin` waits for the thread's engine work, then settles a revocable take and lets an irrevocable one print; `pin` marks a
revocable take to perform what it holds, and returns 0 at once in an irrevocable one. -/
def Obligations.FinAndPin : Prop :=
  ∀ s grd src v r, Performs s grd src v r → unitBusy (me s) 10 = false →
    let c := s.cur.1
    let t := s.cur.2
    (workDone r c t = false → exec (.fin grd src) s = .next s) ∧
    (workDone r c t = true → (me s).phase = .revocable →
      exec (.fin grd src) s = .next (modThr r c t (fun x => { completed x 4 with phase := .settling }))) ∧
    (workDone r c t = true → (me s).phase = .irrevocable → (me s).orc = 0 →
      exec (.fin grd src) s = .next (modThr r c t (fun x => { completed x 4 with phase := .printing, pinned := true }))) ∧
    (workDone r c t = true → (me s).phase = .irrevocable → (me s).orc ≠ 0 → exec (.fin grd src) s = .next s) ∧
    ((me s).phase = .irrevocable → exec (.pin grd src) s = .next (wordDone r c t 10 0)) ∧
    ((me s).phase = .revocable → workDone r c t = true →
      exec (.pin grd src) s = .next (modThr r c t (fun x => { resultUnderWay x 10 0 with pinning := true }))) ∧
    ((me s).phase = .revocable → workDone r c t = false → exec (.pin grd src) s = .next s)

/-- R338, R339, R75: `retake`, `brk` and a word that is no instruction complete: each answers a next state that holds its own effect. `retake` cuts
its own revocable take with no report and no hold (in an irrevocable take it traps ILLEGAL); `brk` ends the take, cut or aborted, with a report of
kind 2 that carries its code; a word that is no instruction ends the take with cause ILLEGAL at its PC. A cut returns the triggering message to
the head of its queue: among the notes of its receive end that came back, at the head of its completion queue, with its stage index, or by a
RETURN to where the end has moved (log entry 38). What an aborted take still performs before its report is log entry 95. -/
def Obligations.WordsThatEndTakes : Prop :=
  (∀ s grd src v r, Performs s grd src v r → unitBusy (me s) 10 = false →
    let c := s.cur.1
    let t := s.cur.2
    ((me s).phase = .revocable → ∃ s', exec (.retake grd src) s = .next s' ∧ TakeEnded s' c t ∧ (thr s' c t).phase = .idle ∧
      ReturnedTo s s' c t false ∧ (cellAt s' c).reports = (cellAt s c).reports ∧ (thr s' c t).frame = (me s).frame) ∧
    ((me s).phase = .irrevocable → exec (.retake grd src) s = .next (faultWord r c t .illegal)) ∧
    (v.toNat < 2 ^ 16 → ∃ s', exec (.brk grd src) s = .next s' ∧ s' = trapEntry r c t ⟨.illegal, (me s).pc, 0, 0xFF, none, 2, v.toNat⟩ ∧
      TakeEnded s' c t ∧ (isIrrevocable (me s) = false → ReturnedTo s s' c t true) ∧
      (let ctx := (me s).ctx.toNat
       let f := (thr s' c t).frame
       let q := ctxRec s (dieOf c) ctx
       let w0 : Word := BitVec.ofNat 64 (2 * 2 ^ 60 + ctx * 2 ^ 48 + 0xFF * 2 ^ 40 + v.toNat * 2 ^ 24 + c * 2 ^ 13 + t.toNat * 2 ^ 10)
       rget f 0#6 = BitVec.ofNat 64 (2 ^ 63 + ctx * 2 ^ 16 + (if isIrrevocable (me s) then 2 ^ 11 else 0) + t.toNat * 2 ^ 8) ∧
       rget f 1#6 = (me s).pc ∧
       ((thr s' c t).phase = .idle ∧
          word64At s' (mgmtKey (dieOf c) (q.base.toNat * 512 + q.widx.toNat % 2 ^ q.k.toNat * 512)) = w0 ∨
        (thr s' c t).phase = .reporting ∧ ∃ rep, (cellAt s' c).reports = (cellAt s c).reports ++ [rep] ∧ rep.ctx = ctx ∧ rep.words[0]? = some w0))) ∧
    (2 ^ 16 ≤ v.toNat → exec (.brk grd src) s = .next (faultWord r c t .illegal))) ∧
  (∀ s, canIssue (me s) = true → let c := s.cur.1
    let t := s.cur.2
    ∃ s', exec .illegalWord s = .next s' ∧ s' = faultWord s c t .illegal ∧ TakeEnded s' c t ∧
      (isIrrevocable (me s) = false → ReturnedTo s s' c t true) ∧
      rget (thr s' c t).frame 0#6 = BitVec.ofNat 64 (2 ^ 63 + (me s).ctx.toNat * 2 ^ 16 + (if isIrrevocable (me s) then 2 ^ 11 else 0)
        + t.toNat * 2 ^ 8) ∧ rget (thr s' c t).frame 1#6 = (me s).pc)

/-- R97, R329: the trap frame quotes the cause, the PC, the slate, the outstanding requests and the refused request of the fault. -/
def Obligations.TrapFrameQuotesTheFault : Prop :=
  ∀ s c t (i : TrapInfo), i.kind ≠ 2 →
    let x := thr s c t
    let f := (thr (trapEntry s c t i) c t).frame
    rget f 0#6 = BitVec.ofNat 64 (2 ^ 63 + x.ctx.toNat * 2 ^ 16 + (if isIrrevocable x then 2 ^ 11 else 0) + t.toNat * 2 ^ 8 + causeCode i.cause) ∧
    rget f 1#6 = i.pc ∧ rget f 2#6 = x.slate ∧
    rget f 3#6 = BitVec.ofNat 64 ((if x.orc = 0 then 2 ^ 32 else 0) + i.seq.toNat * 2 ^ 16 + x.orc % 128)

/-- R328, R330, R331: a trap ends the take; a cut returns the triggering message to the head of its queue, held; a receive end that has moved
on gets it by a RETURN that carries the hold (the model's reading, log entry 38). Its requests are discarded, but for posted accesses, block
reads and the grant of an `ared` that an aborted take still performs before its report (log entry 95). -/
def Obligations.TrapEndsTheTake : Prop :=
  ∀ s c t (i : TrapInfo), let s' := trapEntry s c t i
    TakeEnded s' c t ∧ (isIrrevocable (thr s c t) = false → (thr s' c t).effects = [] ∧ ReturnedTo s s' c t true) ∧
    (∀ q ∈ s'.reqs, q.cell = c → q.th = t.toNat → q.discarded = true ∨ (∃ ks bs w, q.kind = .posted ks bs w) ∨ (∃ a b n k w, q.kind = .block a b n k w) ∨
      isIrrevocable (thr s c t) = true ∧ ∃ tgt n w insn neff, q.kind = .check tgt n (some w) insn neff ∧
        ∃ a b what v, Effect.rmw a b what none true v insn ∈ (thr s c t).effects)

/-- R333, R334, R335: the report of a trap stands in its context's ring where the ring has room, with the words of Table 15.3; and a release
word clears the hold of the queue it names, and one that names none changes nothing. -/
def Obligations.ReportsAndReleases : Prop :=
  (∀ s c t (i : TrapInfo), let x := thr s c t
    let ctx := x.ctx.toNat
    let d := dieOf c
    let q := ctxRec s d ctx
    isIrrevocable x = false → i.kind = 0 → x.undo = [] → x.consumed = [] → x.origin = .completion →
    (∀ w ∈ (cellAt s c).reports, w.ctx ≠ ctx) → postedOf s c t = [] → 4 ≤ q.k.toNat → q.k.toNat ≤ 12 → (q.widx - q.ridx).toNat < 2 ^ q.k.toNat →
    let s' := trapEntry s c t i
    let key := mgmtKey d (q.base.toNat * 512 + q.widx.toNat % 2 ^ q.k.toNat * 512)
    (thr s' c t).phase = .idle ∧ (ctxRec s' d ctx).widx = q.widx + 1 ∧
      word64At s' key = BitVec.ofNat 64 (ctx * 2 ^ 48 + i.reason * 2 ^ 40 + i.code * 2 ^ 24 + c * 2 ^ 13 + t.toNat * 2 ^ 10 + causeCode i.cause) ∧
      word64At s' (key + 8) = BitVec.ofNat 64 (2 ^ 63 + ctx * 2 ^ 32) ∧ word64At s' (key + 16) = x.slate ∧ word64At s' (key + 24) = s.cyc ∧
      (∀ k, k < key ∨ key + 512 ≤ k → memGet s'.mem k = memGet s.mem k)) ∧
  (∀ s c w, exec (.releaseRegisterWrite c w) s = .next (releaseHold s c w) ∧
    let s' := releaseHold s c w
    let ctx := w.toNat / 2 ^ 32 % 4096
    (w.toNat / 2 ^ 62 = 0 → s' = s) ∧
    (w.toNat / 2 ^ 62 = 1 → ∀ c' r, r ∈ (cellAt s' c').recvs → r.eid = w.toNat % 2 ^ 20 → r.ctx = ctx → r.held = false) ∧
    (w.toNat / 2 ^ 62 = 2 → resident s c ctx = true → (posOf s' c ctx).cqHeld = false ∧ (posOf s' c ctx).cq = (posOf s c ctx).cq) ∧
    (w.toNat / 2 ^ 62 = 3 → (stageAt s (dieOf c) (w.toNat % 32)).ctx.toNat = ctx → (stageAt s' (dieOf c) (w.toNat % 32)).hold = false) ∧
    s'.mem = s.mem ∧ (∀ c' t, thr s' c' t = thr s c' t))

/-- R94, R95, R96: `gcr` reads and `scr` writes the control registers: unassigned numbers, supervisor registers, read-only registers and bad
values trap (of several faults of one value the lowest cause, the model's reading, log entry 29); status registers clear by writing ones. -/
def Obligations.ControlRegisters : Prop :=
  (∀ s c t n v, (n, v) ∈ controlTable s c t → readControl s c t n = v ∧ assigned n = true ∧ supervisorReg n = false) ∧
  (∀ s c t, readControl s c t 0x301 = (match (cellAt s c).efOwner with
      | some u => BitVec.ofNat 64 (2 ^ 15 + u * 2 ^ 12 + (thr s c (BitVec.ofNat 3 u)).ctx.toNat)
      | none => 0) ∧ assigned 0x301 = true ∧ supervisorReg 0x301 = true) ∧
  (∀ s c t (u : BitVec 3) (i : BitVec 6), let n := 0x400 + 64 * u.toNat + i.toNat
    readControl s c t n = rget (thr s c u).frame i ∧ assigned n = true ∧ supervisorReg n = true) ∧
  (∀ s grd src v r, Performs s grd src v r → unitBusy (me s) 10 = false →
    let c := s.cur.1
    let t := s.cur.2
    let n := v.toNat
    let a := rget (me s).la 10#4
    let written : Prop := ∃ s', exec (.scr grd src) s = .next s' ∧ rget (me s').y 10#4 = .busy (readControl r c t n) ∧ readControl s' c t n = a
    (assigned n = false → exec (.gcr grd src) s = .next (faultWord r c t .illegal) ∧ exec (.scr grd src) s = .next (faultWord r c t .illegal)) ∧
    (assigned n = true → supervisorReg n = true → isSupervisor r (me s).ctx.toNat = false →
      exec (.gcr grd src) s = .next (faultWord r c t .perm) ∧ exec (.scr grd src) s = .next (faultWord r c t .perm)) ∧
    (assigned n = true → (supervisorReg n = true → isSupervisor r (me s).ctx.toNat = true) → engineWrites (cellAt r c) t n = false →
      (0x100 ≤ n → n ≤ 0x107 → (cellAt r c).efOwner = some t.toNat ∧ (cellAt r c).efReady ≤ r.cyc.toNat) →
      ((n = 9 ∨ n = 10 → enginesIdle (cellAt r c) t = true) → exec (.gcr grd src) s = .next (wordDone r c t 10 (readControl r c t n))) ∧
      (n ∈ [8, 9, 10] → ∃ s', exec (.scr grd src) s = .next s' ∧ (rget (me s').y 10#4) = .busy (readControl r c t n) ∧
        readControl s' c t n = readControl r c t n &&& ~~~a) ∧
      (0x14 ≤ n → n ≤ 0x17 → 2 ^ 17 ≤ a.toNat → exec (.scr grd src) s = .next (faultWord r c t .illegal)) ∧
      (0x14 ≤ n → n ≤ 0x17 → a.toNat < 2 ^ 17 → written) ∧
      (0x10 ≤ n → n ≤ 0x13 → (a.getLsbD 31 = true ∨ 0x7F800000 < a.toNat % 2 ^ 31) → exec (.scr grd src) s = .next (faultWord r c t .illegal)) ∧
      (0x10 ≤ n → n ≤ 0x13 → a.getLsbD 31 = false → a.toNat % 2 ^ 31 ≤ 0x7F800000 → written) ∧
      (0x100 ≤ n → n ≤ 0x107 →
        let big : Prop := 20 < a.toNat % 32 ∨ 8192 < (a.toNat / 32 % 256 + 1) * (32 * 2 ^ (a.toNat / 2 ^ 13 % 4))
        (2 ^ 15 ≤ a.toNat → exec (.scr grd src) s = .next (faultWord r c t .illegal)) ∧
        (a.toNat < 2 ^ 15 → big → exec (.scr grd src) s = .next (faultWord r c t .format)) ∧
        (a.toNat < 2 ^ 15 → ¬big → written)) ∧
      (n ≤ 6 ∨ (0x18 ≤ n ∧ n ≤ 0x1F) ∨ 0x200 ≤ n → exec (.scr grd src) s = .next (faultWord r c t .perm))))

/-- R278, R282, R340, R341: `trap`, `sig`, `hset` and `lnch` check their operands and defer their effect. -/
def Obligations.DeferredSystemWords : Prop :=
  ∀ s grd src v r, Performs s grd src v r → unitBusy (me s) 10 = false →
    let c := s.cur.1
    let t := s.cur.2
    let x := me s
    let a := rget x.la 10#4
    let p := posOf r c x.ctx.toNat
    let done : State → State := fun s => wordDone s c t 10 0
    (2 ^ 16 ≤ v.toNat → exec (.trap grd src) s = .next (faultWord r c t .illegal)) ∧
    (v.toNat < 2 ^ 16 →
      Deferred s r [.send (.trap (v.extractLsb' 0 16) a (rget x.lb 10#4)) 0 0 [] 1] done (exec (.trap grd src) s)) ∧
    (2 ^ 11 ≤ v.toNat → exec (.sig grd src) s = .next (faultWord r c t .illegal)) ∧
    (let nv := (rget r.parts (partOf r x.ctx.toNat)).ctl.toNat / 2 ^ 32 % 2 ^ 11
     (v.toNat < 2 ^ 11 → nv < v.toNat → exec (.sig grd src) s = .next (faultWord r c t .perm)) ∧
     (v.toNat < 2 ^ 11 → v.toNat ≤ nv → Deferred s r [.sig (v.extractLsb' 0 11)] done (exec (.sig grd src) s))) ∧
    (19 < v.toNat → exec (.hset grd src) s = .next (faultWord r c t .illegal)) ∧
    (v.toNat ≤ 19 → (a.toNat / 2 ^ 53 % 2 ^ 10 ≠ 0 ∨ a.toNat / 2 ^ 17 % 2 ^ 16 ≠ 0 ∨ (a[63] = true ∧ a.toNat / 2 ^ 33 % 2 ^ 20 = 0)) →
      exec (.hset grd src) s = .next (faultWord r c t .illegal)) ∧
    (v.toNat ≤ 19 → a.toNat / 2 ^ 53 % 2 ^ 10 = 0 → a.toNat / 2 ^ 17 % 2 ^ 16 = 0 → a[63] = true → a.toNat / 2 ^ 33 % 2 ^ 20 ≠ 0 →
      (a.toNat % 2 = 1 → exec (.hset grd src) s = .next (faultWord r c t .align)) ∧
      (a.toNat % 2 = 0 → localOk p (a.toNat % 2 ^ 17) 2 false true = false → exec (.hset grd src) s = .next (faultWord r c t .perm))) ∧
    (v.toNat ≤ 19 → a.toNat / 2 ^ 53 % 2 ^ 10 = 0 → a.toNat / 2 ^ 17 % 2 ^ 16 = 0 →
      (a[63] = false ∨ (a.toNat / 2 ^ 33 % 2 ^ 20 ≠ 0 ∧ a.toNat % 2 = 0 ∧ localOk p (a.toNat % 2 ^ 17) 2 false true = true)) →
      Deferred s r [.hset (v.extractLsb' 0 5) a] (fun s => wordDone s c t 10 (handlerView r c x v.toNat)) (exec (.hset grd src) s)) ∧
    (2 ^ 17 ≤ v.toNat → exec (.lnch grd src) s = .next (faultWord r c t .illegal)) ∧
    (v.toNat < 2 ^ 17 → v.toNat % 16 ≠ 0 → exec (.lnch grd src) s = .next (faultWord r c t .align)) ∧
    (v.toNat < 2 ^ 17 → v.toNat % 16 = 0 → localOk p v.toNat 16 false false = false → exec (.lnch grd src) s = .next (faultWord r c t .perm)) ∧
    (v.toNat < 2 ^ 17 → v.toNat % 16 = 0 → localOk p v.toNat 16 false false = true →
      Deferred s r [.lnch v.toNat] done (exec (.lnch grd src) s))

/-! ## Queues, barriers, gates -/

/-- R243, R248, R249, R251: the handle registers: `hmov`, `hclr`, `hkind`, `hsave`, `hload`, and `slate`. The model's reading: a T that names no
h register traps ILLEGAL for `hkind` too, as it does for the other words (log entry 18). -/
def Obligations.HandleRegisterWords : Prop :=
  ∀ s grd src v r, Performs s grd src v r → unitBusy (me s) 9 = false →
    let c := s.cur.1
    let t := s.cur.2
    let x := me s
    let n := v.extractLsb' 0 3
    (∀ h : BitVec 3,
      (8 ≤ v.toNat → exec (.hmov grd src h) s = .next (faultWord r c t .illegal) ∧
        exec (.hclr grd src) s = .next (faultWord r c t .illegal) ∧ exec (.hkind grd src) s = .next (faultWord r c t .illegal)) ∧
      (v.toNat < 8 →
        exec (.hmov grd src h) s = .next (modThr r c t (fun x =>
          resultUnderWay { x with h := if n = h then x.h else rset (rset x.h n 0) h (rget x.h n) } 9 0)) ∧
        exec (.hclr grd src) s = .next (modThr r c t (fun x => resultUnderWay { x with h := rset x.h n 0 } 9 0)) ∧
        exec (.hkind grd src) s = .next (wordDone r c t 9 (kindWord r c (rget x.h n)))) ∧
      (64 ≤ v.toNat → exec (.hsave grd src h) s = .next (faultWord r c t .illegal)) ∧
      (v.toNat < 64 → rget x.h h ≠ 0 → (checkEnd r c x.ctx.toNat (rget x.h h)).isNone = true →
        exec (.hsave grd src h) s = .next (faultWord r c t .handle)) ∧
      (v.toNat < 64 → (rget x.h h = 0 ∨ (checkEnd r c x.ctx.toNat (rget x.h h)).isSome = true) →
        Deferred s r [.hsave (v.extractLsb' 0 6) (rget x.h h)] (fun s => wordDone s c t 9 0) (exec (.hsave grd src h) s)) ∧
      (65 ≤ v.toNat → exec (.hload grd src h) s = .next (faultWord r c t .illegal)) ∧
      (v.toNat < 64 → exec (.hload grd src h) s = .next (modThr r c t (fun x =>
        resultUnderWay { x with h := rset x.h h (savedHandle r c x v.toNat) } 9 0))) ∧
      (v.toNat = 64 → exec (.hload grd src h) s = .next (modThr r c t (fun x =>
        resultUnderWay { x with
          h := rset x.h h (match x.msg.lane with | some (.installed k) => k | _ => 0)
          msg := { x.msg with lane := none } } 9 0)))) ∧
    exec (.slate grd src) s = .next (wordDone r c t 9 x.slate)

/-- R234, R236, R239, R244, R248: `chnew` makes a home, a receive end and a send end with the next eid and all credits, or gives two null handles
where there is no room: not so many free slots of the 192 of the channel pool, not two free entries of the 256 of the end table, or no even eid of
the die free with the next; `hdup` gives away credits, and copies a stage handle, or gives a null handle where there is no entry or eid. The model's
choice: an eid is used while anything in the device names it, whatever its context (log entry 37). -/
def Obligations.ChannelsAndDuplicates : Prop :=
  ∀ s grd src v r, Performs s grd src v r → unitBusy (me s) 9 = false →
    let c := s.cur.1
    let t := s.cur.2
    let x := me s
    let ctx := x.ctx.toNat
    let depth := v.toNat % 128
    let pri := v.toNat / 256
    let bad := depth = 0 ∨ 64 < depth ∨ v.toNat / 128 % 2 = 1 ∨ 4 ≤ pri
    (∀ hr hs : BitVec 3,
      (bad → exec (.chnew grd src hr hs) s = .next (faultWord r c t .illegal)) ∧
      (¬bad → channelRoom r c depth = none → exec (.chnew grd src hr hs) s = .next (modThr r c t (fun x =>
        resultUnderWay { x with h := rset (rset x.h hr 0) hs 0 } 9 0))) ∧
      (¬bad → ∀ eid, channelRoom r c depth = some eid → exec (.chnew grd src hr hs) s = .next (modThr
        (modCell r c (fun y => { y with
          recvs := y.recvs ++ [⟨eid, ctx, c, 0, [], 0, 0, .active, false, depth, pri, none, [], none, false, none, (0, [])⟩]
          sends := y.sends ++ [⟨eid + 1, ctx, c, eid, 0, depth, 0, 0, false, true⟩]
          homes := y.homes ++ [⟨eid, ctx, depth, pri, [], [⟨eid + 1, c, 0, 0, 0⟩], c, 0, 0, false, []⟩] }))
        c t (fun x => resultUnderWay { x with
          h := rset (rset x.h hr (handleOf 2 ctx eid c)) hs (handleOf 1 ctx (eid + 1) c)
          undo := x.undo ++ [.chnew eid (eid + 1)] } 9 1)))) ∧
    (let slots := ((cellAt r c).homes.map (·.depth)).sum
     let ends := (cellAt r c).sends.length + (cellAt r c).recvs.length
     let used := eidsInUse r
     let first := dieOf c * 2 ^ 18
     (∀ d, 0 < d → (channelRoom r c d = none ↔ 192 < slots + d ∨ 256 < ends + 2 ∨
       ∀ i, i < 2 ^ 18 → i % 2 = 0 → first + i ∈ used ∨ first + i + 1 ∈ used)) ∧
     (∀ d eid, channelRoom r c d = some eid → first ≤ eid ∧ eid < first + 2 ^ 18 ∧ eid % 2 = 0 ∧ eid ∉ used ∧ eid + 1 ∉ used) ∧
     (allocEid r (dieOf c) 1 = none ↔ ∀ i, i < 2 ^ 18 → first + i ∈ used) ∧
     (∀ k, allocEid r (dieOf c) 1 = some k → first ≤ k ∧ k < first + 2 ^ 18 ∧ k ∉ used)) ∧
    (∀ h : BitVec 3, 8 ≤ v.toNat → exec (.hdup grd src h) s = .next (faultWord r c t .illegal)) ∧
    (∀ h : BitVec 3, v.toNat < 8 →
      let n := (rget x.la 9#4).toNat % 128
      match checkEnd r c ctx (rget x.h (v.extractLsb' 0 3)) with
      | some (.stage _ _) => exec (.hdup grd src h) s = .next (modThr r c t (fun x =>
          resultUnderWay { x with h := rset x.h h (rget x.h (v.extractLsb' 0 3)) } 9 1))
      | some (.send e) =>
        ((e.orphan = true ∨ n = 0 ∨ e.w - (e.ns - e.ck) ≤ n) → exec (.hdup grd src h) s = .next (faultWord r c t .handle)) ∧
        (e.orphan = false → 0 < n → n < e.w - (e.ns - e.ck) →
          let new := if (cellAt r c).sends.length + (cellAt r c).recvs.length < 256 then allocEid r (dieOf c) 1 else none
          (new = none → exec (.hdup grd src h) s = .next (modThr r c t (fun x => resultUnderWay { x with h := rset x.h h 0 } 9 0))) ∧
          (∀ k, new = some k →
            Deferred s (modThr (modCell r c (fun y => { y with
                sends := y.sends.map (fun f => if f.eid = e.eid then { f with w := f.w - n } else f) ++
                  [⟨k, e.ctx, e.home, e.chan, 0, n, 0, 0, false, false⟩] })) c t (fun x => { x with undo := x.undo ++ [.hdup e.eid k n] }))
              [.send (.register k) 0 0 [] 0]
              (fun s => modThr s c t (fun x => resultUnderWay { x with h := rset x.h h (handleOf 1 ctx k c) } 9 1))
              (exec (.hdup grd src h) s)))
      | _ => exec (.hdup grd src h) s = .next (faultWord r c t .handle))

/-- R243, R245, R246, R250: `snd`, `sndh`, `gsnd` and `close` check the end, its grant and its class, and hold a send. The model's reading:
`close` of an orphaned send end is checked against the grants like any other (log entry 20). -/
def Obligations.SendWords : Prop :=
  ∀ s grd src v r, Performs s grd src v r → unitBusy (me s) 9 = false →
    let c := s.cur.1
    let t := s.cur.2
    let x := me s
    let ctx := x.ctx.toNat
    let h := rget x.h (v.extractLsb' 0 3)
    let done : State → State := fun s => wordDone s c t 9 0
    (∀ (n : BitVec 3) (k : BitVec 4),
      (8 ≤ v.toNat → exec (.snd grd src n k) s = .next (faultWord r c t .illegal) ∧ exec (.close grd src) s = .next (faultWord r c t .illegal)) ∧
      (v.toNat < 8 →
        match checkEnd r c ctx h with
        | some (.send e) =>
          (e.orphan = true → exec (.snd grd src n k) s = .next (faultWord r c t .handle)) ∧
          (e.orphan = false → grantCell r c ctx e.home = false → exec (.snd grd src n k) s = .next (faultWord r c t .endpoint)) ∧
          (e.orphan = false → grantCell r c ctx e.home = true →
            Deferred s r [.send (.chan e.eid) (k.setWidth 5) 0 (payload x (n.toNat + 1)) 1] done (exec (.snd grd src n k) s)) ∧
          (grantCell r c ctx e.home = false → exec (.close grd src) s = .next (faultWord r c t .endpoint)) ∧
          (grantCell r c ctx e.home = true →
            Deferred s r [.send (.closeSend e.eid (v.extractLsb' 0 3)) 0 0 [] 1] done (exec (.close grd src) s))
        | some (.stage i lid) =>
          ((stageAt r (dieOf c) i).cls.toNat ≠ k.toNat → exec (.snd grd src n k) s = .next (faultWord r c t .handle)) ∧
          ((stageAt r (dieOf c) i).cls.toNat = k.toNat → grantStage r c ctx i = false →
            exec (.snd grd src n k) s = .next (faultWord r c t .endpoint)) ∧
          ((stageAt r (dieOf c) i).cls.toNat = k.toNat → grantStage r c ctx i = true →
            Deferred s r [.send (.stage i lid) (k.setWidth 5) 0 (payload x (n.toNat + 1)) 1] done (exec (.snd grd src n k) s)) ∧
          Deferred s r [.send (.closeStage (v.extractLsb' 0 3)) 0 0 [] 1] done (exec (.close grd src) s)
        | some (.recv e) =>
          exec (.snd grd src n k) s = .next (faultWord r c t .handle) ∧
          Deferred s r [.send (.closeRecv e.eid (v.extractLsb' 0 3)) 0 0 [] 1] done (exec (.close grd src) s)
        | none => exec (.snd grd src n k) s = .next (faultWord r c t .handle) ∧ exec (.close grd src) s = .next (faultWord r c t .handle)) ∧
      (256 ≤ v.toNat → exec (.gsnd grd src n k) s = .next (faultWord r c t .illegal)) ∧
      (v.toNat < 256 →
        let g := groupAt r (dieOf c) v.toNat
        ((g.getLsbD 63 = false ∨ g.toNat / 2 ^ 48 % 2 ^ 12 ≠ ctx ∨ grantGroup r c ctx v.toNat = false) →
          exec (.gsnd grd src n k) s = .next (faultWord r c t .endpoint)) ∧
        (g.getLsbD 63 = true → g.toNat / 2 ^ 48 % 2 ^ 12 = ctx → grantGroup r c ctx v.toNat = true →
          Deferred s r [.send (.group v.toNat 0) (k.setWidth 5) 0 (payload x (n.toNat + 1)) 1] done (exec (.gsnd grd src n k) s))) ∧
      (let m := rget x.la 9#4
       (8 ≤ v.toNat ∨ 8 ≤ m.toNat → exec (.sndh grd src n k) s = .next (faultWord r c t .illegal)) ∧
       (v.toNat < 8 → m.toNat < 8 → (∀ e, checkEnd r c ctx h = some (.send e) → e.orphan = true) →
        exec (.sndh grd src n k) s = .next (faultWord r c t .handle)) ∧
       (v.toNat < 8 → m.toNat < 8 → ∀ e, checkEnd r c ctx h = some (.send e) → e.orphan = false →
        let k' := rget x.h (m.extractLsb' 0 3)
        (∀ f, checkEnd r c ctx k' = some (.send f) →
          (f.eid = e.eid → exec (.sndh grd src n k) s = .next (faultWord r c t .handle)) ∧
          (f.eid ≠ e.eid → grantCell r c ctx e.home = false → exec (.sndh grd src n k) s = .next (faultWord r c t .endpoint)) ∧
          (f.eid ≠ e.eid → grantCell r c ctx e.home = true →
            Deferred s r [.send (.move e.eid (m.extractLsb' 0 3) f.eid false) 16 k (payload x (n.toNat + 1)) 1] done (exec (.sndh grd src n k) s))) ∧
        (∀ f, checkEnd r c ctx k' = some (.recv f) →
          (f.eid = e.chan → exec (.sndh grd src n k) s = .next (faultWord r c t .handle)) ∧
          (f.eid ≠ e.chan → grantCell r c ctx e.home = false → exec (.sndh grd src n k) s = .next (faultWord r c t .endpoint)) ∧
          (f.eid ≠ e.chan → grantCell r c ctx e.home = true →
            Deferred s r [.send (.move e.eid (m.extractLsb' 0 3) f.eid true) 16 k (payload x (n.toNat + 1)) 1] done (exec (.sndh grd src n k) s))) ∧
        ((∀ f, checkEnd r c ctx k' ≠ some (.send f)) → (∀ f, checkEnd r c ctx k' ≠ some (.recv f)) →
          exec (.sndh grd src n k) s = .next (faultWord r c t .handle))))) ∧
    (∀ k, (k = 0 ∨ k.extractLsb' 64 64 ≠ Config.handleMac (k.extractLsb' 0 64) ∨ k.toNat / 2 ^ 48 % 2 ^ 12 ≠ ctx ∨
      k.toNat / 2 ^ 13 % 2 ^ 11 ≠ c) → checkEnd r c ctx k = none)

/-- R235, R247, R395: `rtry` takes the head message of a receive end; it takes nothing where there is none, as at a held end, at a record that is
not active or where the head was queued in this cycle, and nothing where the head is an event. The model's reading: it waits behind the
acquires of its take, as a load does (log entry 21). -/
def Obligations.ReceiveTry : Prop :=
  ∀ s grd src p v r, Performs s grd src v r → unitBusy (me s) 9 = false →
    let c := s.cur.1
    let t := s.cur.2
    let x := me s
    let missed : Word → State := fun y => modThr r c t (fun x =>
      resultUnderWay { x with p := if p = 0 then x.p else rset x.p p false } 9 y)
    (8 ≤ v.toNat → exec (.rtry grd src p) s = .next (faultWord r c t .illegal)) ∧
    (acquiring r c t = true → v.toNat < 8 → exec (.rtry grd src p) s = .next s) ∧
    (acquiring r c t = false → v.toNat < 8 → (∀ e, checkEnd r c x.ctx.toNat (rget x.h (v.extractLsb' 0 3)) ≠ some (.recv e)) →
      exec (.rtry grd src p) s = .next (faultWord r c t .handle)) ∧
    (acquiring r c t = false → v.toNat < 8 → ∀ e, checkEnd r c x.ctx.toNat (rget x.h (v.extractLsb' 0 3)) = some (.recv e) →
      let justQueued : Note → Prop := fun n => e.news.1 = s.cyc.toNat ∧ n.ai ∈ e.news.2
      (headNote e = none ∨ e.held = true ∨ e.st ≠ .active ∨ (∃ n, headNote e = some n ∧ justQueued n) →
        exec (.rtry grd src p) s = .next (missed 0)) ∧
      (∀ n m, headNote e = some n → ¬justQueued n → noteSlot r e.home e.eid n = some m →
        (m.isClose = true ∨ m.msg.lane ≠ none ∨ m.msg.slate.toNat / 2 ^ 47 % 32 ∈ [16, 17] →
          exec (.rtry grd src p) s = .next (missed 0x4000000000000000#64)) ∧
        (m.isClose = false → m.msg.lane = none → m.msg.slate.toNat / 2 ^ 47 % 32 ∉ [16, 17] →
          ∃ s', exec (.rtry grd src p) s = .next s' ∧ (p ≠ 0 → rget (me s').p p = true) ∧
            (∀ i, i < 8 → rget (me s').g (BitVec.ofNat 5 (24 + i)) = m.msg.payload.getD i 0) ∧
            (∀ g : BitVec 5, g.toNat < 24 → rget (me s').g g = rget x.g g) ∧
            rget (me s').y 9#4 = .busy (slateFor m.msg.slate e.ctx e.pri) ∧ s'.mem = s.mem ∧
            (x.phase = .revocable → (me s').consumed = x.consumed ++ [⟨e.eid, n, e.home⟩] ∧ s'.flights = s.flights) ∧
            (x.phase = .irrevocable → (me s').consumed = x.consumed ∧
              s'.flights = s.flights ++ [⟨s.nextFlight, e.home, .free e.eid 0 e.home n.slot n.sid, s.cyc.toNat⟩]))))

/-- R265, R266, R267, R268, R269, R272, R273: the reel and watch words. The model's reading: they wait behind the acquires of their take, and `rinit`,
`rrel`, `rawait` and `rpeek` behind the engines' memory operations; `rpeek` waits behind an earlier request on its bytes (log entry 111). -/
def Obligations.ReelWords : Prop :=
  ∀ s grd src v r, Performs s grd src v r → unitBusy (me s) 15 = false →
    let c := s.cur.1
    let t := s.cur.2
    let x := me s
    let a := rget x.la 15#4
    let i := v.extractLsb' 0 32
    let k := v.toNat % 256
    let z := v.toNat / 256
    let done : State → State := fun s => wordDone s c t 15 0
    exec (.mwait grd src) s = .next (modThr r c t (fun x => waiting x 15 (.mwait s.cyc.toNat i))) ∧
    (acquiring r c t = true ∨ engineMem (cellAt r c) t = true → exec (.rinit grd src) s = .next s ∧ exec (.rrel grd src) s = .next s ∧
      exec (.rawait grd src) s = .next s ∧ exec (.rpeek grd src) s = .next s) ∧
    (acquiring r c t = true → exec (.mon grd src) s = .next s) ∧
    (acquiring r c t = false → engineMem (cellAt r c) t = false →
      (¬(k ≤ 12 ∧ 4 ≤ z ∧ z ≤ 12) → exec (.rinit grd src) s = .next (faultWord r c t .illegal)) ∧
      (k ≤ 12 → 4 ≤ z → z ≤ 12 →
        let e : Target → Effect := fun tgt => .rinit tgt (BitVec.ofNat 128 (z * 2 ^ 104 + k * 2 ^ 96))
        match referenced r c t a false (16 + 2 ^ (k + z)) true with
        | .error f => exec (.rinit grd src) s = .next (faultWord r c t f)
        | .ok (.here tgt) => Deferred s r [e tgt] done (exec (.rinit grd src) s)
        | .ok (.away tgt) => Requested s r (e tgt) (.header tgt (16 + 2 ^ (k + z)) true .access) done (exec (.rinit grd src) s)) ∧
      (match referenced r c t a false 16 true with
       | .error f => exec (.rrel grd src) s = .next (faultWord r c t f)
       | .ok (.here tgt) =>
         let h := sixteenAt r tgt
         let d := (i - h.extractLsb' 32 32).toNat
         let good := goodHeader h ∧ d < 16 ∧ d < (h.extractLsb' 0 32 - h.extractLsb' 32 32).toNat
         (¬good → exec (.rrel grd src) s = .next (faultWord r c t .format)) ∧
         (good → Deferred s r [.rrel tgt i] done (exec (.rrel grd src) s))
       | .ok (.away tgt) => Requested s r (.rrel tgt i) (.header tgt 16 true (.release i)) done (exec (.rrel grd src) s)) ∧
      (match referenced r c t a false 16 false with
       | .error f => exec (.rawait grd src) s = .next (faultWord r c t f) ∧ exec (.rpeek grd src) s = .next (faultWord r c t f)
       | .ok (.here tgt) =>
         let h := sixteenAt r tgt
         (¬goodHeader h → exec (.rawait grd src) s = .next (faultWord r c t .format)) ∧
         (goodHeader h → exec (.rawait grd src) s = .next (modThr r c t (fun x => waiting x 15 (.rawait tgt a i false)))) ∧
         exec (.rpeek grd src) s = .next (if directAhead r c t ((directKeys tgt 16).getD []) then s
           else if reelOk h then wordDone r c t 15 (h.extractLsb' 0 64) else faultWord r c t .format) ∧ (reelOk h = true ↔ goodHeader h)
       | .ok (.away tgt) => canRequest r c t = true →
         exec (.rawait grd src) s = .next (modThr (addRequest r c t x.pc (x.words + 1) (.header tgt 16 false .wait)).1 c t
           (fun x => waiting x 15 (.rawait tgt a i false))) ∧
         exec (.rpeek grd src) s = .next (modThr (addRequest r c t x.pc (x.words + 1) (.header tgt 16 false .peek)).1 c t
           (fun x => waiting x 15 (.request r.nextReq))))) ∧
    (acquiring r c t = false →
      (match referenced r c t v true 16 false with
       | .error f => exec (.mon grd src) s = .next (faultWord r c t f)
       | .ok (.here tgt) => ∀ key, (directKeys tgt 16).bind (·.head?) = some key →
           exec (.mon grd src) s = .next (wordDone (armWatch r c t.toNat x.ctx.toNat key) c t 15 0)
       | .ok (.away tgt) => canRequest r c t = true → targetRoom r c t tgt 16 = true →
         exec (.mon grd src) s = .next (modThr (addRequest r c t x.pc (x.words + 1) (.header tgt 16 false .watch)).1 c t
           (fun x => waiting x 15 (.request r.nextReq)))))

/-- R301, R304, R305, R306, R307, R311: the barrier words check their reference, their operands and the word's context, and hold their effect
or wait in their latch. -/
def Obligations.BarrierWords : Prop :=
  ∀ s grd src v r, Performs s grd src v r → unitBusy (me s) 14 = false →
    let c := s.cur.1
    let t := s.cur.2
    let x := me s
    let ctx := x.ctx.toNat
    let a := rget x.la 14#4
    let cell := v.toNat / 2 ^ 16
    let b := v.extractLsb' 0 9
    let w := word128At r (locKey c (0x16000 + 16 * b.toNat))
    let valid := w.getLsbD 115 = true
    let mine := valid ∧ w.toNat / 2 ^ 116 = ctx
    let pend := (w.extractLsb' 0 32).toInt
    let done : State → State := fun s => wordDone s c t 14 0
    (a.toNat < 2 ^ 16 → barrierRef v → cell < 1024 → cell = c →
      (valid → w.toNat / 2 ^ 116 ≠ ctx → exec (.binit grd src) s = .next (faultWord r c t .perm)) ∧
      (¬(valid ∧ w.toNat / 2 ^ 116 ≠ ctx) → Deferred s r [.binit b (a.extractLsb' 0 16)] done (exec (.binit grd src) s)) ∧
      (¬mine → exec (.barr grd src) s = .next (faultWord r c t .perm)) ∧
      (mine → Deferred s r [.barr c b (a.extractLsb' 0 16)] done (exec (.barr grd src) s))) ∧
    (a.toNat < 2 ^ 16 → barrierRef v → cell < 1024 → cell ≠ c →
      exec (.binit grd src) s = .next (faultWord r c t .illegal) ∧
      (grantCell r c ctx cell = false → exec (.barr grd src) s = .next (faultWord r c t .endpoint)) ∧
      (grantCell r c ctx cell = true →
        Requested s r (.barr cell b (a.extractLsb' 0 16)) (.barr cell b) done (exec (.barr grd src) s))) ∧
    (a.toNat < 2 ^ 16 → barrierRef v → 1024 ≤ cell → exec (.barr grd src) s = .next (faultWord r c t .perm)) ∧
    (2 ^ 16 ≤ a.toNat ∨ ¬barrierRef v →
      exec (.binit grd src) s = .next (faultWord r c t .illegal) ∧ exec (.barr grd src) s = .next (faultWord r c t .illegal)) ∧
    (2 ^ 32 ≤ a.toNat ∨ ¬barrierRef v ∨ cell ≠ c →
      exec (.bexp grd src) s = .next (faultWord r c t .illegal) ∧ ∀ ph, exec (.bwait grd src ph) s = .next (faultWord r c t .illegal)) ∧
    (a.toNat < 2 ^ 32 → barrierRef v → cell = c → c < 1024 →
      let n := a.toNat
      let held : Nat := (x.effects.map (fun e => match e with | .bexp b' m => if b' = b then m else 0 | _ => 0)).sum
      (n = 0 ∨ 2 ^ 31 ≤ n → exec (.bexp grd src) s = .next (faultWord r c t .illegal)) ∧
      (0 < n → n < 2 ^ 31 → ¬mine → exec (.bexp grd src) s = .next (faultWord r c t .perm)) ∧
      (0 < n → n < 2 ^ 31 → mine → 2 ^ 31 ≤ pend + held + n → exec (.bexp grd src) s = .next (faultWord r c t .barOverflow)) ∧
      (0 < n → n < 2 ^ 31 → mine → pend + held + n < 2 ^ 31 → Deferred s r [.bexp b n] done (exec (.bexp grd src) s)) ∧
      (∀ ph : BitVec 1,
        (acquiring r c t = true → exec (.bwait grd src ph) s = .next s) ∧
        (acquiring r c t = false →
        (¬mine → exec (.bwait grd src ph) s = .next (faultWord r c t .perm)) ∧
        (mine → w.getLsbD 114 = ph.getLsbD 0 → exec (.bwait grd src ph) s = .next (wordDone r c t 14
          (BitVec.ofNat 64 (w.toNat / 2 ^ 80 % 2 ^ 16 + (if w.getLsbD 114 then 2 ^ 16 else 0))))) ∧
        (mine → w.getLsbD 114 ≠ ph.getLsbD 0 → exec (.bwait grd src ph) s = .next (modThr r c t (fun x =>
          waiting x 14 (.bwait b (ph.getLsbD 0) s.cyc.toNat (a.extractLsb' 0 32)))))))) ∧
    (acquiring r c t = false →
     let set := a.extractLsb' 0 2
     let q := rget (dieAt r (dieOf c)).wired set
     let part := q.getLsbD 63 = true ∧ q.toNat / 2 ^ 48 % 2 ^ 12 = ctx ∧ c < 1024 ∧ q.getLsbD (32 + c % 256 / 16) = true ∧ q.getLsbD (16 + c % 16) = true
     (4 ≤ a.toNat ∨ 2 ^ 32 ≤ v.toNat → exec (.hwbar grd src) s = .next (faultWord r c t .illegal)) ∧
     (a.toNat < 4 → v.toNat < 2 ^ 32 → ¬part → exec (.hwbar grd src) s = .next (faultWord r c t .perm)) ∧
     (a.toNat < 4 → v.toNat < 2 ^ 32 → part → x.phase = .revocable → workDone r c t = true →
       exec (.hwbar grd src) s = .next (modThr r c t (fun x => { x with pinning := true, words := x.words + 1 }))) ∧
     (a.toNat < 4 → v.toNat < 2 ^ 32 → part → x.phase = .irrevocable → loadsDone r c t = true → x.effects.any (aredWithin c .die) = false →
       effectsDone r c t .die = true →
       exec (.hwbar grd src) s = .next (modThr r c t (fun x => waiting x 14 (.hwbar set s.cyc.toNat (v.extractLsb' 0 32))))))

/-- R303, R314, R316, R317: `gset` and `gdec` check the gate, the message's end and the count, and hold their effect. A gate that is armed, or that
a held `gset` of the take arms, traps PERM; a message needs a channel's send end. The model's reading: `gdec` names no bit of A, so an A that
is not 0 traps ILLEGAL (log entry 19). -/
def Obligations.GateWords : Prop :=
  ∀ s grd src v r, Performs s grd src v r → unitBusy (me s) 14 = false →
    let c := s.cur.1
    let t := s.cur.2
    let x := me s
    let ctx := x.ctx.toNat
    let a := rget x.la 14#4
    let b := rget x.lb 14#4
    let w := (gateAt r (groveOf c) v.toNat).word
    let mine := w.getLsbD 63 = true ∧ w.toNat / 2 ^ 48 % 2 ^ 12 = ctx
    let done : State → State := fun s => wordDone s c t 14 0
    (128 ≤ v.toNat → exec (.gset grd src) s = .next (faultWord r c t .illegal)) ∧
    (128 ≤ v.toNat ∨ a ≠ 0 → exec (.gdec grd src) s = .next (faultWord r c t .illegal)) ∧
    (v.toNat < 128 →
      let held := (x.effects.filter (fun e => match e with | .gdec j => j.toNat == v.toNat | _ => false)).length
      (a = 0 → ¬mine → exec (.gdec grd src) s = .next (faultWord r c t .perm)) ∧
      (a = 0 → mine → w.toNat % 2 ^ 32 ≤ held → exec (.gdec grd src) s = .next (faultWord r c t .gateUnderflow)) ∧
      (a = 0 → mine → held < w.toNat % 2 ^ 32 → Deferred s r [.gdec (v.extractLsb' 0 7)] done (exec (.gdec grd src) s)) ∧
      (2 ^ 32 ≤ a.toNat ∨ b &&& ~~~0x70F07#64 ≠ 0 → exec (.gset grd src) s = .next (faultWord r c t .illegal)) ∧
      (a.toNat < 2 ^ 32 → b &&& ~~~0x70F07#64 = 0 →
        (¬mine ∨ w.getLsbD 62 = true ∨ (∃ n k cls sub ws m, Effect.send (.gate (groveOf c) v.toNat n k) cls sub ws m ∈ x.effects) →
          exec (.gset grd src) s = .next (faultWord r c t .perm)) ∧
        (mine → w.getLsbD 62 = false →
          (∀ n k cls sub ws m, Effect.send (.gate (groveOf c) v.toNat n k) cls sub ws m ∉ x.effects) →
          (∀ e, checkEnd r c ctx (rget x.h (b.extractLsb' 0 3)) = some (.send e) →
            (e.orphan = true → exec (.gset grd src) s = .next (faultWord r c t .handle)) ∧
            (e.orphan = false → grantCell r c ctx e.home = false → exec (.gset grd src) s = .next (faultWord r c t .endpoint)) ∧
            (e.orphan = false → grantCell r c ctx e.home = true →
              Deferred s r [.send (.gate (groveOf c) v.toNat (a.extractLsb' 0 32) e.eid) ((b.extractLsb' 8 4).setWidth 5) 0
                (payload x (b.toNat / 2 ^ 16 + 1)) 1] done (exec (.gset grd src) s))) ∧
          (∀ e, checkEnd r c ctx (rget x.h (b.extractLsb' 0 3)) = some (.recv e) → exec (.gset grd src) s = .next (faultWord r c t .handle)) ∧
          (∀ i lid, checkEnd r c ctx (rget x.h (b.extractLsb' 0 3)) = some (.stage i lid) →
            exec (.gset grd src) s = .next (faultWord r c t .handle)) ∧
          (checkEnd r c ctx (rget x.h (b.extractLsb' 0 3)) = none → exec (.gset grd src) s = .next (faultWord r c t .handle)))))

/-! ## Engines -/

/-- R18, R43, R77, R144, R147, R164, R165, R216: every word of `vx`, `mx` and `cp` enters its unit's queue with its operands, once its take
holds the engine files (`cp` needs none); where a revocable take has no room for what it would hold, the take becomes irrevocable first, once its
engine work is done; it joins the waiting takes where it does not, and waits where the queue is full: an entry freed in
this cycle is not taken yet, and another thread that began to wait earlier goes first. The model's reading: a word that loads, stores or copies
waits behind the acquires of its take, and one that names e3 for an e3 that a load has still to write (log entry 22). -/
def Obligations.EngineWordsEnterQueues : Prop :=
  ∀ s i u grd src v r, engineUnit i = some u → i.trigger? = some (grd, src) → Performs s grd src v r →
    let c := s.cur.1
    let t := s.cur.2
    let y := cellAt r c
    let mine := y.efOwner = some t.toNat ∧ y.efReady ≤ r.cyc.toNat
    let q := if u = 11 then y.vxq else if u = 12 then y.mxq else y.cpq
    let freed := if y.qFreed.1 = r.cyc.toNat then y.qFreed.2.count u.toNat else 0
    let room := queueRoom r c t u q.length
    let served : Cell → Cell := fun z => { z with qWait := z.qWait.filter (· != (u.toNat, t.toNat)) }
    let orders : Prop := engineMemory i = true ∨ isLoadOp i = true ∨ (me s).phase = .irrevocable ∧ isEffOp i = true ∨ u = 13 ∧ readsE3 i = true
    let waits : Prop := orders ∧ acquiring r c t = true ∨ readsE3 i = true ∧ e3Busy r c t = true
    let push : EngOp → Cell → Cell := fun o z =>
      if u = 11 then { z with vxq := z.vxq ++ [o] } else if u = 12 then { z with mxq := z.mxq ++ [o] } else { z with cpq := z.cpq ++ [o] }
    (mine ∨ u = 13 → room = true → ¬waits →
      ∃ o, Sampled r c t i u v o ∧
        (u = 12 → (∀ n, namedTile i = some n → o.tcfgA = rget y.tcfg n) ∧
          o.tcfgB = rget y.tcfg (v.extractLsb' 0 3)) ∧
        ((me s).phase = .revocable → fits (me s) (heldPlaces o (me s).words) = true ∨ u = 13 →
          exec i s = .next { modCell (modThr (modCell r c (push o)) c t (fun x =>
            waiting { x with effects := x.effects ++ heldPlaces o x.words } u .engine)) c served with nextOp := r.nextOp + 1 }) ∧
        ((me s).phase = .revocable → fits (me s) (heldPlaces o (me s).words) = false → u ≠ 13 →
          exec i s = .next (if workDone r c t then modThr r c t (fun x => { x with pinning := true, words := x.words + 1 }) else s)) ∧
        ((me s).phase = .irrevocable → exec i s = .next { modCell (modThr (modCell r c (push o)) c t
          (fun x => waiting x u .engine)) c served with nextOp := r.nextOp + 1 })) ∧
    (mine ∨ u = 13 → room = false ∨ waits → exec i s = .next s) ∧
    (room = true ↔ q.length + freed < 2 ∧ ∀ e, (y.qWait.filter (fun e => e.1 == u.toNat)).head? = some e → e.2 = t.toNat) ∧
    (u ≠ 13 → y.efOwner = some t.toNat → r.cyc.toNat < y.efReady → exec i s = .next s) ∧
    (u ≠ 13 → y.efOwner ≠ some t.toNat → t.toNat ∉ y.efWait →
      exec i s = .next (modCell r c (fun z => { z with efWait := z.efWait ++ [t.toNat] }))) ∧
    (u ≠ 13 → y.efOwner ≠ some t.toNat → t.toNat ∈ y.efWait → exec i s = .next s)

/-- R82, R104, R106 to R117, R143, R144, R150, R151, R153 to R158: what the vector operations on registers leave. An element-by-element operation
writes every element of its destination from those of its operands; a floating sum, difference, product, fused product or reciprocal is the
exact value rounded once (a zero sum of `vadd`, `vsub` and `vfma` is +0), so is an inverse square root, and vxst gains nv and nan as Tables 7.5 and
7.6 say. `vexp2` and `vlog2` apply the model's function of one element, whose values are stated on the operands of Table 7.6, and where 2^x lies
beyond the finite codes or below them; the rounding of their other values (R152) is not. Broadcast and permutation place theirs; `vcmp` compares by
R151 and counts. Reductions go up the fixed tree, `vscan` adds in element order, `vmerge` takes the next slice, `vamax` and a tracking
`vcvt` keep the largest magnitude and count the NaNs, and `vcvt` converts every element, block by block where a format has blocks. The model's
readings: log entries 98 (zero sums), 99 (`.sr` with `.nan`), 101, 102 (blocks that hold an infinity or a NaN), 103 (the first step of a merge),
114 (a NaN that becomes +0 is invalid and no saturation). -/
def Obligations.VectorLanes : Prop :=
  (∀ s c o, vxReady s c o →
    let v := (cellAt s c).v
    let a := rget v (o.a.extractLsb' 0 5)
    let b := rget v (o.b.extractLsb' 0 5)
    let t := rget v (o.t.extractLsb' 0 5)
    let th := BitVec.ofNat 3 o.th
    let x := thr s c th
    let leaves : State → RegFile 5 Vec → Word → Prop := fun s' v' y => exec (.vxOpComplete c) s = .next s' ∧
      filesBecome s s' c v' (cellAt s c).t (cellAt s c).acc ∧ (cellAt s' c).vxf = none ∧ latchHolds s' c th 11 (cellAt s c).vxq y
    (∀ ty d f, lanewise o.insn = some (ty, d, f) → ∃ s' vd, exec (.vxOpComplete c) s = .next s' ∧
      filesBecome s s' c (rset v d vd) (cellAt s c).t (cellAt s c).acc ∧ (cellAt s' c).vxf = none ∧ latchHolds s' c th 11 (cellAt s c).vxq 0 ∧
      let w := elWidth ty
      ∀ i, i < 2048 / w → lane w vd i = f (lane w a i) (lane w b i) (lane w t i) % 2 ^ w) ∧
    (∀ ty bad hasNan, laneInvalid o.insn = some (ty, bad, hasNan) → ∃ s', exec (.vxOpComplete c) s = .next s' ∧
      let w := elWidth ty
      let at_ : (Ext → Ext → Ext → Bool) → Nat → Bool := fun f i =>
        ty != .i32 && f (codeVal (tyFmt ty) (lane w a i)) (codeVal (tyFmt ty) (lane w b i)) (codeVal (tyFmt ty) (lane w t i))
      (thr s' c th).vxst = gained x.vxst false ((List.range (2048 / w)).any (fun i => at_ bad i && !at_ hasNan i))
        ((List.range (2048 / w)).any (at_ bad))) ∧
    (∀ g src ty d, o.insn = .vbcast g src ty d → ∃ s' vd, leaves s' (rset v d vd) 0 ∧ (thr s' c th).vxst = x.vxst ∧
      ∀ i, i < 2048 / elWidth ty → lane (elWidth ty) vd i = o.t.toNat % 2 ^ elWidth ty) ∧
    (∀ g src ty d, o.insn = .vperm g src ty d → ∃ s' vd, leaves s' (rset v d vd) 0 ∧ (thr s' c th).vxst = x.vxst ∧
      let w := elWidth ty
      ∀ i, i < 2048 / w → lane w vd i = lane w a (lane w t i % (2048 / w))) ∧
    (∀ g src k ty d, o.insn = .vcmp g src k ty d → ∃ s' vd,
      let w := elWidth ty
      let els := List.range (2048 / w)
      let isNan : Nat → Bool := fun i => extNan (codeVal (tyFmt ty) (lane w a i)) || extNan (codeVal (tyFmt ty) (lane w t i))
      leaves s' (rset v d vd) (BitVec.ofNat 64 (els.filter (fun i => compared k ty (lane w a i) (lane w t i))).length) ∧
        (thr s' c th).vxst = gained x.vxst false false ((k == .lt || k == .le) && ty != .i32 && els.any isNan) ∧
        ∀ i, i < 2048 / w → lane w vd i = if compared k ty (lane w a i) (lane w t i) then 2 ^ w - 1 else 0) ∧
    (∀ g src ty, o.insn = .vredadd g src ty → ∃ s' xs, xs.length = 2048 / elWidth ty ∧
      (∀ i, i < 2048 / elWidth ty → Widened ty (lane (elWidth ty) t i) (xs.getD i 0)) ∧
      let op := sumEl (if ty = .i32 then .i32 else .f32)
      leaves s' v (inY ty (treeOf ty op xs)) ∧ (thr s' c th).vxst = gained x.vxst false (treeInvalid ty op xs) (treeInvalid ty op xs)) ∧
    (∀ g src ty, o.insn = .vredmax g src ty → ∃ s' xs, xs.length = 2048 / elWidth ty ∧
      (∀ i, i < 2048 / elWidth ty → Widened ty (lane (elWidth ty) t i) (xs.getD i 0)) ∧
      leaves s' v (inY ty (treeOf ty (fun a b => if ty = .i32 then (if int32 a ≤ int32 b then b else a) else minmaxFp specF32 false a b) xs)) ∧
        (thr s' c th).vxst = x.vxst) ∧
    (∀ g src ty d, o.insn = .vscan g src ty d → ∃ s' vd, ∃ cs : Nat → Nat,
      let w := elWidth ty
      let bad := ty != .i32 && (List.range (2048 / w)).any (fun i => oppositeInf (codeVal (tyFmt ty) (cs i)) (codeVal (tyFmt ty) (lane w t i)))
      leaves s' (rset v d vd) (inY ty (cs (2048 / w))) ∧ cs 0 = o.a.toNat % 2 ^ w ∧ (thr s' c th).vxst = gained x.vxst false bad bad ∧
        ∀ i, i < 2048 / w → cs (i + 1) = sumEl ty (cs i) (lane w t i) ∧ lane w vd i = cs (i + 1)) ∧
    (∀ g src ty d, o.insn = .vmerge g src ty d →
      let w := elWidth ty
      let n := o.b.toNat / 2 ^ 12 % 16
      let sl := o.a.toNat % 2 ^ 10
      let bad := ty != .i32 && sl != 0 && (List.range (2048 / w)).any (fun i =>
        oppositeInf (codeVal (tyFmt ty) (lane w (rget v d) i)) (codeVal (tyFmt ty) (lane w t i)))
      (sl ≠ o.b.toNat % 2 ^ 10 → ∃ s', leaves s' v (BitVec.ofNat 64 (o.b.toNat % 2 ^ 16 + 2 ^ 62)) ∧ (thr s' c th).vxst = x.vxst) ∧
      (sl = o.b.toNat % 2 ^ 10 → ∃ s' vd,
        leaves s' (rset v d vd) (BitVec.ofNat 64 (n * 2 ^ 12 + (sl + 1) % 2 ^ 10 + if sl + 1 = 2 ^ n then 2 ^ 63 else 0)) ∧
        (thr s' c th).vxst = gained x.vxst false bad bad ∧ (sl = 0 → vd = t) ∧ (sl ≠ 0 → ∀ i, i < 2048 / w → lane w vd i = sumEl ty (lane w (rget v d) i) (lane w t i)))) ∧
    (∀ g src ty, o.insn = .vamax g src (.acc ty) → ∃ s', leaves s' v 0 ∧ (∀ k, k ≠ o.b.extractLsb' 0 2 → rget (thr s' c th).amax k = rget x.amax k) ∧
      Tracked (rget x.amax (o.b.extractLsb' 0 2)) (rget (thr s' c th).amax (o.b.extractLsb' 0 2))
        ((List.range (2048 / elWidth ty)).map (fun i => codeVal (tyFmt ty) (lane (elWidth ty) t i)))) ∧
    (∀ g src, o.insn = .vamax g src .clr → ∃ s', leaves s' v 0 ∧ (thr s' c th).amax = rset x.amax (o.t.extractLsb' 0 2) 0) ∧
    (∀ g src, o.insn = .vamax g src .rd → ∃ s', leaves s' v (BitVec.ofNat 64 (o.amax.toNat % 2 ^ 31)) ∧
      (thr s' c th).amax = x.amax) ∧
    (∀ g src, o.insn = .vamax g src .nanc → ∃ s', leaves s' v (BitVec.ofNat 64 (o.amax.toNat / 2 ^ 32)) ∧
      (thr s' c th).amax = x.amax) ∧
    (∀ g src blk k amx sr nan vd, o.insn = .vcvt g src blk k amx sr nan vd →
      let sf := vcvtSrc blk k
      let df := vcvtDst blk k
      let band := (rget o.e 5#3).toNat % 2 ^ 16
      let n := if blk = 3 then 128 else 2048 / fmtWidth sf
      let image := t.toNat + if blk = 3 ∧ sf = .i32 then 2 ^ 2048 * (rget v (o.t.extractLsb' 0 5 + 1)).toNat else 0
      let xs : Nat → Ext := imageVal sf band n image
      let d := vd ++ 0#1
      (nan = true → ∀ h, floatShape df = some h → h.nan ≠ none) → (sr = true → (intRange df).isSome = false) → (df = .lbf4 → 0x80 ≤ band ∧ band ≤ 0x7F7F) →
      ∃ s' lo hi img sats inv, RowConverted df nan band n xs (drawOf sr o) img sats inv ∧
        img = BitVec.toNat lo + (if vcvtTwo blk k then 2 ^ 2048 * BitVec.toNat hi else 0) ∧
        leaves s' (if vcvtTwo blk k then rset (rset v d lo) (d + 1) hi else rset v d lo) (BitVec.ofNat 64 sats) ∧
        (thr s' c th).vxst = gained x.vxst (decide (0 < sats)) false inv ∧
        (amx = false → (thr s' c th).amax = x.amax) ∧
        (amx = true → (∀ k, k ≠ o.b.extractLsb' 0 2 → rget (thr s' c th).amax k = rget x.amax k) ∧
          Tracked (rget x.amax (o.b.extractLsb' 0 2)) (rget (thr s' c th).amax (o.b.extractLsb' 0 2)) ((List.range n).map xs)))) ∧
  (∀ ty h a b t, floatShape (tyFmt ty) = some h →
    let f := codeVal (tyFmt ty)
    IeeeIs h (extAdd (f a) (f t)) (addFp (elSpec ty) .rne a t).1 ∧ IeeeIs h (extAdd (f a) (extNeg (f t))) (subFp (elSpec ty) .rne a t).1 ∧
      IeeeIs h (extMul (f a) (f t)) (mulFp (elSpec ty) .rne a t).1 ∧
      IeeeIs h (zeroPos (extAdd (extMul (f a) (f b)) (f t))) (fmaPos (elSpec ty) a b t).1 ∧
      IeeeIs h (extInv (f t)) (rcpFp (elSpec ty) .rne t).1) ∧
  (∀ ty h t, ty = .f32 ∨ ty = .bf16 → floatShape (tyFmt ty) = some h →
    let e := (exp2Fp (elSpec ty) t).1
    let l := (log2Fp (elSpec ty) t).1
    let q := (rsqFp (elSpec ty) t).1
    let inf : Bool → Nat := fun neg => signedCode h neg (h.top + 1)
    match codeVal (tyFmt ty) t with
    | .nan => h.nan = some e ∧ h.nan = some l ∧ h.nan = some q
    | .inf true => e = 0 ∧ h.nan = some l ∧ h.nan = some q
    | .inf false => e = inf false ∧ l = inf false ∧ q = 0
    | .fin neg x =>
      (∀ n : ℤ, x = n → IeeeIs h (.fin false (2 ^ n)) e) ∧ ((h.bias : ℚ) + 1 ≤ x → e = inf false) ∧
      (x ≤ -((h.bias : ℚ) + h.mb) → e = 0) ∧ (-((h.bias : ℚ) + h.mb) < x → x ≤ 1 - ((h.bias : ℚ) + h.mb) → e = 1) ∧
      (x = 0 → l = inf true ∧ q = inf neg) ∧ (x < 0 → h.nan = some l ∧ h.nan = some q) ∧
      (∀ n : ℤ, x = 2 ^ n → IeeeIs h (.fin (decide (n < 0)) n) l) ∧ (0 < x → IsInvRoot h x q))

/-- R43, R77, R78, R144, R145, R159, R164, R165, R175, R215 to R219: the files go to the take that has waited longest, zeroed in 256 cycles
where the context changed (a register that is not zeroed keeps its value or is zero, a free choice of Config: log entry 1; with no holder before
it changed too: 115); a queued operation starts when its engine is free, and
no earlier operation of the other engine conflicts; its faults end the take. What it loads it reads as it starts, where its memory needs no request:
`vld`, `tld`, and the skip list of `mmsk`. An `mx` operation on registers alone that shares none with the one in flight starts and completes beside
it (113). The `cp` unit serves its head: `cpoll` counts the entries, `cpush`
and `cpushn` check the request and the reel header, reserve an entry and hold its kick, or kick it in an irrevocable take; with no entry free
`cpushn` answers 1, and `cpush` waits, and first makes the take irrevocable where all 16 are its own (13). -/
def Obligations.EngineStarts : Prop :=
  (∀ s c t rest, (cellAt s c).efOwner = none → (cellAt s c).efWait = t :: rest →
    let th := BitVec.ofNat 3 t
    let ctx := (thr s c th).ctx.toNat
    let same : Bool := (cellAt s c).efCtx == some ctx
    let kept : Nat → Bool := fun i => same && Config.fileKept s.fresh i
    exec (.engineFileAcquire c) s = .next { modCell s c (fun y => { y with
        efOwner := some th.toNat, efCtx := some ctx, efWait := y.efWait.filter (· != th.toNat), tcfg := Vector.replicate 8 0
        efReady := if same then s.cyc.toNat else s.cyc.toNat + 256
        v := Vector.ofFn (fun (i : Fin 32) => if kept i then y.v[i] else 0)
        t := Vector.ofFn (fun (i : Fin 8) => if kept (32 + i) then y.t[i] else 0)
        acc := Vector.ofFn (fun (i : Fin 4) => if kept (40 + i) then y.acc[i] else 0) }) with fresh := s.fresh + 1 }) ∧
  (∀ s c o rest, (cellAt s c).vxf = none → (cellAt s c).vxq = o :: rest → o.pushed < s.cyc.toNat → (cellAt s c).vxPop ≤ s.cyc.toNat →
    crossWaits ((cellAt s c).mxf.toList ++ (cellAt s c).mxq) o = false →
    let t := BitVec.ofNat 3 o.th
    let fault := withNarrow (vxNarrow s c o) (vxOperandFault s c (thr s c t).ctx.toNat o)
    let begun : State → EngOp → Prop := fun s' p => exec (.vxOpStart c) s = .next s' ∧ (cellAt s' c).vxf = some p ∧ (cellAt s' c).vxq = rest ∧
      s'.mem = s.mem ∧ thr s' c t = thr s c t
    (∀ g src sp part d rs p, fault = none → o.insn = .vld g src sp part d → vmemPlaces s c t o sp part false = .ok rs → ReadHere s c t o rs p →
      ∃ s', begun s' p) ∧
    (fault = none → engineMemory o.insn = false → ∃ s', begun s' { o with
      start := s.cyc.toNat, runs := [], keys := some [], amax := rget (thr s c t).amax (o.t.extractLsb' 0 2) }) ∧
    (fault ≠ none → ∃ s', exec (.vxOpStart c) s = .next s' ∧ TakeEnded s' c t)) ∧
  (∀ s c o rest, (cellAt s c).mxq = o :: rest → o.pushed < s.cyc.toNat → (cellAt s c).mxPop ≤ s.cyc.toNat →
    let t := BitVec.ofNat 3 o.th
    let x := thr s c t
    let fault := mxStartFault s c o
    let crossed := crossWaits ((cellAt s c).vxf.toList ++ (cellAt s c).vxq) o
    let popped : State := modCell s c (fun y => freedQueue 12 1 s.cyc.toNat { y with mxq := rest, mxPop := s.cyc.toNat + 1 })
    let begun : EngOp → Prop := fun p => ∃ s', exec (.mxOpStart c) s = .next s' ∧ (cellAt s' c).mxf = some p ∧ (cellAt s' c).mxq = rest ∧
      s'.mem = s.mem ∧ thr s' c t = x
    (crossed = true → exec (.mxOpStart c) s = .next s) ∧
    (crossed = false → (cellAt s c).mxf = none →
      (fault ≠ none → ∃ s', exec (.mxOpStart c) s = .next s' ∧ TakeEnded s' c t) ∧
      (fault = none → engineMemory o.insn = false → begun { o with start := s.cyc.toNat, runs := [], keys := some [] }) ∧
      (∀ g src sp n rs p, fault = none → o.insn = .tld g src sp n →
        placesOf s c t (spaceOf sp) false (tileRuns o (opShape o.tcfgA) (opFmt o)) = .ok rs → ReadHere s c t o rs p →
        p.data.bind (loadedBandFault p) = none → begun p) ∧
      (∀ g src k n q, fault = none → o.insn = .mmsk g src k n q →
        let a := opShape o.tcfgA
        let off := (rget x.sk k).toNat % 2 ^ 17
        ∀ walk : List (List Nat), walk.length = a.rows → (∀ bs ∈ walk, RowWalk ((opShape o.tcfgB).e / 8) a.e bs) →
          off + walk.flatten.length ≤ 0x16000 →
        (∀ j, j < walk.flatten.length → localOk (posOf s c x.ctx.toNat) (off + j) 1 false false = true ∧
          leNat (viewDirect s (x.effects.take o.neff) (.loc c (off + j)) 1) = walk.flatten.getD j 0) →
        viewUnknown (x.effects.take o.neff) (locKey c off) walk.flatten.length = false →
        directAhead s c t (keysFrom (locKey c off) walk.flatten.length) = false → o.id ∉ s.opErrors →
        begun { o with start := s.cyc.toNat, runs := [], keys := some [], data := some (walk.flatten.map (BitVec.ofNat 8)) })) ∧
    (∀ p, crossed = false → (cellAt s c).mxf = some p →
      (mxClash p o = true ∨ engineMemory o.insn = true ∨ s.cyc.toNat < o.pushed + Config.engineDelay o.id → exec (.mxOpStart c) s = .next s) ∧
      (mxClash p o = false → engineMemory o.insn = false → o.pushed + Config.engineDelay o.id ≤ s.cyc.toNat →
        (fault ≠ none → ∃ s', exec (.mxOpStart c) s = .next s' ∧ TakeEnded s' c t) ∧
        (fault = none → ∀ s', completeOp popped c { o with start := s.cyc.toNat, keys := some [] } = some s' →
          exec (.mxOpStart c) s = .next s')))) ∧
  (∀ s g ctx j bs, (groveAt s g).joins.find? (fun j => j.ctx == ctx && j.cells.length == 16) = some j → joinRead s j g = .bytes bs →
    (∀ c ∈ j.cells, ∀ o, joinOp s c = some o → entrantBandsOk o bs = true) →
    ∃ s', exec (.gmmaJoinComplete g ctx) s = .next s' ∧ (∀ k ∈ (groveAt s' g).joins, k.ctx ≠ ctx) ∧
      ∀ c ∈ j.cells, ∀ o, joinOp s c = some o →
        (cellAt s' c).mxf = some { o with joined := false, data := some bs, keys := some [] }) ∧
  (∀ s c o g src ty d, (cellAt s c).vxf = some o → o.insn = .vrecv g src ty d → recvHead s c o = none → o.a.toNat % 2 ^ 32 ≠ 0 →
    o.a.toNat % 2 ^ 32 ≤ s.cyc.toNat - o.start →
    ∃ s', exec (.vrecvTimeout c) s = .next s' ∧ rget (cellAt s' c).v d = o.part ∧ (cellAt s' c).vxf = none ∧
      latchHolds s' c (BitVec.ofNat 3 o.th) 11 (cellAt s c).vxq (BitVec.ofNat 64 o.cnt ||| 0x2000000000000000#64)) ∧
  (∀ s c th o rest, let t := BitVec.ofNat 3 th
    let x := thr s c t
    let fifo := (cellAt s c).fifo
    let w3 := rget o.e 3#3
    let serve := exec (.unitOpComplete c th 13) s
    (cellAt s c).cpq = o :: rest → o.th = t.toNat → rget x.y 13#4 = .pending .engine →
    let served : State → Word → Prop := fun s' y => serve = .next s' ∧ (cellAt s' c).cpq = rest ∧ latchHolds s' c t 13 rest y
    let count : (FifoEntry → Prop) → Nat → Prop := fun p k => ∃ l : List (BitVec 4), l.Nodup ∧ (∀ i, i ∈ l ↔ p (rget fifo i)) ∧ l.length = k
    (s.cyc.toNat ≤ o.pushed → serve = .next s) ∧
    (o.pushed < s.cyc.toNat →
      (∀ g src, o.insn = .cpoll g src → ∃ s' k w f, served s' (BitVec.ofNat 64 (k * 2 ^ 16 + w * 2 ^ 8 + f)) ∧
        count (fun e => (∃ a b, e.st = .kicked a b) ∧ e.ctx = x.ctx.toNat) k ∧ count (fun e => e.st = .reserved t.toNat) w ∧
        count (fun e => e.st = .free) f ∧ (cellAt s' c).fifo = fifo ∧ s'.mem = s.mem) ∧
      ((∃ g src, o.insn = .cpush g src ∨ o.insn = .cpushn g src) →
        let fault : Cause → State := fun e => trapEntry s c t ⟨e, if x.words ≤ o.words then o.pc else x.pc, 0, 0xFF, some o.id, 0, 0⟩
        let addr := o.a.toNat / 2 ^ 24 % 2 ^ 20 * 16
        let place := if o.a.getLsbD 47 then grvPlace s c x.ctx.toNat addr 16 true else locPlace s c x.ctx.toNat addr 16 true
        let readable := localOk (posOf s c x.ctx.toNat) (w3.toNat % 2 ^ 17) 32 false false
        let waited : Prop := ∃ g src, o.insn = .cpush g src
        let usable : BitVec 4 → Prop := fun k => (rget fifo k).st = .free ∧ (waited → (rget fifo k).since ≤ s.cyc.toNat)
        (w3.toNat / 2 ^ 17 ≠ 0 → serve = .next (fault .illegal)) ∧
        (w3.toNat / 2 ^ 17 = 0 → w3.toNat % 16 ≠ 0 → serve = .next (fault .align)) ∧
        (w3.toNat / 2 ^ 17 = 0 → w3.toNat % 16 = 0 → readable = false → serve = .next (fault .perm)) ∧
        (w3.toNat / 2 ^ 17 = 0 → w3.toNat % 16 = 0 → readable = true → ∀ e, place = .error e → serve = .next (fault e)) ∧
        (w3.toNat / 2 ^ 17 = 0 → w3.toNat % 16 = 0 → readable = true → (∃ tgt, place = .ok (.here tgt)) →
          ((∃ k, usable k) → x.effects.contains (.kick o.id none) = true → ∃ s' k, usable k ∧ served s' 0 ∧
            (cellAt s' c).fifo = rset fifo k (reservedEntry s c t o) ∧
            (thr s' c t).effects = x.effects.map (fun e => if e = .kick o.id none then .kick o.id (some k) else e)) ∧
          ((∃ k, usable k) → x.effects = [] →
            (mayPerform s c t o.id = true → ∃ s' k, usable k ∧ served s' 0 ∧
              (cellAt s' c).fifo = rset fifo k { reservedEntry s c t o with st := .kicked s.nextKick s.cyc.toNat } ∧ s'.nextKick = s.nextKick + 1) ∧
            (mayPerform s c t o.id = false → serve = .next s)) ∧
          ((∀ k, ¬usable k) → (∃ g src, o.insn = .cpushn g src) → ∃ s', served s' 1 ∧ (cellAt s' c).fifo = fifo ∧
            (thr s' c t).effects = x.effects.map (fun e => if e = .kick o.id none then .store [] 0 none (some []) false 0 else e)) ∧
          ((∀ k, ¬usable k) → waited →
            let own : Prop := ∀ k, (rget fifo k).st = .reserved t.toNat
            (own → x.phase = .revocable → x.pinning = false → serve = .next (modThr s c t (fun x => { x with pinning := true }))) ∧
            (¬own ∨ x.phase ≠ .revocable ∨ x.pinning = true → serve = .next s))))))

/-- R20, R42, R144, R147, R148, R155 to R161, R164, R165, R169, R170, R171: what the operations on memory, channels and tiles leave. The results of a
register operation are written in one step; `vld` and `tld` write the bytes that their runs read (EngineStarts), `tld` converted where its tag
differs; `vst`, `tst` and `tcst` store register bytes, row images and converted columns; `vrecv` appends the payload of the message at the head
up to the control word, or ends; `vsnd` fills its places with its messages; `tzero`, `tmv`, `aclr` and `skset` as Table 8.5. The model's
readings: an irrevocable take performs an engine's store or message in its turn (log entry 89), `vrecv` takes one message at a time (36), the
band scales that `tld` reads are checked with them (32), and the draws and amax of `tcst` as for a conversion (99, 101, 102, 114). -/
def Obligations.EngineCompletions : Prop :=
  (∀ s c o res, vxReady s c o → vxResult (thr s c (BitVec.ofNat 3 o.th)) (cellAt s c).v o = some res →
    ∃ s', exec (.vxOpComplete c) s = .next s' ∧ (cellAt s' c).vxf = none ∧ s'.mem = s.mem ∧ (cellAt s' c).v = writeVs (cellAt s c).v res.v ∧
      (cellAt s' c).t = (cellAt s c).t ∧ (cellAt s' c).acc = (cellAt s c).acc ∧
      latchHolds s' c (BitVec.ofNat 3 o.th) 11 (cellAt s c).vxq res.y) ∧
  (∀ s c o g src sp part d bs, vxReady s c o → o.insn = .vld g src sp part d → o.data = some bs →
    bs.length = (if part = .all then 256 else 128) →
    ∃ s' vd, exec (.vxOpComplete c) s = .next s' ∧ filesBecome s s' c (rset (cellAt s c).v d vd) (cellAt s c).t (cellAt s c).acc ∧
      ∀ i, i < 256 → lane 8 vd i = (if part = .hi then (if i < 128 then lane 8 (rget (cellAt s c).v d) i else (bs.getD (i - 128) 0).toNat)
        else if part = .lo then (if i < 128 then (bs.getD i 0).toNat else lane 8 (rget (cellAt s c).v d) i)
        else (bs.getD i 0).toNat)) ∧
  (∀ s c o g src sp part d ks, (cellAt s c).vxf = some o → o.req = none → o.keys = some ks → o.insn = .vst g src sp part d →
    ∃ bs, bs.length = (if part = .all then 256 else 128) ∧
      (∀ i, i < bs.length → (bs.getD i 0).toNat = lane 8 (rget (cellAt s c).v d) (i + if part = .hi then 128 else 0)) ∧
      (sp = .scr ∨ MayAct s c o (storeOf o ks [bs]) → ∃ s', exec (.vxOpComplete c) s = .next s' ∧ (cellAt s' c).vxf = none ∧
        (cellAt s' c).v = (cellAt s c).v ∧ StoresBytes s s' c o (sp == .scr) ks [bs] ∧
        latchHolds s' c (BitVec.ofNat 3 o.th) 11 (cellAt s c).vxq 0) ∧
      (sp ≠ .scr → ¬MayAct s c o (storeOf o ks [bs]) → exec (.vxOpComplete c) s = .next s)) ∧
  (∀ s c o g src ty d, vxReady s c o → o.insn = .vrecv g src ty d →
    let t := BitVec.ofNat 3 o.th
    let x := thr s c t
    let w := elWidth ty
    let ends : State → Vec → Word → Prop := fun s' part y => exec (.vxOpComplete c) s = .next s' ∧ (cellAt s' c).vxf = none ∧
      rget (cellAt s' c).v d = part ∧ latchHolds s' c t 11 (cellAt s c).vxq y ∧ (x.phase = .irrevocable → (thr s' c t).consumed = [])
    (recvHead s c o = none → exec (.vxOpComplete c) s = .next s) ∧
    (∀ r n m, recvHead s c o = some (r, n, m) →
      let event := m.isClose = true ∨ m.msg.lane ≠ none ∨ m.msg.slate.toNat / 2 ^ 47 % 32 ∈ [16, 17]
      let words := m.msg.payload.takeWhile (fun z => z != o.b)
      let k := o.cnt + words.length * (64 / w)
      (event → ∃ s', ends s' o.part (BitVec.ofNat 64 o.cnt ||| 0x4000000000000000#64) ∧ (x.phase ≠ .irrevocable → (thr s' c t).consumed = x.consumed)) ∧
      (¬event → 2048 / w < k → ∃ s', ends s' o.part (BitVec.ofNat 64 o.cnt) ∧ (x.phase ≠ .irrevocable → (thr s' c t).consumed = x.consumed)) ∧
      (¬event → k ≤ 2048 / w → ∃ s' part, exec (.vxOpComplete c) s = .next s' ∧
        (∀ i, i < o.cnt → lane w part i = lane w o.part i) ∧
        (∀ i, o.cnt ≤ i → i < 2048 / w → lane w o.part i = 0 → lane w part i =
          if i < k then (words.getD ((i - o.cnt) / (64 / w)) 0).toNat / 2 ^ (w * ((i - o.cnt) % (64 / w))) % 2 ^ w else 0) ∧
        (x.phase ≠ .irrevocable → (thr s' c t).consumed = x.consumed ++ [⟨r.eid, n, r.home⟩] ∧ ∃ r', findRecv (cellAt s' c) r.eid = some r' ∧
          (∀ rest, r.returned = n :: rest → r'.returned = rest) ∧ (r.returned = [] → n ∉ r'.notes)) ∧
        (o.b ∈ m.msg.payload → ends s' part (BitVec.ofNat 64 k ||| 0x8000000000000000#64)) ∧
        (o.b ∉ m.msg.payload → (cellAt s' c).vxf = some { o with cnt := k, part := part })))) ∧
  (∀ s c o g src cls, vxReady s c o → o.insn = .vsnd g src cls → o.b.toNat ≤ 32 →
    let t := BitVec.ofNat 3 o.th
    let x := thr s c t
    let n := o.b.toNat
    let count := (n + 7) / 8
    let msg : Nat → Effect := fun i => .send (vsndKind o.h) (cls.setWidth 5) 0
      ((((List.range n).drop (8 * i)).take 8).map (fun j => BitVec.ofNat 64 (lane 64 (rget (cellAt s c).v (o.a.extractLsb' 0 5)) j))) 1
    let hole : Effect := .send (.vsnd o.id) 0 0 [] 1
    let sent : State → Prop := fun s' => exec (.vxOpComplete c) s = .next s' ∧ (cellAt s' c).vxf = none ∧
      latchHolds s' c t 11 (cellAt s c).vxq (BitVec.ofNat 64 count)
    (x.phase ≠ .irrevocable → ∀ pre post, x.effects = pre ++ List.replicate count hole ++ post →
      (∀ e ∈ pre ++ post, ∀ k p w q, e ≠ .send (.vsnd o.id) k p w q) →
      ∃ s', sent s' ∧ (thr s' c t).effects = pre ++ (List.range count).map msg ++ post ∧ s'.mem = s.mem) ∧
    (x.phase = .irrevocable →
      (count ≤ o.cnt → ∃ s', sent s') ∧
      (o.cnt < count → ∀ s1 b, mayPerform s c t o.id = true → performAll c t (x.effects ++ [msg o.cnt]) s = (s1, [], b) →
        ∃ s', exec (.vxOpComplete c) s = .next s' ∧ s'.mem = s1.mem ∧ s'.flights = s1.flights ∧ (thr s' c t).effects = [] ∧
          (o.cnt + 1 = count → sent s') ∧ (o.cnt + 1 < count → (cellAt s' c).vxf = some { o with cnt := o.cnt + 1 })) ∧
      (o.cnt < count → ¬MayAct s c o (msg o.cnt) → exec (.vxOpComplete c) s = .next s))) ∧
  (∀ s c o g src sp n bs sh tag, mxReady s c o → o.insn = .tld g src sp n → o.data = some bs → shapeOf o.tcfgA = some sh → spanOk sh n = true →
    ptrFmt o.t = some tag →
    let t := BitVec.ofNat 3 o.th
    let bss := (splitRuns o.runs bs).map (·.2.2)
    let len := imageLen (if tag = .byte then sh.fmt else tag) sh.e
    let band : Nat → Nat := fun b => leNat (bss.getD sh.rows []) / 2 ^ (16 * b) % 2 ^ 16
    let leaves : State → RegFile 3 Tile → Prop := fun s' ts => exec (.mxOpComplete c) s = .next s' ∧ (cellAt s' c).mxf = none ∧
      filesBecome s s' c (cellAt s c).v ts (cellAt s c).acc ∧ mxLatch s s' c t (cellAt s c).mxq (BitVec.ofNat 64 bs.length)
    bss.length = sh.rows + (if sh.fmt = .lbf4 then 1 else 0) →
    (∀ r, r < sh.rows → (bss.getD r []).length = len) → (sh.fmt = .lbf4 → (bss.getD sh.rows []).length = 2 * ((sh.rows + 63) / 64)) →
    (sh.fmt = .lbf4 → (∃ b, b < (sh.rows + 63) / 64 ∧ ¬(0x80 ≤ band b ∧ band b ≤ 0x7F7F)) →
      ∃ s', exec (.mxOpComplete c) s = .next s' ∧ TakeEnded s' c t) ∧
    ((sh.fmt = .lbf4 → ∀ b, b < (sh.rows + 63) / 64 → 0x80 ≤ band b ∧ band b ≤ 0x7F7F) →
      (tag = sh.fmt ∨ tag = .byte → ∃ s' ts, leaves s' ts ∧ SpanHolds sh n (cellAt s c).t ts (fun r => leNat (bss.getD r [])) band ∧
        (thr s' c t).mxst = (thr s c t).mxst) ∧
      (tag ≠ sh.fmt → tag ≠ .byte → sh.fmt ≠ .byte → blockLen tag = 0 → blockLen sh.fmt = 0 →
        ∃ s' ts, ∃ img sats : Nat → Nat, leaves s' ts ∧ SpanHolds sh n (cellAt s c).t ts img band ∧
          (∀ r, r < sh.rows → ∃ inv, RowConverted sh.fmt false 0 sh.e (imageVal tag 0 sh.e (leNat (bss.getD r []))) (fun _ => none)
            (img r) (sats r) inv) ∧
          (thr s' c t).mxst = gained (thr s c t).mxst false (decide (∃ r, r < sh.rows ∧ 0 < sats r)) false))) ∧
  (∀ s c o g src sp n ks sh, mxReady s c o → o.keys = some ks → o.insn = .tst g src sp n → shapeOf o.tcfgA = some sh → spanOk sh n = true →
    let t := BitVec.ofNat 3 o.th
    let byte : Nat → Nat → Nat := fun r i => (rget (cellAt s c).t (n + BitVec.ofNat 3 (r / sh.p))).toNat / 2 ^ (8 * i) % 256
    let eb := elemBytes sh.fmt sh.e
    let nb := if sh.fmt = .lbf4 then 1 else 0
    ∃ bss, bss.length = sh.rows + nb ∧
      (∀ r, r < sh.rows → (bss.getD r []).length = eb + sh.sb ∧ ∀ i, i < eb + sh.sb → ((bss.getD r []).getD i 0).toNat =
        if i < eb then byte r (r % sh.p * sh.rowb + i) else byte r (sh.p * sh.rowb + r % sh.p * sh.sb + (i - eb))) ∧
      (sh.fmt = .lbf4 → (bss.getD sh.rows []).length = 2 * ((sh.rows + 63) / 64) ∧ ∀ b i, b < (sh.rows + 63) / 64 → i < 2 →
        ((bss.getD sh.rows []).getD (2 * b + i) 0).toNat = byte (64 * b) (sh.p * (sh.rowb + sh.sb) + i)) ∧
      (sp = .scr ∨ MayAct s c o (storeOf o ks bss) → ∃ s', exec (.mxOpComplete c) s = .next s' ∧ (cellAt s' c).mxf = none ∧
        (cellAt s' c).t = (cellAt s c).t ∧ StoresBytes s s' c o (sp == .scr) ks bss ∧
        mxLatch s s' c t (cellAt s c).mxq (BitVec.ofNat 64 bss.flatten.length)) ∧
      (sp ≠ .scr → ¬MayAct s c o (storeOf o ks bss) → exec (.mxOpComplete c) s = .next s)) ∧
  (∀ s c o g src sp amx sr nan n ks sh d, mxReady s c o → o.keys = some ks → o.insn = .tcst g src sp amx sr nan n → shapeOf o.tcfgA = some sh →
    spanOk sh n = true → ptrFmt o.t = some d → sh.fmt ≠ .byte → d ≠ .byte → blockLen sh.fmt = 0 → (blockLen d = 0 ∨ sh.rows % blockLen d = 0) →
    (nan = true → ∀ h, floatShape d = some h → h.nan ≠ none) → (sr = true → (intRange d).isSome = false) →
    let t := BitVec.ofNat 3 o.th
    let x := thr s c t
    let given := (rget o.e 5#3).toNat % 2 ^ 16
    let nb := if d = .lbf4 then 1 else 0
    (d = .lbf4 → given = 0 ∨ 0x80 ≤ given ∧ given ≤ 0x7F7F) →
    let col : Nat → Nat → Ext := fun c' r => tileVal sh (cellAt s c).t n r c'
    ∃ bss, ∃ band sats : Nat → Nat, bss.length = sh.e + nb ∧
      (d = .lbf4 → ∀ b, b < (sh.e + 63) / 64 → (given ≠ 0 → band b = given) ∧
        (given = 0 → ∃ m, LargestOf (min 64 (sh.e - 64 * b) * sh.rows) (fun i => col (64 * b + i / sh.rows) (i % sh.rows)) m ∧ BandIs m (band b))) ∧
      (∀ j, j < sh.e → (bss.getD j []).length = imageLen d sh.rows ∧ ∃ inv,
        RowConverted d nan (band (j / 64)) sh.rows (col j) (fun r => drawOf sr o (j * sh.rows + r)) (leNat (bss.getD j [])) (sats j) inv) ∧
      (d = .lbf4 → (bss.getD sh.e []).length = 2 * ((sh.e + 63) / 64) ∧
        ∀ b, b < (sh.e + 63) / 64 → leNat (bss.getD sh.e []) / 2 ^ (16 * b) % 2 ^ 16 = band b) ∧
      (sp = .scr ∨ MayAct s c o (storeOf o ks bss) → ∃ s', exec (.mxOpComplete c) s = .next s' ∧ (cellAt s' c).mxf = none ∧
        (cellAt s' c).t = (cellAt s c).t ∧ StoresBytes s s' c o (sp == .scr) ks bss ∧
        (let total := ((List.range sh.e).map sats).sum
         mxLatch s s' c t (cellAt s c).mxq (BitVec.ofNat 64 total) ∧
          (x.phase ≠ .irrevocable → (thr s' c t).mxst = gained x.mxst false (decide (0 < total)) false)) ∧
        (x.phase ≠ .irrevocable → if amx = true then
          Tracked (rget x.amax (o.b.extractLsb' 0 2)) (rget (thr s' c t).amax (o.b.extractLsb' 0 2))
            ((List.range (sh.e * sh.rows)).map (fun i => col (i / sh.rows) (i % sh.rows)))
          else (thr s' c t).amax = x.amax)) ∧
      (sp ≠ .scr → ¬MayAct s c o (storeOf o ks bss) → exec (.mxOpComplete c) s = .next s)) ∧
  (∀ s c o g src n, mxReady s c o → o.insn = .tzero g src n → ∃ s', exec (.mxOpComplete c) s = .next s' ∧ (cellAt s' c).mxf = none ∧
    filesBecome s s' c (cellAt s c).v (rset (cellAt s c).t n 0) (cellAt s c).acc) ∧
  (∀ s c o g src n, mxReady s c o → o.insn = .tmv g src n → ∃ s', exec (.mxOpComplete c) s = .next s' ∧ (cellAt s' c).mxf = none ∧
    filesBecome s s' c (cellAt s c).v (rset (cellAt s c).t n (rget (cellAt s c).t (o.t.extractLsb' 0 3))) (cellAt s c).acc) ∧
  (∀ s c o g src q, mxReady s c o → o.insn = .aclr g src q → ∃ s', exec (.mxOpComplete c) s = .next s' ∧ (cellAt s' c).mxf = none ∧
    filesBecome s s' c (cellAt s c).v (cellAt s c).t (rset (cellAt s c).acc q 0)) ∧
  (∀ s c o g src k, mxReady s c o → o.insn = .skset g src k → ∃ s', exec (.mxOpComplete c) s = .next s' ∧ (cellAt s' c).mxf = none ∧
    filesBecome s s' c (cellAt s c).v (cellAt s c).t (cellAt s c).acc ∧
    rget (thr s' c (BitVec.ofNat 3 o.th)).sk k = BitVec.ofNat 64 (o.t.toNat % 2 ^ 17) ∧
    mxLatch s s' c (BitVec.ofNat 3 o.th) (cellAt s c).mxq (rget (thr s c (BitVec.ofNat 3 o.th)).sk k))

/-- R102 to R109, R116, R118 to R120, R167, R168, R172 to R174, R176: the products and what `tacc` reads. `mma` adds to each element of its window the
products of a row of A and a row of B; `mmsk` leaves out the terms that the skip list it has read skips and moves sk on; `gmma` takes B from the bytes of its join.
An integer class adds modulo 2^32 and sets iov where the exact sum leaves INT32; a floating class adds group by group by GroupSum, each truncated and
rounded once. Elements stand in tiles as R167 and R168 place them, under their block and band scales. `tacc` scales accumulator elements and rounds
them into a span or a vector, counting saturations. The model's readings: log entries 32 (the skip list is read and band scales are checked at the start: EngineStarts), 30 (B of `gmma`),
and as for conversions 99, 101, 102 and 114; a band scale that `tacc` or `tcst` derives is at most the largest finite BF16 (121). -/
def Obligations.MatrixProducts : Prop :=
  (∀ s c o g src ta tb n q, mxReady s c o → o.insn = .mma g src ta tb n q →
    let a := opShape o.tcfgA
    let b := opShape o.tcfgB
    let ts := (cellAt s c).t
    let m := o.t.extractLsb' 0 3
    let rows := aRows a ts n ta
    let cols := aRows b ts m tb
    let i0 := (rget o.e 0#3).toNat % 64
    let j0 := (rget o.e 0#3).toNat / 256 % 64
    let old := rget (cellAt s c).acc q
    ∃ s' new, exec (.mxOpComplete c) s = .next s' ∧ (cellAt s' c).mxf = none ∧
      filesBecome s s' c (cellAt s c).v ts (rset (cellAt s c).acc q new) ∧
      (∀ i j, i < 64 → j < 64 → accGet new i j =
        if i0 ≤ i ∧ i < i0 + rows.length ∧ j0 ≤ j ∧ j < j0 + cols.length then
          (accElem (classFor a.fmt) (accGet old i j)
            (((rows.getD (i - i0) []).zip (cols.getD (j - j0) [])).map some)).1 % 2 ^ 32
        else accGet old i j) ∧
      (let el : Nat → Nat → AccRes := fun i j =>
        accElem (classFor a.fmt) (accGet old (i0 + i) (j0 + j)) (((rows.getD i []).zip (cols.getD j [])).map some)
       let some_ : (AccRes → Bool) → Bool := fun f => (List.range rows.length).any (fun i => (List.range cols.length).any (fun j => f (el i j)))
       (thr s' c (BitVec.ofNat 3 o.th)).mxst = gained (thr s c (BitVec.ofNat 3 o.th)).mxst (some_ (·.2.1)) false (some_ (·.2.2)))) ∧
  (∀ cl old (l : List (FV × FV)), classInt cl = true → old < 2 ^ 32 →
    let v : Int := int32 old + (l.map (fun e => intOfFV e.1 * intOfFV e.2)).sum
    accElem cl old (l.map some) = ((v % 2 ^ 32).toNat, false, decide (v < -(2 ^ 31)) || decide (2 ^ 31 ≤ v))) ∧
  (∀ cl old (l : List (Option (FV × FV))), classInt cl = false → old < 2 ^ 32 → l.length % classG cl = 0 →
    let groups := l.length / classG cl
    ∃ (run : Nat → Nat) (bad : Nat → Bool), run 0 = old ∧ accElem cl old l = (run groups, (List.range groups).any bad, false) ∧
      ∀ k, k < groups →
        (groupTerms (classG cl) l k = [] → run (k + 1) = run k ∧ bad k = false) ∧
        (groupTerms (classG cl) l k ≠ [] → GroupIs (run k) (groupTerms (classG cl) l k) (run (k + 1)) (bad k))) ∧
  (∀ w sh, shapeOf w = some sh → LaidOut w sh) ∧
  (∀ w sh ts n ta i k, shapeOf w = some sh → spanOk sh n = true → sh.fmt ≠ .byte → i < (if ta then sh.e else sh.rows) →
    k < (if ta then sh.rows else sh.e) → ∃ row v, (aRows sh ts n ta)[i]? = some row ∧ row[k]? = some v ∧
      extOf v = if ta then tileVal sh ts n k i else tileVal sh ts n i k) ∧
  (∀ f band n img j, f ≠ .byte → (blockLen f = 0 ∨ n % blockLen f = 0) → j < n →
    ∃ v, (imageValues f band n img)[j]? = some v ∧ extOf v = imageVal f band n img j) ∧
  (∀ s c o g src sk n q, mxReady s c o → o.insn = .mmsk g src sk n q →
    let t := BitVec.ofNat 3 o.th
    let x := thr s c t
    let a := opShape o.tcfgA
    let b := opShape o.tcfgB
    let ts := (cellAt s c).t
    let m := o.t.extractLsb' 0 3
    let off := (rget x.sk sk).toNat % 2 ^ 17
    b.e % 8 = 0 →
    ∀ walk : List (List Nat), walk.length = a.rows → (∀ bs ∈ walk, RowWalk (b.e / 8) a.e bs) → off + walk.flatten.length ≤ 0x16000 →
      o.data = some (walk.flatten.map (BitVec.ofNat 8)) →
    ∃ s' new, exec (.mxOpComplete c) s = .next s' ∧ (cellAt s' c).mxf = none ∧ filesBecome s s' c (cellAt s c).v ts (rset (cellAt s c).acc q new) ∧
      productOf (classFor a.fmt) (rget (cellAt s c).acc q) new ((rget o.e 0#3).toNat % 64) ((rget o.e 0#3).toNat / 256 % 64)
        ((List.range a.rows).map (fun i => (List.range b.e).map (sparseAt (kept (walk.getD i [])) ((spanValues a ts n).getD i []))))
        (spanValues b ts m) ∧
      rget (thr s' c t).sk sk = BitVec.ofNat 64 (off + walk.flatten.length)) ∧
  (∀ s c o g src ta tb n q bs, mxReady s c o → o.insn = .gmma g src ta tb n q → o.data = some bs →
    let a := opShape o.tcfgA
    let d := opFmt o
    let ts := (cellAt s c).t
    let cnt := o.a.toNat / 2 ^ 32 % 256
    let k := if ta then a.rows else a.e
    let e := if tb then cnt else k
    let rows := if tb then k else cnt
    let len := imageLen d e
    let band : Nat → Nat := fun r => leNat (bs.drop (len * rows)) / 2 ^ (16 * (r / 64)) % 2 ^ 16
    let stored : Nat → List FV := fun r => imageValues d (band r) e (leNat ((bs.drop (r * len)).take len))
    ∃ s' new, exec (.mxOpComplete c) s = .next s' ∧ (cellAt s' c).mxf = none ∧ filesBecome s s' c (cellAt s c).v ts (rset (cellAt s c).acc q new) ∧
      productOf (classFor a.fmt) (rget (cellAt s c).acc q) new ((rget o.e 0#3).toNat % 64) ((rget o.e 0#3).toNat / 256 % 64)
        ((aRows a ts n ta).map (fun r => r.map some))
        ((List.range cnt).map (fun j => if tb then (List.range k).map (fun i => (stored i).getD j .nan) else stored j))) ∧
  (∀ s c o g src amx sr n q sh, mxReady s c o → o.insn = .taccTile g src amx sr n q → shapeOf o.tcfgA = some sh → spanOk sh n = true →
    let t := BitVec.ofNat 3 o.th
    let x := thr s c t
    let i0 := (rget o.e 0#3).toNat % 64
    let j0 := (rget o.e 0#3).toNat / 256 % 64
    let given := (rget o.e 5#3).toNat % 2 ^ 16
    let val : Nat → Nat → Ext := fun r j => scaledVal o (rget (cellAt s c).acc q) (i0 + r) (j0 + j)
    let all : Nat → Ext := fun i => val (i / sh.e) (i % sh.e)
    sh.fmt ≠ .byte → i0 + sh.rows ≤ 64 → j0 + sh.e ≤ 64 → (sr = true → (intRange sh.fmt).isSome = false) →
    (sh.fmt = .lbf4 → given = 0 ∨ 0x80 ≤ given ∧ given ≤ 0x7F7F) →
    ∃ s' ts band, ∃ img sats : Nat → Nat, exec (.mxOpComplete c) s = .next s' ∧ (cellAt s' c).mxf = none ∧
      filesBecome s s' c (cellAt s c).v ts (cellAt s c).acc ∧ SpanHolds sh n (cellAt s c).t ts img (fun _ => band) ∧
      (sh.fmt = .lbf4 → (given ≠ 0 → band = given) ∧ (given = 0 → ∃ m, LargestOf (sh.rows * sh.e) all m ∧ BandIs m band)) ∧
      (∀ r, r < sh.rows → ∃ inv,
        RowConverted sh.fmt false band sh.e (val r) (fun j => drawOf sr o (64 * (i0 + r) + j0 + j)) (img r) (sats r) inv) ∧
      (let total := ((List.range sh.rows).map sats).sum
       mxLatch s s' c t (cellAt s c).mxq (BitVec.ofNat 64 total) ∧ (thr s' c t).mxst = gained x.mxst false (decide (0 < total)) false) ∧
      if amx = true then Tracked (rget x.amax (o.b.extractLsb' 0 2)) (rget (thr s' c t).amax (o.b.extractLsb' 0 2))
        ((List.range (sh.rows * sh.e)).map all)
      else (thr s' c t).amax = x.amax) ∧
  (∀ s c o g src d q, mxReady s c o → o.insn = .taccVector g src d q →
    let t := BitVec.ofNat 3 o.th
    let row := o.a.toNat / 256 % 64
    ∃ s' vd sats inv, exec (.mxOpComplete c) s = .next s' ∧ (cellAt s' c).mxf = none ∧
      filesBecome s s' c (rset (cellAt s c).v d vd) (cellAt s c).t (cellAt s c).acc ∧
      RowConverted .f32 false 0 64 (fun j => scaledVal o (rget (cellAt s c).acc q) row j) (fun _ => none) vd.toNat sats inv ∧
      mxLatch s s' c t (cellAt s c).mxq (BitVec.ofNat 64 sats) ∧
      (thr s' c t).mxst = gained (thr s c t).mxst false (decide (0 < sats)) false)

/-! ## Events of the cell -/

/-- R42, R267, R273, R307, R310, R311, R312, R320: what a thread waits for comes: unit results, a `bwait` that was woken with gen after its completion
and ph as the word now has it, filled reel slots, watches, timeouts, wired sets, the budget. The flag of a thread that its budget ends still counts in that cycle. The model's reading: a completion that has not been delivered
yet does not keep a set from completing again, and each delivery hands out its own gen (log entry 72). -/
def Obligations.WaitsEnd : Prop :=
  (∀ s c th u, let t := BitVec.ofNat 3 th
    let x := thr s c t
    let ready : BitVec 4 → Word → State := fun u v => modThr s c t (fun x => { x with y := rset x.y u (.ready v) })
    let reasons := (cellAt s c).watch.filter (fun w => w.th == t.toNat)
    let why : Nat := (if ∃ w ∈ reasons, w.fired = true then 1 else 0) + (if ∃ w ∈ reasons, w.evicted = true then 2 else 0)
      + (if (ctxRec s (dieOf c) x.ctx.toNat).pre = true then 8 else 0) + (if reasons = [] then 16 else 0)
    (∀ v, rget x.y u = .busy v → exec (.unitOpComplete c th u) s = .next (ready u v)) ∧
    (∀ v, rget x.y u = .ready v → exec (.unitOpComplete c th u) s = .next s) ∧
    (∀ b gen, rget x.y u = .pending (.woken b gen) → exec (.unitOpComplete c th u) s = .next (ready u (BitVec.ofNat 64
      (gen.toNat + (if (word128At s (locKey c (0x16000 + 16 * b.toNat))).getLsbD 114 then 2 ^ 16 else 0))))) ∧
    (∀ hdr a i seen, rget x.y u = .pending (.rawait hdr a i seen) → headerWait s c t = false →
      let h := sixteenAt s hdr
      let d := (h.extractLsb' 0 32 - i).toNat
      directKeys hdr 16 ≠ none → goodHeader h →
      (seen = true → 1 ≤ d → d < 2 ^ 31 → exec (.unitOpComplete c th u) s = .next (ready u (BitVec.ofNat 64
        ((a.toNat + 16 + i.toNat % 2 ^ (h.toNat / 2 ^ 96 % 16) * 2 ^ (h.toNat / 2 ^ 104 % 32)) % 2 ^ 56)))) ∧
      (seen = false ∨ d = 0 ∨ 2 ^ 31 ≤ d → exec (.unitOpComplete c th u) s = .next s)) ∧
    (∀ start lim, rget x.y 15#4 = .pending (.mwait start lim) →
      let late : Nat := if lim ≠ 0 ∧ lim.toNat ≤ s.cyc.toNat - start then 4 else 0
      (why = 0 → exec (.unitOpComplete c th 15) s = .next s) ∧
      (why ≠ 0 → ∃ s', exec (.unitOpComplete c th 15) s = .next s' ∧ rget (thr s' c t).y 15#4 = .ready (BitVec.ofNat 64 (why + late)) ∧
        (∀ w ∈ (cellAt s' c).watch, w.th ≠ t.toNat)) ∧
      (lim ≠ 0 → lim.toNat ≤ s.cyc.toNat - start → ∃ s', exec (.mwaitTimeout c th) s = .next s' ∧
        rget (thr s' c t).y 15#4 = .ready (BitVec.ofNat 64 (why + 4)) ∧ (∀ w ∈ (cellAt s' c).watch, w.th ≠ t.toNat)) ∧
      (lim = 0 → exec (.mwaitTimeout c th) s = .next s)) ∧
    (∀ b ph start lim, rget x.y 14#4 = .pending (.bwait b ph start lim) →
      let w := word128At s (locKey c (0x16000 + 16 * b.toNat))
      (lim ≠ 0 → lim.toNat ≤ s.cyc.toNat - start → exec (.bwaitTimeout c th) s = .next (ready 14 (BitVec.ofNat 64
        (2 ^ 63 + (if w.getLsbD 114 then 2 ^ 16 else 0) + w.toNat / 2 ^ 80 % 2 ^ 16)))) ∧
      (lim = 0 ∨ s.cyc.toNat - start < lim.toNat → exec (.bwaitTimeout c th) s = .next s)) ∧
    (∀ set start lim, rget x.y 14#4 = .pending (.hwbar set start lim) → dieOf c < 4 → c < 1024 →
      (lim ≠ 0 → lim.toNat ≤ s.cyc.toNat - start → ¬setComplete s (dieOf c) set → ¬comesTo s c x.ctx.toNat set →
        exec (.hwbarTimeout c th) s = .next (faultWord s c t .timeout)) ∧
      (lim = 0 ∨ s.cyc.toNat - start < lim.toNat ∨ setComplete s (dieOf c) set ∨ comesTo s c x.ctx.toNat set → exec (.hwbarTimeout c th) s = .next s)) ∧
    (let counts := x.phase = .revocable ∨ x.phase = .irrevocable ∨ (x.phase = .settling ∧ x.orc ≠ 0)
     (counts → x.bdgt = 0 → (∀ set, ¬waitsFor x set) → exec (.budget c th) s = .next (faultWord s c t .budget)) ∧
     (∀ set, counts → x.bdgt = 0 → waitsFor x set →
       exec (.budget c th) s = .next (faultWord (wiredEvaluate s (dieOf c) set) c t .budget)) ∧
     (¬counts ∨ x.bdgt ≠ 0 → exec (.budget c th) s = .next s))) ∧
  (∀ s d (set : BitVec 2), d < 4 →
    let w := rget (dieAt s d).wired set
    (¬setComplete s d set → wiredEvaluate s d set = s) ∧
    (setComplete s d set → ∃ cs, (∀ c, c ∈ cs ↔ takesPart d w c = true) ∧ wiredEvaluate s d set = modDie s d (fun x => { x with
      wired := rset x.wired set (w.extractLsb' 16 48 ++ (w.extractLsb' 0 16 + 1))
      wiredAt := rset x.wiredAt set (rget x.wiredAt set ++ [⟨s.cyc.toNat, cs, w.extractLsb' 0 16 + 1, w.toNat / 2 ^ 48 % 2 ^ 12⟩]) })) ∧
    let L : List Nat → Nat := fun cs => if ∀ a ∈ cs, ∀ b ∈ cs, groveOf a = groveOf b then 4 else 12
    ((∀ e ∈ rget (dieAt s d).wiredAt set, s.cyc.toNat < e.at_ + L e.cells) → exec (.wiredCompletionDelivery d set.toNat) s = .next s) ∧
    (∀ pre e post, rget (dieAt s d).wiredAt set = pre ++ e :: post → (∀ f ∈ pre, s.cyc.toNat < f.at_ + L f.cells) →
      e.at_ + L e.cells ≤ s.cyc.toNat →
      let takes : Nat → BitVec 3 → Prop := fun c t => c ∈ e.cells ∧ waitsFor (thr s c t) set ∧ (thr s c t).ctx.toNat = e.ctx
      ∃ s', exec (.wiredCompletionDelivery d set.toNat) s = .next s' ∧
        rget (dieAt s' d).wiredAt set = pre ++ post ∧ rget (dieAt s' d).wired set = w ∧ s'.mem = s.mem ∧
        (∀ c t, takes c t → rget (thr s' c t).y 14#4 = .ready (e.gen.setWidth 64)) ∧ (∀ c t, ¬takes c t → thr s' c t = thr s c t)))

/-- R20, R21, R337, Table 1.3: a settling take prints once nothing is outstanding; a printing take performs what it holds, sends last, and is then
free; a pinned take becomes irrevocable. -/
def Obligations.TakesPrint : Prop :=
  ∀ s c th, let t := BitVec.ofNat 3 th
    let x := thr s c t
    (x.phase = .settling → x.orc ≠ 0 → exec (.print c th) s = .next s) ∧
    (x.phase = .printing ∨ (x.phase = .settling ∧ x.orc = 0) → x.effects = [] → x.consumed = [] → x.msg.lane = none →
      ∃ s', exec (.print c th) s = .next s' ∧ Free s' c t ∧ (x.origin = .completion → s'.mem = s.mem ∧ s'.flights = s.flights) ∧
        (∀ eid n home, x.origin = .channel eid n home → s'.mem = s.mem ∧
          s'.flights = s.flights ++ [sentNext s home (.free eid 0 home n.slot n.sid)]) ∧
        (∀ ring size, x.origin = .landing ring size →
          let old := word64At s (locKey c ring)
          word64At s' (locKey c ring) = (old.extractLsb' 32 32 + BitVec.ofNat 32 size) ++ old.extractLsb' 0 32)) ∧
    (∀ s1 s2 b1 b2, x.phase = .printing → (thr s1 c t).consumed = [] → (thr s2 c t).msg.lane = none → (thr s2 c t).origin = .completion →
      (thr s2 c t).consumed = [] →
      performAll c t (x.effects.filter (fun e => !isSend e)) s = (s1, [], b1) →
      performAll c t (x.effects.filter isSend) (modThr s1 c t (fun x => { x with consumed := [] })) = (s2, [], b2) →
      ∃ s', exec (.print c th) s = .next s' ∧ (thr s' c t).phase = .idle ∧ (thr s' c t).effects = [] ∧ s'.mem = s2.mem ∧ s'.flights = s2.flights) ∧
    (x.phase = .revocable → x.pinning = true → x.orc = 0 → enginesIdle (cellAt s c) t = true → x.effects = [] → x.consumed = [] →
      exec (.print c th) s = .next (modThr s c t (fun x => { x with phase := .irrevocable, pinning := false, undo := [] }))) ∧
    (x.phase = .revocable → x.pinning = false ∨ x.orc ≠ 0 → exec (.print c th) s = .next s) ∧
    (x.phase = .idle → exec (.print c th) s = .next s)

/-- R20, R200, R209, R215, R235, R246, R249, R250, R264, R268, R270, R282, R302, R304, R305, R306, R316, R317, R334, R341: what performing each kind
of held effect does; stores and atomics on HBM for contexts that are not protected. The model's choices: which cell's counter numbers a group
message (log 116), what of a slot lies past its reel (log 123), and the stage messages' seq (log 17). -/
def Obligations.EffectsPerformed : Prop :=
  ∀ s c t, let x := thr s c t
    let ctx := x.ctx.toNat
    let barKey : Nat → BitVec 9 → Nat := fun c b => locKey c (0x16000 + 16 * b.toNat)
    let barHolds : Nat → State → BitVec 9 → BitVec 128 → Prop := fun c s' b w =>
      word128At s' (barKey c b) = w ∧ ∀ k, k < barKey c b ∨ barKey c b + 16 ≤ k → memGet s'.mem k = memGet s.mem k
    let bar := barKey c
    let barMem := barHolds c
    let began := x.waits.getD s.cyc.toNat
    let msg : SendEnd → Nat → Nat → Bool → Nat → List Word → Option EndRec → Msg := fun e cls nw hl sub ws lane =>
      ⟨mkSlate 0 cls nw hl 0 e.ns sub e.eid, ws, lane, x.msg.launch⟩
    (∀ ps n op ks sr insn, let p := performEffect s c t (.store ps n op (some ks) sr insn)
      let dev := (ks.zip (ps.flatMap (·.bytes))).filter (fun e => !isSystemKey e.1)
      let sys := (ks.zip (ps.flatMap (·.bytes))).filter (fun e => isSystemKey e.1)
      let s1 := applyWrite s (dev.map (·.1)) (dev.map (·.2))
      ((sr = true ∧ unacknowledged s c t) ∨ lineTaken s c t ks → p = .wait) ∧
      (¬(sr = true ∧ unacknowledged s c t) → ¬lineTaken s c t ks → isProtected s ctx = false →
        (sys = [] → p = .done s1) ∧
        (sys ≠ [] → ∃ s', p = .done s' ∧ SilentRequest s1 s' c t (.posted (sys.map (·.1)) (sys.map (·.2)) none)))) ∧
    (∀ tgt n what ks ared view insn, let p := performEffect s c t (.rmw tgt n what (some ks) ared view insn)
      (lineTaken s c t ks → p = .wait) ∧
      (¬lineTaken s c t ks → ared = true ∨ ks.any isSystemKey = true → ∃ s', p = .done s' ∧ SilentRequest s s' c t (.posted ks [] (some (n, what)))) ∧
      (∀ k l, ks = k :: l → ¬lineTaken s c t ks → ared = false → ks.any isSystemKey = false → isProtected s ctx = false →
        match rmwNew what n (leNat (readKeys s.mem (keysFrom k n))) with
        | some v => p = .done (applyWrite s (keysFrom k n) (leBytes n v))
        | none => p = .done s)) ∧
    (∀ ps n op sr insn tgt what ared view src dst cls v, performEffect s c t (.store ps n op none sr insn) = .wait ∧
      performEffect s c t (.rmw tgt n what none ared view insn) = .wait ∧ performEffect s c t (.rbr src dst n cls v none insn) = .wait ∧
      performEffect s c t (.kick n none) = .wait) ∧
    ((unacknowledged s c t → performEffect s c t .marker = .wait) ∧ (¬unacknowledged s c t → performEffect s c t .marker = .done s)) ∧
    (∀ src dst n cls v ks insn, ∃ s', performEffect s c t (.rbr src dst n cls v (some ks) insn) = .done s' ∧
      SilentRequest s s' c t (.block src ks dst cls v)) ∧
    (∀ op i, performEffect s c t (.kick op (some i)) = .done { modCell s c (fun y => { y with
      fifo := rset y.fifo i { rget y.fifo i with st := .kicked s.nextKick s.cyc.toNat } }) with nextKick := s.nextKick + 1 }) ∧
    (∀ off, let d := readKeys s.mem (keysFrom (locKey c off) (descLen (leNat (readKeys s.mem (keysFrom (locKey c off) 8)))))
      let place := (d.headD 0).toNat % 8
      performEffect s c t (.lnch off) = .done { s with nextLaunch := s.nextLaunch + 1, launches := s.launches ++ [⟨s.nextLaunch, ctx, .take c ctx, d,
        if place = 4 then [0, 1, 2, 3] else if place < 4 then [place] else [0], [], [], [], [], 0, none, none⟩] }) ∧
    (∀ tgt v, match directKeys tgt 16 with
      | some ks => performEffect s c t (.rinit tgt v) = .done (applyWrite s ks (leBytes 16 v.toNat))
      | none => performEffect s c t (.rinit tgt v) = .done s) ∧
    (∀ tgt i k ks, directKeys tgt 16 = some (k :: ks) → let h := word128At s k
      let d := (i - h.extractLsb' 32 32).toNat
      (goodHeader h → d < 16 → ∃ h', Releases h h' d ∧ performEffect s c t (.rrel tgt i) = .done (write128 s k h')) ∧
      (¬goodHeader h ∨ 16 ≤ d → performEffect s c t (.rrel tgt i) = .done s)) ∧
    (∀ i v, (tget (posOf s c ctx).mgmtAt i.toNat 0 = s.cyc + 1 → performEffect s c t (.hset i v) = .done s) ∧
      (tget (posOf s c ctx).mgmtAt i.toNat 0 ≠ s.cyc + 1 → resident s c ctx = true → ∃ s', performEffect s c t (.hset i v) = .done s' ∧
        (posOf s' c ctx).handlers = tput (posOf s c ctx).handlers i.toNat v ∧ (posOf s' c ctx).boundAt = tput (posOf s c ctx).boundAt i.toNat (s.cyc + 1) ∧
        s'.mem = s.mem ∧ s'.flights = s.flights)) ∧
    (∀ i h, performEffect s c t (.hsave i h) = .done (modPos s c ctx (fun p => { p with hstore := tput p.hstore i.toNat h }))) ∧
    (∀ vec : BitVec 11, ¬unacknowledged s c t →
      let f := partOf s ctx
      let p := rget s.parts f
      let n := vec.toNat
      (p.ctl.getLsbD 61 = false → n ≤ p.ctl.toNat / 2 ^ 32 % 2 ^ 11 → ∃ s', performEffect s c t (.sig vec) = .done s' ∧ s'.mem = s.mem ∧
        rget s'.parts f = (if p.msixOn = true ∧ p.msixMask = false ∧ n ∈ p.unmasked then { p with msix := p.msix ++ [msixMessage p n] }
          else { p with pend := if n ∈ p.pend then p.pend else p.pend ++ [n] })) ∧
      (p.ctl.getLsbD 61 = true ∨ p.ctl.toNat / 2 ^ 32 % 2 ^ 11 < n → performEffect s c t (.sig vec) = .done s)) ∧
    (∀ vec : BitVec 11, unacknowledged s c t → performEffect s c t (.sig vec) = .wait) ∧
    (∀ eid cls sub ws n, findSend (cellAt s c) eid = none → performEffect s c t (.send (.chan eid) cls sub ws n) = .done s) ∧
    (∀ eid cls sub ws n e, findSend (cellAt s c) eid = some e → e.eid = eid →
      (e.orphan = true → performEffect s c t (.send (.chan eid) cls sub ws n) = .done s) ∧
      (e.orphan = false → ¬maySend s c e began → performEffect s c t (.send (.chan eid) cls sub ws n) = .wait) ∧
      (e.orphan = false → maySend s c e began → ∃ s', performEffect s c t (.send (.chan eid) cls sub ws n) = .done s' ∧
        findSend (cellAt s' c) eid = some { e with ns := e.ns + 1 } ∧ s'.mem = s.mem ∧
        s'.flights = s.flights ++ [sentNext s e.home (.data e.chan e.ctx e.home eid e.ns e.mv false (msg e cls.toNat ws.length false 0 ws none))])) ∧
    (∀ idx lid cls sub ws n, let p := performEffect s c t (.send (.stage idx lid) cls sub ws n)
      let d := dieOf c
      let g := stageAt s d idx
      let k := stageHdr d g
      let h := word128At s k
      let C := h.extractLsb' 64 32
      let room := (C + 1 - h.extractLsb' 32 32).toNat ≤ 2 ^ (h.toNat / 2 ^ 96 % 16)
      let s1 := write128 s k (h.extractLsb' 96 32 ++ (C + 1) ++ h.extractLsb' 0 64)
      (g.v = false ∨ g.lid.toNat ≠ lid ∨ ¬goodHeader h → p = .done s) ∧
      (g.v = true → g.lid.toNat = lid → goodHeader h →
        (¬room ∨ reelWaiter s k began → p = .wait) ∧
        (room → ¬reelWaiter s k began → C = h.extractLsb' 0 32 →
          p = .done (published s1 d idx lid k C ⟨mkSlate ctx cls.toNat ws.length false 0 0 0 (stageEid d lid idx), ws, none, x.msg.launch⟩)) ∧
        (room → ¬reelWaiter s k began → C ≠ h.extractLsb' 0 32 → p = .part s1 (.send (.claimed idx lid k C) cls sub ws 1)))) ∧
    (∀ idx lid k start cls sub ws n, let p := performEffect s c t (.send (.claimed idx lid k start) cls sub ws n)
      let h := word128At s k
      (¬goodHeader h → p = .done s) ∧
      (goodHeader h → h.extractLsb' 0 32 ≠ start → p = .wait) ∧
      (goodHeader h → h.extractLsb' 0 32 = start → p = .done (published s (dieOf c) idx lid k start
        ⟨mkSlate ctx cls.toNat ws.length false 0 0 0 (stageEid (dieOf c) lid idx), ws, none, x.msg.launch⟩))) ∧
    (∀ eid h moved recv cls sub ws n, let p := performEffect s c t (.send (.move eid h moved recv) cls sub ws n)
      let gone := if recv then (∀ r, findRecv (cellAt s c) moved = some r → r.st = .frozen ∨ r.st = .leaving ∨ r.closing = true)
        else findSend (cellAt s c) moved = none
      (gone → p = .done (clearH s c t h)) ∧
      (¬gone → findSend (cellAt s c) eid = none ∨ (∃ e, findSend (cellAt s c) eid = some e ∧ e.orphan = true) → p = .done s) ∧
      (¬gone → ∀ e, findSend (cellAt s c) eid = some e → e.eid = eid → e.orphan = false →
        (¬maySend s c e began → p = .wait) ∧
        (maySend s c e began → ∃ s' lane, p = .done s' ∧ s'.mem = s.mem ∧ (thr s' c t).h = rset x.h h 0 ∧
          s'.flights = s.flights ++ [sentNext s e.home (.data e.chan e.ctx e.home eid e.ns e.mv false
            (msg e 16 ws.length true sub.toNat ws (some lane)))] ∧
          (recv = false → ∀ m, findSend (cellAt s c) moved = some m → lane = .send { m with mv := m.mv + 1 } ∧
            findSend (cellAt s' c) moved = none ∧ (moved ≠ eid → findSend (cellAt s' c) eid = some { e with ns := e.ns + 1 })) ∧
          (recv = true → findSend (cellAt s' c) eid = some { e with ns := e.ns + 1 } ∧
            ∀ r, findRecv (cellAt s c) moved = some r → r.eid = moved →
              (∃ pri, lane = .recv moved r.home r.gen r.depth pri c ∧ (∀ hm, findHome (cellAt s r.home) moved = some hm → pri = hm.pri)) ∧
              findRecv (cellAt s' c) moved = some { r with st := if r.st = .inbound then .leaving else .frozen })))) ∧
    (∀ g start cls sub ws n, start ≤ 256 → let p := performEffect s c t (.send (.group g start) cls sub ws n)
      let d := dieOf c
      let at_ : Nat → Nat := fun i => d * 256 + i
      let e := groupAt s d g
      let ours := e.getLsbD 63 = true ∧ e.toNat / 2 ^ 48 % 2 ^ 12 = ctx
      let members := (List.range 256).filter (fun i => decide (start ≤ i ∧ ours ∧ e.getLsbD (128 + i) = true ∧ resident s (at_ i) ctx = true))
      let turn : Nat → Prop := fun i => cqFull s (at_ i) ctx = false ∧ ∀ w, (posOf s (at_ i) ctx).cqWait.head? = some w → w = .print c t.toNat
      let placed : State → Nat → Prop := fun s' i => (cellAt s' (at_ i)).msgCtr = ((cellAt s (at_ i)).msgCtr + 1) % 65536 ∧
        (posOf s' (at_ i) ctx).cq = (posOf s (at_ i) ctx).cq ++
          [⟨mkSlate ctx cls.toNat ws.length false 0 (cellAt s (at_ i)).msgCtr 0 0xFFFFF, ws, none, x.msg.launch⟩]
      (members = [] → p = .done s) ∧
      ((∀ i ∈ members, turn i) → ∃ s', p = .done s' ∧ s'.mem = s.mem ∧ ∀ i ∈ members, placed s' i) ∧
      (∀ pre j post, members = pre ++ j :: post → (∀ i ∈ pre, turn i) → ¬turn j →
        (pre = [] → p = .wait) ∧
        (pre ≠ [] → ∃ s', p = .part s' (.send (.group g j) cls sub ws 1) ∧ s'.mem = s.mem ∧ posOf s' (at_ j) ctx = posOf s (at_ j) ctx ∧
          ∀ i ∈ pre, placed s' i))) ∧
    (∀ eid h cls sub ws n, let p := performEffect s c t (.send (.closeSend eid h) cls sub ws n)
      (findSend (cellAt s c) eid = none → p = .done (clearH s c t h)) ∧
      (∀ e, findSend (cellAt s c) eid = some e → e.eid = eid →
        (e.orphan = false → ¬maySend s c e began → p = .wait) ∧
        (e.orphan = true ∨ maySend s c e began → ∃ s', p = .done s' ∧ s'.mem = s.mem ∧ findSend (cellAt s' c) eid = none ∧
          (thr s' c t).h = rset x.h h 0 ∧ s'.flights = s.flights ++ (if e.orphan then [] else
            [sentNext s e.home (.data e.chan e.ctx e.home eid e.ns e.mv true (msg e 17 1 false 1 [BitVec.ofNat 64 eid] none))])))) ∧
    (∀ h cls sub ws n, performEffect s c t (.send (.closeStage h) cls sub ws n) = .done (clearH s c t h)) ∧
    (∀ eid h cls sub ws n, let p := performEffect s c t (.send (.closeRecv eid h) cls sub ws n)
      ((∀ r, findRecv (cellAt s c) eid = some r → r.st = .frozen ∨ r.st = .leaving ∨ r.closing = true) → p = .done (clearH s c t h)) ∧
      (∀ r, findRecv (cellAt s c) eid = some r → r.eid = eid → r.st ≠ .frozen → r.st ≠ .leaving → r.closing = false →
        ∃ s', p = .done s' ∧ s'.mem = s.mem ∧ (thr s' c t).h = rset x.h h 0 ∧ s'.flights = s.flights ++ [sentNext s r.home (.closer eid r.ctx)] ∧
          findRecv (cellAt s' c) eid = if r.running = 0 then none
            else some { r with st := .frozen, closing := true, notes := [], returned := [] })) ∧
    (∀ g i count eid cls sub ws n, i < 128 → let p := performEffect s c t (.send (.gate g i count eid) cls sub ws n)
      let w := (gateAt s g i).word
      let mine := w.getLsbD 63 = true ∧ w.toNat / 2 ^ 48 % 2 ^ 12 = ctx
      (¬mine → p = .done s) ∧
      (mine → w.getLsbD 62 = true → p = .done (modGate s g i (fun y => { y with word := y.word ||| 0x2000000000000000#64 }))) ∧
      (mine → w.getLsbD 62 = false → findSend (cellAt s c) eid = none ∨ (∃ e, findSend (cellAt s c) eid = some e ∧ e.orphan = true) → p = .done s) ∧
      (mine → w.getLsbD 62 = false → ∀ e, findSend (cellAt s c) eid = some e → e.eid = eid → e.orphan = false →
        (¬maySend s c e began → p = .wait) ∧
        (maySend s c e began → let m := msg e cls.toNat ws.length false 0 ws none
          ∃ s', p = .done s' ∧ s'.mem = s.mem ∧ findSend (cellAt s' c) eid = some { e with ns := e.ns + 1 } ∧
          let new := (w.extractLsb' 32 32 ++ count) ||| 0x4000000000000000#64
          (count ≠ 0 → s'.flights = s.flights ∧ gateAt s' g i = ⟨new, some ⟨e.chan, e.ctx, e.home, eid, e.ns, e.mv, m⟩⟩) ∧
          (count = 0 → s'.flights = s.flights ++ [sentNext s e.home (.data e.chan e.ctx e.home eid e.ns e.mv false m)] ∧
            gateAt s' g i = ⟨w.extractLsb' 32 32 ++ count, none⟩)))) ∧
    (∀ code a b cls sub ws n, let p := performEffect s c t (.send (.trap code a b) cls sub ws n)
      let d := dieOf c
      let y := ctxRec s d ctx
      let k := y.k.toNat
      let room := 4 ≤ k ∧ k ≤ 12 ∧ (y.widx - y.ridx).toNat < 2 ^ k
      let w0 : Word := BitVec.ofNat 64 (3 * 2 ^ 60 + ctx * 2 ^ 48 + 0xFF * 2 ^ 40 + code.toNat * 2 ^ 24 + c * 2 ^ 13 + t.toNat * 2 ^ 10)
      (unacknowledged s c t ∨ ¬room → p = .wait) ∧
      (¬unacknowledged s c t → room → p = .done (modCtxRec (applyWrite s (keysFrom (mgmtKey d ((y.base.toNat + y.widx.toNat % 2 ^ k) * 512)) 512)
        ([w0, 0, x.slate, s.cyc, a, b].flatMap (fun w => leBytes 8 w.toNat) ++ List.replicate 464 0)) d ctx (fun y => { y with widx := y.widx + 1 })))) ∧
    (∀ eid cls sub ws n, (findSend (cellAt s c) eid = none → performEffect s c t (.send (.register eid) cls sub ws n) = .done s) ∧
      (∀ e, findSend (cellAt s c) eid = some e → e.eid = eid → ∃ s', performEffect s c t (.send (.register eid) cls sub ws n) = .done s' ∧
        s'.mem = s.mem ∧ findSend (cellAt s' c) eid = some { e with registered := true } ∧
        s'.flights = s.flights ++ [sentNext s e.home (.reg e.chan e.ctx eid c e.mv)])) ∧
    (∀ op cls sub ws n, performEffect s c t (.send (.vsnd op) cls sub ws n) = .done s) ∧
    (∀ b exp, let w := word128At s (bar b)
      (w.getLsbD 115 = true → w.toNat / 2 ^ 116 ≠ ctx → performEffect s c t (.binit b exp) = .done s) ∧
      (¬(w.getLsbD 115 = true ∧ w.toNat / 2 ^ 116 ≠ ctx) → exp ≠ 0 →
        ∃ s', performEffect s c t (.binit b exp) = .done s' ∧ barMem s' b (barrierWordOf ctx false false false exp.toNat 0 0 0)) ∧
      (¬(w.getLsbD 115 = true ∧ w.toNat / 2 ^ 116 ≠ ctx) → exp = 0 → ∃ s', performEffect s c t (.binit b exp) = .done s' ∧ barMem s' b 0)) ∧
    (∀ c' b bytes, let w := word128At s (barKey c' b)
      let pend := (w.extractLsb' 0 32).toInt - (bytes.toNat : Int)
      let arv := w.toNat / 2 ^ 48 % 2 ^ 32
      let exp := w.toNat / 2 ^ 96 % 2 ^ 16
      let gen := w.toNat / 2 ^ 80 % 2 ^ 16
      (¬(w.getLsbD 115 = true ∧ w.toNat / 2 ^ 116 = ctx) → performEffect s c t (.barr c' b bytes) = .done s) ∧
      (w.getLsbD 115 = true → w.toNat / 2 ^ 116 = ctx → arv + 1 < 2 ^ 32 → -(2 ^ 31) ≤ pend →
        (arv + 1 < exp ∨ pend ≠ 0 → ∃ s', performEffect s c t (.barr c' b bytes) = .done s' ∧
          barHolds c' s' b (barrierWordOf ctx w[114] w[113] w[112] exp gen (arv + 1) pend)) ∧
        (arv + 1 = exp → pend = 0 → ∃ s', performEffect s c t (.barr c' b bytes) = .done s' ∧
          barHolds c' s' b (barrierWordOf ctx (!w[114]) w[113] w[112] exp (gen + 1) 0 0)))) ∧
    (∀ b (n : Nat), let w := word128At s (bar b)
      let pend := (w.extractLsb' 0 32).toInt + (n : Int)
      w.getLsbD 115 = true → w.toNat / 2 ^ 116 = ctx →
      (2 ^ 31 ≤ pend → ∃ s', performEffect s c t (.bexp b n) = .done s' ∧ barMem s' b (w ||| BitVec.ofNat 128 (2 ^ 113))) ∧
      (pend < 2 ^ 31 → pend ≠ 0 → ∃ s', performEffect s c t (.bexp b n) = .done s' ∧
        barMem s' b (barrierWordOf ctx w[114] w[113] w[112] (w.toNat / 2 ^ 96 % 2 ^ 16) (w.toNat / 2 ^ 80 % 2 ^ 16) (w.toNat / 2 ^ 48 % 2 ^ 32) pend))) ∧
    (∀ i : BitVec 7, let g := gateAt s (groveOf c) i.toNat
      g.word.getLsbD 63 = true → g.word.toNat / 2 ^ 48 % 2 ^ 12 = ctx →
      (g.word.toNat % 2 ^ 32 = 0 → ∃ s', performEffect s c t (.gdec i) = .done s' ∧ (gateAt s' (groveOf c) i.toNat).word = g.word ||| 0x1000000000000000#64) ∧
      (1 < g.word.toNat % 2 ^ 32 → ∃ s', performEffect s c t (.gdec i) = .done s' ∧ s'.flights = s.flights ∧
        gateAt s' (groveOf c) i.toNat = { g with word := g.word - 1 }) ∧
      (∀ m, g.word.toNat % 2 ^ 32 = 1 → g.word.getLsbD 62 = true → g.held = some m → ∃ s', performEffect s c t (.gdec i) = .done s' ∧
        (gateAt s' (groveOf c) i.toNat).held = none ∧ (gateAt s' (groveOf c) i.toNat).word.getLsbD 62 = false ∧
        s'.flights = s.flights ++ [sentNext s m.home (.data m.chan m.ctx m.home m.sid m.seq m.mv false m.msg)]))

/-- R187, R190, R194, R195, R196, R198, R199, R200, R209, R344, R359, R360: a request is answered at its home, by what it asks (for contexts that are
not protected, where bytes are read or written there), its answer reaches the latch or ends the take, walks fill the translation unit, host atomics pass the proxy lanes, posted accesses are acknowledged, and what the links lose is refused. The
model's choices: `reqErrors` as the uncorrectable errors (log 86), the expiry and the loss counted from `born` (log 90), watches on other homes
firing at the acknowledgement (log 91), `planeLoss` changing nothing (log 93), the walk queue (log 74), which earlier requests
hold an arrival back (log 111), what a load may read early (log 120), the status of a failed block read (log 112), an atomic performed where it is
applied (log 23), and host memory held as bytes of the model (log 88). -/
def Obligations.RemoteRequests : Prop :=
  (∀ s id r, findReq s id = some r → r.stage = .sent → r.discarded = false → firstInLine s r = true →
    let t := BitVec.ofNat 3 r.th
    (∀ c o n sx acq neff, r.kind = .load (.loc c o) n sx acq neff →
      (∀ e, peerCheck s c r.ctx o n false = some e →
        exec (.remoteRequestArrival (.own id)) s = .next (modReq s id (fun q => { q with stage := .answered (.refused e) }))) ∧
      (peerCheck s c r.ctx o n false = none → viewUnknown ((thr s r.cell t).effects.take neff) (locKey c o) n = false → id ∈ s.reqErrors →
        exec (.remoteRequestArrival (.own id)) s = .next (modReq s id (fun q => { q with stage := .ecc }))) ∧
      (peerCheck s c r.ctx o n false = none → isProtected s r.ctx = false → id ∉ s.reqErrors →
        viewUnknown ((thr s r.cell t).effects.take neff) (locKey c o) n = false →
        exec (.remoteRequestArrival (.own id)) s = .next (answeredAs s id
          (.data (BitVec.ofNat 128 (leNat (viewBytes s r neff (.loc c o) (keysFrom (locKey c o) n)))))))) ∧
    (∀ c b, r.kind = .barr c b →
      let w := word128At s (locKey c (0x16000 + 16 * b.toNat))
      let a : Answer := if w.getLsbD 115 = false then .refused .notMapped else if w.toNat / 2 ^ 116 = r.ctx then .data 0 else .refused .permission
      exec (.remoteRequestArrival (.own id)) s = .next (modReq s id (fun q => { q with stage := .answered a })))) ∧
  (∀ s id r, AtHome s id r → let arrive := exec (.remoteRequestArrival (.own id)) s
    let t := BitVec.ofNat 3 r.th
    let q := touchRuns s (groveOf r.cell) r.ctx (globalRuns s r)
    let effs := (thr s r.cell t).effects
    let answers : State → Answer → Prop := fun s' a => arrive = .next (answeredAs s' id a)
    let ecc : Prop := arrive = .next (modReq q id (fun r => { r with stage := .ecc }))
    (r.discarded = true → (∀ ks bs w, r.kind ≠ .posted ks bs w) → (∀ a b n k w, r.kind ≠ .block a b n k w) → (∀ a n w, r.kind ≠ .atomic a n w) →
      answers s (.data 0)) ∧
    (r.discarded = false → firstInLine s r = true →
      (∀ tgt n sx acq neff, r.kind = .load tgt n sx acq neff → match targetKeys q r false tgt n with
        | .error e => answers q (.refused e)
        | .ok ks => (viewUnknown (effs.take neff) (identOf tgt) ks.length = true → arrive = .next s) ∧
          (viewUnknown (effs.take neff) (identOf tgt) ks.length = false → (id ∈ s.reqErrors → ecc) ∧
            (id ∉ s.reqErrors → isProtected s r.ctx = false → answers q (.data (BitVec.ofNat 128 (leNat (viewBytes s r neff tgt ks))))))) ∧
      (∀ tgt n insn neff, r.kind = .check tgt n none insn neff → match targetKeys q r true tgt n with
        | .error e => answers q (.refused e)
        | .ok ks => (haltedKeys s r.ctx ks = true → ecc) ∧ (haltedKeys s r.ctx ks = false → answers (fillEffects q r insn ks none) (.data 0))) ∧
      (∀ tgt n what insn neff, r.kind = .check tgt n (some what) insn neff → (∀ va, tgt = .glb va → isAredAt s r insn = false) →
        match targetKeys q r true tgt n with
        | .error e => answers q (.refused e)
        | .ok ks =>
          let carried := ks.any isHostKey = false ∨ hostCarries n what = true
          (¬carried → answers q (.refused .unsupported)) ∧
          (carried → viewUnknown (effs.take neff) (identOf tgt) ks.length = true → arrive = .next s) ∧
          (carried → viewUnknown (effs.take neff) (identOf tgt) ks.length = false → (id ∈ s.reqErrors → ecc) ∧
            (id ∉ s.reqErrors → isProtected s r.ctx = false → let old := leNat (viewBytes s r neff tgt ks)
              answers (fillEffects q r insn ks (some (BitVec.ofNat 128 (rmwLeaves what n old)))) (.data (BitVec.ofNat 128 old))))) ∧
      (∀ va n what insn neff, r.kind = .check (.glb va) n (some what) insn neff → isAredAt s r insn = true →
        match windowOf s va, targetKeys q r true (.glb va) n with
        | none, _ => answers q (.refused .outsideWindows)
        | some _, .error e => answers q (.refused e)
        | some w, .ok ks =>
          let ls := windowKeys s w ks
          (∀ e, homeDenies s r.up r.ctx (ls.headD 0) n true = some e → answers q (.refused e)) ∧
          (homeDenies s r.up r.ctx (ls.headD 0) n true = none → (haltedKeys s r.ctx ls = true → ecc) ∧
            (haltedKeys s r.ctx ls = false → answers (fillEffects q r insn ls none) (.data 0)))) ∧
      (∀ tgt n wr use, r.kind = .header tgt n wr use → match targetKeys q r wr tgt n with
        | .error e => answers q (.refused e)
        | .ok ks =>
          let h := BitVec.ofNat 128 (leNat (readKeys s.mem ks))
          let d : BitVec 32 → Nat := fun i => (i - h.extractLsb' 32 32).toNat
          (use = .access → answers q (.data 0)) ∧ (∀ insn, use = .block insn → answers (fillEffects q r insn ks none) (.data 0)) ∧
          (use ≠ .access → (∀ insn, use ≠ .block insn) → id ∈ s.reqErrors → ecc) ∧
          (id ∉ s.reqErrors →
            (use = .wait → (goodHeader h → answers q (.data 0)) ∧ (¬goodHeader h → answers q .format)) ∧
            (∀ i, use = .release i → let ok := goodHeader h ∧ d i < 16 ∧ d i < (h.extractLsb' 0 32 - h.extractLsb' 32 32).toNat
              (ok → answers q (.data 0)) ∧ (¬ok → answers q .format)) ∧
            (use = .peek → (goodHeader h → answers q (.data ((h.extractLsb' 0 64).setWidth 128))) ∧ (¬goodHeader h → answers q .format)) ∧
            (use = .watch → answers (armWatch q r.cell r.th r.ctx (ks.headD 0)) (.data 0)))) ∧
      (∀ op, r.kind = .engine op → engineOp s r.cell op = none → answers q (.data 0)) ∧
      (∀ op vx o, r.kind = .engine op → engineOp s r.cell op = some (vx, o) → match opKeys q r (memWrites o.insn) o.runs with
        | .error e => answers q (.refused e)
        | .ok ks =>
          let err := (memReads o.insn = true ∧ id ∈ s.reqErrors) ∨ (memWrites o.insn = true ∧ haltedKeys s r.ctx ks = true)
          let kept : EngOp → State := fun p => let s1 := modThr q r.cell t (fun x => { x with pages := x.pages ++ globalRuns s r })
            modCell s1 r.cell (fun x => if vx then { x with vxf := some p } else { x with mxf := some p })
          (err → ecc) ∧
          (¬err → loadsRuns o.insn = false → answers (kept { o with keys := some ks }) (.data 0)) ∧
          (¬err → loadsRuns o.insn = true → o.id ∉ s.opErrors → ∀ bss, readRuns q r.cell t o ks = .ok bss →
            answers (kept { o with keys := some ks, data := some bss.flatten }) (.data 0)))) ∧
    (∀ tgt n what, r.kind = .atomic tgt n what → match targetKeys q r true tgt n with
      | .error e => answers q (.refused e)
      | .ok ks =>
        let host := ks.any isHostKey
        (host = true → (hostCarries n what = true → arrive = .next s) ∧ (hostCarries n what = false → answers q (.refused .unsupported))) ∧
        (host = false → postedFirst s r (some ks) → arrive = .next s) ∧
        (host = false → ¬postedFirst s r (some ks) → id ∈ s.reqErrors → ecc) ∧
        (∀ k l, ks = k :: l → host = false → ¬postedFirst s r (some ks) → id ∉ s.reqErrors → isProtected s r.ctx = false →
          let old := leNat (readKeys s.mem (keysFrom k n))
          ∃ s', arrive = .next s' ∧ (∀ v, rmwNew what n old = some v → s'.mem = writeKeys s.mem (keysFrom k n) (leBytes n v)) ∧
            (rmwNew what n old = none → s'.mem = s.mem) ∧ s'.reqs = s.reqs.map (fun p => if p.id = id then { p with
              stage := .answered (.data (BitVec.ofNat 128 old)), fires := if (rmwNew what n old).isSome then ks.filter isSystemKey else [] } else p))) ∧
    (∀ ks bs, r.kind = .posted ks bs none → ∃ ls : List (Nat × Byte), (∀ e ∈ ls, e ∈ ks.zip bs) ∧
      ((∀ k ∈ ks, isPeerKey k = false) → ls = ks.zip bs) ∧ arrive = .next (modReq { s with mem := writeKeys s.mem (ls.map (·.1)) (ls.map (·.2)) } id
        (fun q => { q with stage := .applied, fires := (ls.map (·.1)).filter isSystemKey }))) ∧
    (∀ k l bs n what, r.kind = .posted (k :: l) bs (some (n, what)) → let ks := k :: l
      let gone : Prop := arrive = .next (modReq s id (fun q => { q with stage := .applied, fires := [] }))
      ((peerRefuses s k n true).isSome = true → gone) ∧
      (peerRefuses s k n true = none → ks.any isHostKey = true → (hostCarries n what = true → arrive = .next s) ∧ (hostCarries n what = false → gone)) ∧
      (peerRefuses s k n true = none → ks.any isHostKey = false → isProtected s r.ctx = false →
        match rmwNew what n (leNat (readKeys s.mem (keysFrom k n))) with
        | none => gone
        | some v => ∃ s', arrive = .next s' ∧ s'.mem = writeKeys s.mem (keysFrom k n) (leBytes n v) ∧
          s'.reqs = s.reqs.map (fun p => if p.id = id then { p with stage := .applied, fires := ks.filter isSystemKey } else p))) ∧
    (∀ src ks dst cls w, r.kind = .block src ks dst cls w → let c := r.cell
      let turn := cqFull s c r.ctx = false ∧ ∀ v, (posOf s c r.ctx).cqWait.head? = some v → v = .block id
      let placed : State → Nat → Prop := fun s' st => findReq s' id = none ∧ (posOf s' c r.ctx).cq = (posOf s c r.ctx).cq ++
        [⟨mkSlate r.ctx cls.toNat 4 false 0 (cellAt s c).msgCtr 0 0xFFFFF, [BitVec.ofNat 64 dst, w, BitVec.ofNat 64 ks.length, BitVec.ofNat 64 st], none, r.launch⟩]
      (postedFirst s r none ∨ ¬turn → arrive = .next s) ∧
      (¬postedFirst s r none → turn → resident s c r.ctx = true →
        (∀ e, blockDenied s r src ks = some e → ∃ s', arrive = .next s' ∧ s'.mem = s.mem ∧ placed s' (0x100 + causeCode (reasonCause e))) ∧
        (blockDenied s r src ks = none → id ∈ s.reqErrors → ∃ s', arrive = .next s' ∧ s'.mem = s.mem ∧ placed s' (0x100 + causeCode .ecc)) ∧
        (blockDenied s r src ks = none → id ∉ s.reqErrors → isProtected s r.ctx = false → ∃ s', arrive = .next s' ∧ placed s' 0 ∧
          s'.mem = writeKeys s.mem (keysFrom (locKey c dst) ks.length) (readKeys s.mem ks))))) ∧
  (∀ s src pa bs, inboundAllows s src pa bs.length true = true →
    exec (.remoteRequestArrival (.peerWrite src pa bs)) s = .next (applyWrite s (keysFrom (hbmKey pa) bs.length) bs)) ∧
  (∀ s id r, findReq s id = some r →
    let t := BitVec.ofNat 3 r.th
    let x := thr s r.cell t
    (∀ a, r.stage = .answered a → r.discarded = true → exec (.remoteAnswer id) s = .next (fireWatches (dropReq s id) r.fires)) ∧
    (∀ tgt n sx acq neff v, r.stage = .answered (.data v) → r.discarded = false → x.phase ≠ .reporting → r.kind = .load tgt n sx acq neff → r.id = id → 0 < n →
      ∃ s', exec (.remoteAnswer id) s = .next s' ∧ (thr s' r.cell t).orc = x.orc - 1 ∧ s'.mem = s.mem ∧ findReq s' id = none ∧
        (rget x.y 7#4 = .pending (.request id) → rget (thr s' r.cell t).y 7#4 = .ready
          (if n = 16 ∨ sx = false then BitVec.ofNat 64 v.toNat
            else BitVec.ofInt 64 (if 2 ^ (8 * n - 1) ≤ v.toNat % 2 ^ (8 * n) then (v.toNat % 2 ^ (8 * n) : Int) - 2 ^ (8 * n) else v.toNat % 2 ^ (8 * n)))) ∧
        (n = 16 → rget (thr s' r.cell t).e 3#3 = BitVec.ofNat 64 (v.toNat / 2 ^ 64)) ∧ (n ≠ 16 → (thr s' r.cell t).e = x.e)) ∧
    (∀ e, r.stage = .answered (.refused e) → r.discarded = false → x.phase ≠ .reporting →
      ∃ s', exec (.remoteAnswer id) s = .next s' ∧ TakeEnded s' r.cell t) ∧
    (r.stage = .ecc → r.discarded = false → x.phase ≠ .reporting → ∃ s', exec (.remoteAnswer id) s = .next s' ∧ TakeEnded s' r.cell t) ∧
    (∀ ks bs w, r.kind = .posted ks bs w → r.stage = .applied →
      exec (.acknowledgement id) s = .next (fireWatches (dropReq s id) r.fires)) ∧
    (r.stage = .sent → reqLeaves s r = true →
      (r.born + 2 ^ 21 ≤ s.cyc.toNat → exec (.packetLifetimeExpiry id) s = .next (modReq s id (fun q => { q with stage := .expired }))) ∧
      (s.cyc.toNat < r.born + 2 ^ 21 → exec (.packetLifetimeExpiry id) s = .next s) ∧
      (s.cyc.toNat < r.born + 2 ^ 22 → exec (.requestLost id) s = .next s)) ∧
    (r.stage = .sent ∨ r.stage = .expired → reqLeaves s r = true → r.born + 2 ^ 22 ≤ s.cyc.toNat → r.id = id →
      (∀ ks bs w, r.kind = .posted ks bs w → exec (.requestLost id) s = .next (Lost s id r)) ∧
      ((∀ ks bs w, r.kind ≠ .posted ks bs w) → (∀ a b n k w, r.kind ≠ .block a b n k w) →
        exec (.requestLost id) s = .next (modReq s id (fun q => { q with stage := .answered (.refused .unreachable) })))) ∧
    (∀ ks n what, r.stage = .sent → hostAtomic s r = some (ks, n, what) → r.id = id →
      let d := dieOf r.cell
      let l := laneOf (ks.headD 0 % 2 ^ 48)
      let behind : Prop := ∃ q ∈ s.reqs, q.id < id ∧ q.cell = r.cell ∧ q.th = r.th ∧ ∃ ks' bs' w', q.kind = .posted ks' bs' w' ∧
        ∃ a ∈ ks', ∃ b ∈ ks, a / 64 = b / 64
      (¬behind → (laneAt s d l).length < 32 → exec (.proxyAtomic id) s = .next
        (setLane (modReq s id (fun q => { q with stage := .lane })) d l (issueHead (laneAt s d l ++ [⟨id, false, ks⟩])))) ∧
      (behind ∨ 32 ≤ (laneAt s d l).length → exec (.proxyAtomic id) s = .next s))) ∧
  (∀ s d l e q r ks bs n what, laneAt s d l = e :: q → findReq s e.req = some r → r.id = e.req → r.kind = .posted ks bs (some (n, what)) →
    exec (.hostAtomicCompletion d l true) s = .next (Lost (setLane s d l (issueHead q)) e.req r) ∧
    (rmwNew what n (leNat (readKeys s.mem ks)) = none → exec (.hostAtomicCompletion d l false) s = .next
      (modReq (setLane s d l (issueHead q)) r.id (fun q => { q with stage := .applied, fires := [] }))) ∧
    (∀ v, rmwNew what n (leNat (readKeys s.mem ks)) = some v → exec (.hostAtomicCompletion d l false) s = .next
      (modReq { setLane s d l (issueHead q) with mem := writeKeys s.mem ks (leBytes n v) } r.id
        (fun q => { q with stage := .applied, fires := ks.filter isSystemKey })))) ∧
  (∀ s d l e q r tgt n what, laneAt s d l = e :: q → findReq s e.req = some r → r.id = e.req → r.kind = .atomic tgt n what →
    let old := leNat (readKeys s.mem e.keys)
    exec (.hostAtomicCompletion d l true) s = .next
      (modReq (setLane s d l (issueHead q)) r.id (fun q => { q with stage := .answered (.refused .unreachable) })) ∧
    (r.id ∈ s.reqErrors → exec (.hostAtomicCompletion d l false) s = .next
      (modReq (setLane s d l (issueHead q)) r.id (fun q => { q with stage := .ecc }))) ∧
    (r.id ∉ s.reqErrors → ∃ s', exec (.hostAtomicCompletion d l false) s = .next s' ∧
      s'.mem = (match rmwNew what n old with
        | some v => writeKeys s.mem e.keys (leBytes n v)
        | none => s.mem) ∧
      s'.reqs = s.reqs.map (fun q => if q.id = r.id then
        { q with stage := .answered (.data (BitVec.ofNat 128 old)), fires := if (rmwNew what n old).isSome then e.keys else q.fires } else q))) ∧
  (∀ s g ctx (va : Word), let waiting := s.reqs.filter (waitsWalk s g ctx va.toNat)
    let walked := (ctx, va.toNat / 2 ^ 16) ∈ (missQueue s g).take 16
    (waiting = [] ∨ ¬walked → exec (.tlbWalkComplete g ctx va) s = .next s) ∧
    (∀ r0 rest, walked → waiting = r0 :: rest → walk s (dieOf r0.cell) ctx va.toNat = none →
      ∃ s', exec (.tlbWalkComplete g ctx va) s = .next s' ∧ s'.mem = s.mem ∧ s'.reqs = s.reqs.map (fun q =>
        if q.id ∈ waiting.map (·.id) then { q with stage := .answered (.refused .notMapped) } else q)) ∧
    (∀ r0 rest lvl e, walked → waiting = r0 :: rest → walk s (dieOf r0.cell) ctx va.toNat = some (lvl, e) →
      let leaf : TlbEntry := ⟨ctx, lvl, va.toNat / 2 ^ pageBits lvl, e⟩
      ∃ s', exec (.tlbWalkComplete g ctx va) s = .next s' ∧ s'.mem = s.mem ∧ (groveAt s' g).tlb.head? = some leaf ∧
        s'.reqs = s.reqs.map (fun q => if q.id ∈ waiting.map (·.id) then { q with leaves := leaf :: q.leaves } else q))) ∧
  (∀ s plane, exec (.planeLoss plane) s = .next s)

/-- R240, R241, R250, R253, R256, R257, R258, R259, R260: what the packets of the splice protocol do at the home and at the holder. The model's
choices: RETURN and FWD carry the hold (log 38), closures are packets that pass the completion queue (log 41), the stub and the installation of
what a lane names, and the wait of a note for END (log 43), REG or MOVED answered by a closure and a MOVE answered by END where the channel is gone
(log 44), one message for each REG (log 45), messages for a closed end (log 46), and the order of returned notes (log 108). -/
def Obligations.SplicePackets : Prop :=
  ∀ s id c, let s0 := dropFlight s id
    (∀ p born k i, findFlight s id = some ⟨id, c, p, born⟩ → k ∈ s.kills → sweptCtx p = some k.ctx → dieOf c ∉ k.routers →
      i ∈ [Instr.dataPkt id, .notePkt id, .fwdPkt id, .freePkt id, .returnPkt id, .creditPkt id, .regPkt id, .movedPkt id, .pullPkt id, .shipPkt id,
        .movePkt id, .endPkt id, .closerPkt id] → exec i s = .next s) ∧
    (∀ ctx sid n, InFlight s id c (.credit ctx sid n) → exec (.creditPkt id) s = .next (modSend s0 c sid (fun e => { e with ck := max e.ck n }))) ∧
    (∀ chan ctx home sid seq mv msg h d i, InFlight s id c (.data chan ctx home sid seq mv false msg) →
      findHome (cellAt s c) chan = some h → h.closed = false → findSender h sid = some d → freeSlotOf h = some i →
      tenantOk s ctx (holderCtx s h) = true → (∀ e ∈ h.slots, ¬(e.2.sid = sid ∧ e.2.seq = seq)) → i ∉ h.slots.map (·.1) →
      (seq = d.nx → ∃ s' more, exec (.dataPkt id) s = .next s' ∧ s'.mem = s.mem ∧
        s'.flights = s0.flights ++ sentNext s h.holder (.note chan h.ctx ⟨h.ai, i, sid, seq⟩) :: more) ∧
      (seq ≠ d.nx → (∀ e ∈ h.slots, ¬(e.2.sid = sid ∧ e.2.seq = d.nx)) → exec (.dataPkt id) s = .next (modHome s0 c chan (fun h =>
        { h with slots := tput h.slots i ⟨sid, seq, true, false, false, msg⟩ })))) ∧
    (∀ chan ctx home sid seq mv b msg h, InFlight s id c (.data chan ctx home sid seq mv b msg) → msg.lane = none →
      (findHome (cellAt s c) chan = none ∨ (findHome (cellAt s c) chan = some h ∧ h.closed = true)) → exec (.dataPkt id) s = .next s0) ∧
    (∀ chan ctx n r, InFlight s id c (.note chan ctx n) ∨ InFlight s id c (.fwd chan ctx none n) → findStub (cellAt s c) chan = none →
      findRecv (cellAt s c) chan = some r → r.closing = false → Plain s r [n] →
      let out := modRecv s0 c chan (fun r => queuedNow s.cyc.toNat n.ai { r with notes := noteInsert n r.notes })
      (InFlight s id c (.note chan ctx n) → exec (.notePkt id) s = .next out) ∧
      (InFlight s id c (.fwd chan ctx none n) → exec (.fwdPkt id) s = .next out)) ∧
    (∀ chan ctx n u i, (i = .notePkt id ∧ InFlight s id c (.note chan ctx n)) ∨ (i = .fwdPkt id ∧ InFlight s id c (.fwd chan ctx none n)) →
      findStub (cellAt s c) chan = some u → u.start ≤ n.ai → n.ai ∉ u.passed → (∀ a, u.limit = some a → n.ai < a) →
      (u.limit = none → findRecv (cellAt s c) chan ≠ none → exec i s = .next s) ∧
      (u.limit ≠ none ∨ findRecv (cellAt s c) chan = none → ∃ s', exec i s = .next s' ∧ s'.mem = s.mem ∧
        s'.flights = s0.flights ++ [sentNext s u.successor (.fwd chan u.ctx none n)])) ∧
    (∀ chan ctx n hold r, findRecv (cellAt s c) chan = some r → r.closing = false → Plain s r [n] →
      let out := modRecv s0 c chan (fun r =>
        queuedNow s.cyc.toNat n.ai { r with returned := noteInsert n r.returned, held := r.held || hold, since := none })
      (InFlight s id c (.ret chan ctx n hold) → exec (.returnPkt id) s = .next out) ∧
      (InFlight s id c (.fwd chan ctx (some hold) n) → exec (.fwdPkt id) s = .next out)) ∧
    (∀ chan ctx home slot sid h d, InFlight s id c (.free chan ctx home slot sid) → findHome (cellAt s c) chan = some h → h.closed = false →
      (∃ e ∈ h.slots, e.1 = slot ∧ e.2.sid = sid) → (∀ e ∈ h.slots, e.1 = slot → e.2.isClose = false) → findSender h sid = some d →
      ∃ s', exec (.freePkt id) s = .next s' ∧ s'.flights = s0.flights ++ [sentNext s d.loc (.credit h.ctx sid (d.cnsm + 1))] ∧
        (findHome (cellAt s' c) chan).map (·.slots) = some (tdel h.slots slot)) ∧
    (∀ chan ctx sid cell mv, let closed := sendPkt s0 cell (.closure ctx sid)
      let out : (Instr → State → Prop) → Prop := fun f => ∀ i, (i = .regPkt id ∧ InFlight s id c (.reg chan ctx sid cell mv)) ∨
        (i = .movedPkt id ∧ InFlight s id c (.moved chan ctx sid cell mv)) → ∃ s', exec i s = .next s' ∧ f i s'
      (findHome (cellAt s c) chan = none → out (fun _ s' => s' = closed)) ∧
      (∀ h, findHome (cellAt s c) chan = some h →
        (h.closed = true → out (fun _ s' => s' = closed)) ∧
        (h.closed = false → findSender h sid = none → out (fun _ s' => s' = sendPkt (modHome s0 c chan (fun h =>
          { h with senders := h.senders ++ [⟨sid, cell, mv, 0, 0⟩] })) cell (.credit ctx sid 0))) ∧
        (∀ d, h.closed = false → findSender h sid = some d → d.mv ≤ mv → out (fun _ s' => s' = sendPkt (modHome s0 c chan (fun h =>
          { h with senders := h.senders.map (fun e => if e.sid = sid then { e with loc := cell, mv := mv } else e) })) cell (.credit ctx sid d.cnsm))))) ∧
    (∀ chan ctx new r, InFlight s id c (.pull chan ctx new) → findRecv (cellAt s c) chan = some r → r.eid = chan →
      (r.st = .inbound ∨ r.st = .leaving → exec (.pullPkt id) s = .next (modRecv s0 c chan (fun r => { r with pull := some new }))) ∧
      (r.st = .active ∨ r.st = .frozen → findStub (cellAt s c) chan = none → ∃ s', exec (.pullPkt id) s = .next s' ∧ findRecv (cellAt s' c) chan = none ∧
        findStub (cellAt s' c) chan = some ⟨chan, r.ctx, r.home, new, r.b, r.notes.map (·.ai), none, r.running, r.gen⟩ ∧
        s'.flights = s0.flights ++ [⟨s.nextFlight, new, .ship chan r.ctx r.home (r.gen + 1) r.b r.notes r.returned r.running r.held, s.cyc.toNat⟩,
          ⟨s.nextFlight + 1, r.home, .move chan r.ctx c new (r.gen + 1), s.cyc.toNat⟩])) ∧
    (∀ chan ctx home gen b notes returned running held r, InFlight s id c (.ship chan ctx home gen b notes returned running held) →
      findRecv (cellAt s c) chan = some r → r.eid = chan → r.st = .inbound → r.pull = none → r.notes = [] → r.returned = [] → r.held = false →
      Plain s r (notes ++ returned) →
      ∃ s' news, exec (.shipPkt id) s = .next s' ∧ s'.flights = s0.flights ∧ s'.mem = s.mem ∧ findRecv (cellAt s' c) chan = some { r with
        gen := gen, b := b, st := .active, held := held, notes := notes.foldl (fun l n => noteInsert n l) [],
        returned := returned.foldl (fun l n => noteInsert n l) [], news := news }) ∧
    (∀ chan ctx prev new h, InFlight s id c (.move chan ctx prev new (h.gen + 1)) → findHome (cellAt s c) chan = some h → h.moves = [] →
      ∃ s', exec (.movePkt id) s = .next s' ∧ s'.flights = s0.flights ++ [sentNext s prev (.fin chan h.ctx h.ai)] ∧
        (h.closed = false ∨ h.slots ≠ [] → findHome (cellAt s' c) chan = some { h with holder := new, gen := h.gen + 1 }) ∧
        (∀ x ∈ (cellAt s' c).homes, ¬(x.chan = chan ∧ x.closed = true ∧ x.slots = [] ∧ x.moves = []))) ∧
    (∀ chan ctx prev new gen, InFlight s id c (.move chan ctx prev new gen) → findHome (cellAt s c) chan = none →
      exec (.movePkt id) s = .next (sendPkt s0 prev (.fin chan ctx 0))) ∧
    (∀ chan ctx a u, InFlight s id c (.fin chan ctx a) → (cellAt s c).stubs.filter (fun u => u.chan == chan) = [u] →
      let s1 := modStub s0 c chan (fun u => { u with limit := some a })
      let u1 : Stub := { u with limit := some a }
      (stubDone s1 c u1 = true → u.running = 0 ∧ ∀ i, u.start ≤ i → i < a → i ∈ u.passed) ∧
      ∃ s', exec (.endPkt id) s = .next s' ∧ s'.flights = s0.flights ∧
        findStub (cellAt s' c) chan = if stubDone s1 c u1 = true then none else some u1) ∧
    (∀ chan ctx h, InFlight s id c (.closer chan ctx) → findHome (cellAt s c) chan = some h → h.slots = [] →
      ∃ s', exec (.closerPkt id) s = .next s' ∧ s'.mem = s.mem ∧ s'.flights.map (fun f => (f.dst, f.pkt)) =
        s0.flights.map (fun f => (f.dst, f.pkt)) ++ h.senders.map (fun d => (d.loc, .closure h.ctx d.sid))) ∧
    (∀ ctx sid e, InFlight s id c (.closure ctx sid) → findSend (cellAt s c) sid = some e → e.orphan = false → resident s c e.ctx = true →
      let turn : Prop := cqFull s c e.ctx = false ∧ ∀ w, (posOf s c e.ctx).cqWait.head? = some w → w = .closure sid
      (¬turn → exec (.closerPkt id) s = .next s) ∧
      (turn → ∃ s', exec (.closerPkt id) s = .next s' ∧ findSend (cellAt s' c) sid = some { e with orphan := true } ∧
        (posOf s' c e.ctx).cq = (posOf s c e.ctx).cq ++
          [⟨mkSlate e.ctx 17 1 false 0 (cellAt s c).msgCtr 2 0xFFFFF, [BitVec.ofNat 64 sid], none, 0⟩]))

/-! ## Events of the device -/

/-- R13, R80, R295, R296: what a dispatch picks is bound and goes to a free thread; the take starts with the registers of Table 4.2.
The model's choice: what the scratch window and the own files hold at the start is a free value (log entry 1). -/
def Obligations.DispatchStartsTakes : Prop :=
  (∀ s c, cellPick s c = none → exec (.dispatch c) s = .next s) ∧
  (∀ s c ctx t p, cellPick s c = some (ctx, t, p) →
    (thr s c t).phase = .idle ∧ mayDispatch s c ctx = true ∧ ((∃ r m n, p = .landing r m n) ↔ t = 7#3) ∧
    (t ≠ 7#3 → ∀ u : BitVec 3, u.toNat < t.toNat → (thr s c u).phase ≠ .idle) ∧
    ∃ s', exec (.dispatch c) s = .next s' ∧ ScratchFresh s s' c t ctx ∧
      (∀ r n m, p = .chan r n m → bound s c ctx (slateCls m.slate) = true ∧ Starts s s' c t ctx (slateCls m.slate) m (.channel r.eid n r.home)) ∧
      (∀ m, p = .completion m → bound s c ctx (slateCls m.slate) = true ∧ Starts s s' c t ctx (slateCls m.slate) m .completion) ∧
      (∀ i x, p = .stage i x → let g := stageAt s (dieOf c) i
        bound s c ctx g.cls.toNat = true ∧ g.hold = false ∧
          ∃ m, Starts s s' c t ctx g.cls.toNat m (.stage i x g.lid.toNat) ∧
            let k := stageHdr (dieOf c) g
            let word : Nat → Word := fun j => if k + reelSlot (stageReel s (dieOf c) g) x + 8 * j + 8 ≤ memEnd k
              then word64At s (k + reelSlot (stageReel s (dieOf c) g) x + 8 * j) else 0
            m.payload = (List.range (min 8 (slateNw (word 0)))).map (fun j => word (j + 1))) ∧
      (∀ r m n, p = .landing r m n → bound s c ctx 18 = true ∧ Starts s s' c t ctx 18 m (.landing r n)) ∧
      (∀ u, u ≠ t → thr s' c u = thr s c u) ∧ (∀ d, d ≠ c → cellAt s' d = cellAt s d)) ∧
  (∀ l b, bestPick l = some b → b ∈ l ∧ ∀ e ∈ l, e.1.before b.1 = false)

/-- R226, R227, R228, R231, R235, R294, R362, R363: a request starts, claims its slots, moves its data, places its packets, publishes its record,
and is freed; whoever has waited longest for slots or room is served first. The model's choices: the header and m0 of a landing packet (log 39),
0 bytes after a failed read and the bits a sub-byte write keeps (log 55, 52), what the bytes of a queue pair are (log 58), the bytes a record
counts (log 59), `copyErrors` as the uncorrectable errors (log 86), the order of the checks (log 51), band and turned scales (log 53, 54), sealing
under an entry's key (log 56), and the amax of bytes without a format (log 118). -/
def Obligations.CopyEngineRuns : Prop :=
  ∀ s c, let x := cellAt s c
    (∀ q o, OldestKicked x q o → x.jobs.length < 2 → (∀ j ∈ x.jobs, j.moved = true) → let f := rget x.fifo q
      let j : CopyJob := ⟨q, o, f.ctx, f.launch, f.w0, f.w1, f.w2, f.w3, 0, none, [], false, 0, 0, false, false, none, readDesc s c f.w3.toNat⟩
      let s1 := drainPinned s
      exec (.copyStart c) s = .next (modCell s1 c (fun x => { x with jobs := x.jobs ++ [{ j with err := copyError s1 c j }] }))) ∧
    ((2 ≤ x.jobs.length ∨ (∃ j ∈ x.jobs, j.moved = false)) → exec (.copyStart c) s = .next s) ∧
    (∀ j, x.jobs.find? (fun j => j.claim.isNone) = some j →
      let k := jobReel c j
      let h := word128At s k
      let n := j.w0.toNat / 2 ^ 16 % 16 + 1
      let claimed := fun (m : Nat) => write128 s k (withC h (reelC h + BitVec.ofNat 32 m))
      let j' : CopyJob := { j with claim := some (reelC h, n), waits := none }
      let turn : Prop := ¬reelWaiter s k (j.waits.getD s.cyc.toNat)
      (¬goodHeader h → exec (.copyClaim c) s = .next (freed s c j)) ∧
      (goodHeader h → 2 ^ reelK h < n → reelRoom h 1 = true → turn → exec (.copyClaim c) s = .next (modJob (claimed 1) c j.order (fun _ =>
        { j with claim := some (reelC h, 1), err := 1, moved := true, waits := none }))) ∧
      (goodHeader h → reelRoom h (if 2 ^ reelK h < n then 1 else n) = false ∨ ¬turn → exec (.copyClaim c) s = .next s) ∧
      (goodHeader h → n ≤ 2 ^ reelK h → reelRoom h n = true → turn →
        (j.err ≠ 0 → exec (.copyClaim c) s = .next (modJob (claimed n) c j.order (fun _ => { j' with moved := true }))) ∧
        (j.err = 0 → netSource s c j = true → exec (.copyClaim c) s = .next (modJob (claimed n) c j.order (fun _ =>
          { j' with network := true }))) ∧
        (j.err = 0 → netSource s c j = false → j.order ∈ s.copyErrors → exec (.copyClaim c) s = .next (modJob (claimed n) c j.order (fun _ =>
          { j' with err := 7, bytes := 0, amax := 0, moved := true, network := false }))) ∧
        (j.err = 0 → netSource s c j = false → j.order ∉ s.copyErrors → let s1 := modJob (claimed n) c j.order (fun _ => j')
          let d := j.desc
          (∀ es, readAll s1 c j' d (boxCoords (swapDims (reqTr j) (d.dims.map (·.ext)))) = some (.ok es) →
            let img := imageOf (destByte s1 c j') (allPuts j' d es)
            let done : CopyJob → CopyJob := fun q => { q with bytes := putBytes (allPuts j' d es), amax := copyAmax j' d es, moved := true }
            (reqLanding j = true → exec (.copyClaim c) s = .next (modJob s1 c j.order (fun q =>
              { done q with packets := landingPackets (q.w0 &&& 0xFFFF#64) img.length 0 (img.map (·.2)), network := false }))) ∧
            (reqLanding j = false → netDest s1 c j' = true → exec (.copyClaim c) s = .next (modJob s1 c j.order (fun q =>
              { done q with network := true }))) ∧
            (reqLanding j = false → netDest s1 c j' = false → reqSeal j ≠ 1 → isProtected s1 j.ctx = false →
              let l := imageKeys s1 c j' img
              let s2 := fireWatches (applyWrite s1 (l.map (·.1)) (l.map (·.2))) ((l.map (·.1)).filter isSystemKey)
              exec (.copyClaim c) s = .next (modJob s2 c j.order (fun q =>
                { done q with network := false })))) ∧
          (∀ e, readAll s1 c j' d (boxCoords (swapDims (reqTr j) (d.dims.map (·.ext)))) = some (.error e) →
            exec (.copyClaim c) s = .next (modJob s1 c j.order (fun q => { q with err := e, bytes := 0, amax := 0, moved := true, network := false })))))) ∧
    (∀ j start n, x.jobs.find? (publishable s c) = some j → j.claim = some (start, n) → j.dead = false →
      let k := jobReel c j
      let h := word128At s k
      (¬goodHeader h → exec (.copyPublish c) s = .next (freed s c j)) ∧
      (goodHeader h → reelW h = start ∧
        let s1 := applyWrite s (slotKeys k h start 16) (leBytes 8 (recordWord j) ++ leBytes 8 j.amax.toNat)
        exec (.copyPublish c) s = .next (freed (write128 s1 k (withW (word128At s1 k) (start + BitVec.ofNat 32 n))) c j))) ∧
    (∀ j p rest cell off, x.jobs.find? (fun j => !j.packets.isEmpty) = some j → j.packets = p :: rest →
      remPlace (j.w2.toNat % 2 ^ 56) 16 = .ok (.away (.loc cell off)) → resident s cell j.ctx = true →
      let k := locKey cell off
      let h := word128At s k
      let q := ringQ h
      let w := reelW h
      let need := 32 + 16 * ((p.1.length + 15) / 16)
      ringOk h = true → peerCheck s cell j.ctx off (16 + 2 ^ q) true = none →
      (2 ^ q < (w - reelR h).toNat + need ∨ ringWaiter s cell off (j.waits.getD s.cyc.toNat) → exec (.landingPacket c) s = .next s) ∧
      ((w - reelR h).toNat + need ≤ 2 ^ q → ¬ringWaiter s cell off (j.waits.getD s.cyc.toNat) →
        let img := leBytes 8 p.1.length ++ leBytes 8 p.2.1.toNat ++ leBytes 8 p.2.2.toNat ++ List.replicate 8 0 ++ p.1
        let s1 := applyWrite s ((List.range img.length).map (fun i => k + 16 + (w.toNat + i) % 2 ^ q)) img
        let s2 := write128 s1 k (withW h (w + BitVec.ofNat 32 need))
        let e := raised s2 cell j.ctx 18 0 [BitVec.ofNat 64 ((w.toNat + 32) % 2 ^ q), BitVec.ofNat 64 p.1.length, p.2.1, p.2.2] j.launch
        exec (.landingPacket c) s = .next (modJob (modPos e.2 cell j.ctx (fun y => { y with landings := y.landings ++ [(off, e.1, need)] }))
          c j.order (fun j => { j with packets := rest, waits := none })))) ∧
    (∀ j, x.jobs.find? (fun j => j.network) = some j →
      (netSource s c j = false → exec (.rdmaAck c) s = .next (modJob s c j.order (fun j => { j with network := false }))) ∧
      (∀ s', netSource s c j = true → moveJob s c j = some s' → exec (.rdmaAck c) s = .next { s' with fresh := s'.fresh + 1 }) ∧
      let n := if netSource s c j then 0 else min (Config.pairBytes s.fresh) j.bytes
      exec (.queuePairError c) s = .next { modJob s c j.order (fun j =>
        { j with err := 7, bytes := n, amax := 0, network := false, moved := true }) with fresh := s.fresh + 1 }) ∧
    (∀ port, exec (.unsupportedRdmaArrival port) s = .next s)

/-- R89, R91, R283, R284, R285, R286: a die places a launch in steps: it allots stage entries and cells, writes registers and handles at each
allotted cell once none of the context's takes runs there, and then fills in groups, reels and seeds; it waits, or it refuses the launch with its
status. The model's choices: what the launch unit does in one event and which cells and entries it takes (log 61), the reserved fields of a
descriptor (log 60). -/
def Obligations.LaunchIsPlaced : Prop :=
  (∀ s d ctx, (∃ k ∈ s.kills, k.ctx = ctx) → exec (.launchPlacement d ctx) s = .next s) ∧
  ∀ s d ctx l, s.launches.find? (fun l => l.ctx == ctx && l.waiting.contains d) = some l → (∀ k ∈ s.kills, k.ctx ≠ ctx) →
    let undone := l.placed.foldl (undoPlacement l) s
    let share := l.placed.find? (fun p => p.die == d)
    let settled : Prop := ∀ k ∈ s.launches, k.ctx = ctx → k.status = 0
    let never : Prop := ∃ e ∈ l.waiting ++ l.placed.map (·.die), capBit s 56 e = true ∨ (dieCells s e ctx).length < cellsNeeded l
    let busy : Prop := dieRuns s d = false ∨ (freeStages s d).length < descStages l.desc ∨ (freeCells s d ctx).length < cellsNeeded l
    (share = none → l.claim = none → descOk (isTake l.by_) l.desc = false → canEnd undone l →
      exec (.launchPlacement d ctx) s = .next (endState undone l 1)) ∧
    (share = none → l.claim = none → descOk (isTake l.by_) l.desc = true → doneBad s l = true → doneBad undone l = true → canEnd undone l →
      exec (.launchPlacement d ctx) s = .next (endState undone l 4)) ∧
    (share = none → l.claim = none → descOk (isTake l.by_) l.desc = true → doneBad s l = false → never → canEnd undone l →
      exec (.launchPlacement d ctx) s = .next (endState undone l 3)) ∧
    (share = none → descOk (isTake l.by_) l.desc = true → doneBad s l = false → ¬never → busy → settled →
      exec (.launchPlacement d ctx) s = .next s) ∧
    (share = none → descOk (isTake l.by_) l.desc = true → doneBad s l = false → ¬never → ¬busy →
      ∃ s', exec (.launchPlacement d ctx) s = .next s' ∧ s'.mem = s.mem ∧
        s'.launches = s.launches.map (fun k => if k.id = l.id then
          { k with placed := k.placed ++
            [⟨d, (dieAt s d).nextLid.toNat, (freeStages s d).take (descStages l.desc), (freeCells s d ctx).take (cellsNeeded l), [], dieCells s d ctx⟩] }
          else k) ∧
        (∀ i e, i < descStages l.desc → (freeStages s d)[i]? = some e →
          stageAt s' d e = stageOf l (dieAt s d).nextLid (stageRec l.desc i))) ∧
    (∀ p, share = some p →
      let left := p.todo.filter (fun c => takesRun s c ctx)
      (p.todo ≠ [] → left = p.todo → settled → exec (.launchPlacement d ctx) s = .next s) ∧
      (left ≠ [] → left ≠ p.todo → ∃ s', exec (.launchPlacement d ctx) s = .next s' ∧ s'.mem = s.mem ∧
        s'.launches = s.launches.map (fun k => if k.id = l.id then
          { k with placed := k.placed.map (fun q => if q.die = d then { p with todo := left } else q) } else k)) ∧
      (left = [] → (writeGroups d ctx (groupRecs l.desc) [] s).2.2 = true → reelsOk s l d = true →
        ∃ s' groups, exec (.launchPlacement d ctx) s = .next s' ∧
          s'.launches = s.launches.map (fun k => if k.id = l.id then
            { l with
              placed := l.placed.map (fun q => if q.die = d then { p with groups := groups, todo := [] } else q),
              waiting := l.waiting.filter (· != d),
              armed := if descSeedCount l.desc = 0 then l.armed ++ [d] else l.armed } else k) ∧
          ∀ c ∈ p.todo, resident s c ctx = true →
            (∀ j e, p.stages[j]? = some e → tget (posOf s' c ctx).hstore (32 + j) 0 = mkHandle 3 ctx (stageEid d p.lid e) c) ∧
            ∀ i e k lot, p.stages[i]? = some e → (lotsOf l p)[i]? = some lot → lot[k]? = some c → (lotsOf l p).flatten.count c = 1 →
              let r := posOf s' c ctx
              r.stage = some e ∧ r.idstage = BitVec.ofNat 64 (2 ^ 63 + e) ∧
              ∀ j : BitVec 2,
                rget r.idorg j = BitVec.ofNat 64 (if i = 0 then originOf l.desc k j.toNat else 0) ∧
                rget r.idext j = BitVec.ofNat 64 (if i = 0 then extentOf l.desc k j.toNat
                  else if j.toNat < descDims l.desc then descSize l.desc j.toNat else 1) ∧
                r.idslice = (if i = 0 then sliceWord l.desc lot.length k else BitVec.ofNat 64 (descN l.desc * 2 ^ 32))))

/-- R283, R286, R290, R291, R292, R321, R322: counters of a launch rise, are confirmed and fall; a complete launch ends; fills are sampled, and an
interval moves cells. The model's choices: a grove's counter is read off what is at work there, and a stage is sampled once its launch's placement
on the die has ended (log 61). -/
def Obligations.LaunchesCompleteAndBalance : Prop :=
  (∀ s id g l, findLaunch s id = some l →
    (g ∉ l.up → groveBusy s id g = true → exec (.completionUp id g) s = .next (modLaunch s id (fun l => { l with up := l.up ++ [g] }))) ∧
    (g ∈ l.up → exec (.completionUp id g) s = .next s) ∧
    (g ∈ l.up → g ∉ l.confirmed →
      (¬(g = g / 16 * 16 + (stageRec l.desc 0).grove ∧ (∃ p ∈ l.placed, p.die = g / 16) ∧ g / 16 ∉ l.armed) →
        exec (.completionConfirm id g) s = .next (modLaunch s id (fun l => { l with confirmed := l.confirmed ++ [g] }))) ∧
      (g = g / 16 * 16 + (stageRec l.desc 0).grove → (∃ p ∈ l.placed, p.die = g / 16) → g / 16 ∉ l.armed →
        exec (.completionConfirm id g) s = .next (modLaunch s id (fun k =>
          { k with confirmed := k.confirmed ++ [g], armed := k.armed ++ [g / 16] })))) ∧
    (l.id = id → g ∈ l.confirmed → groveBusy s id g = false →
      let lower : Launch → Launch := fun l => { l with up := l.up.filter (· != g), confirmed := l.confirmed.filter (· != g) }
      let l' := lower l
      let s1 := modLaunch s id lower
      (settleLaunch s1 id = none → exec (.completionDown id g) s = .next s1) ∧
      (l.status = 0 → l.claim = none → l'.waiting = [] → l'.up = [] → (∀ p ∈ l.placed, p.die ∈ l.armed) → canEnd (freeQuiet s1 l') l' →
        exec (.completionDown id g) s = .next (endState (freeQuiet s1 l') l' 0) ∧
        ∀ p ∈ l.placed, ∀ i ∈ p.stages, p.die < 4 → stageAt (freeQuiet s1 l') p.die i = Stage.reset))) ∧
  (∀ s d,
    (s.cyc.toNat % 64 = 0 → ∃ s', exec (.balancerSample d) s = .next s' ∧ s'.mem = s.mem ∧ s'.cells = s.cells ∧
      ∀ i, i < 32 → let g := stageAt s d i
        let placed : Prop := g.v = true ∧ ∀ l ∈ s.launches, l.id = g.launch → d ∉ l.waiting
        (¬placed → stageAt s' d i = g) ∧
        (placed → stageAt s' d i = { g with acc := g.acc + min (reelW (stageReel s d g) - reelR (stageReel s d g)).toNat (2 ^ g.k.toNat) })) ∧
    (s.cyc.toNat % 64 ≠ 0 → exec (.balancerSample d) s = .next s) ∧
    (let b := (dieAt s d).balancer
      let period := 2 ^ (b.toNat / 2 ^ 32 % 32)
      let intn := b.extractLsb' 0 32 + 1
      let move := balanceMove s d (2 ^ (b.toNat / 2 ^ 32 % 32 - 6))
      (s.cyc.toNat % period ≠ 0 ∨ s.cyc = 0 → exec (.balancingInterval d) s = .next s) ∧
      (s.cyc.toNat % period = 0 → s.cyc ≠ 0 → ∃ s', exec (.balancingInterval d) s = .next s' ∧
        (dieAt s' d).balancer = b.extractLsb' 32 32 ++ intn ∧
        (b.getLsbD 63 = false ∨ move = none → ∀ i, stageAt s' d i = { stageAt s d i with acc := 0 }) ∧
        (∀ dn rc m, b.getLsbD 63 = true → move = some (dn, rc, m) → ∀ i, i < 32 → stageAt s' d i = { stageAt s d i with
          acc := 0,
          cur := if i = dn then (stageAt s d i).cur - BitVec.ofNat 9 m else if i = rc then (stageAt s d i).cur + BitVec.ofNat 9 m
            else (stageAt s d i).cur })) ∧
      (∀ ns dn rc m, balanceMove s d ns = some (dn, rc, m) → let g := stageAt s d dn
        let r := stageAt s d rc
        dn ≠ rc ∧ g.v = true ∧ r.v = true ∧ g.hold = false ∧ r.hold = false ∧ g.lid = r.lid ∧ g.min.toNat < g.cur.toNat ∧
          r.cur.toNat < r.max.toNat ∧ fillOf ns g + 2 ^ 13 ≤ fillOf ns r ∧ m = min 8 (min (g.cur.toNat - g.min.toNat) (r.max.toNat - r.cur.toNat))))) ∧
  (∀ s c ctx m rest, (posOf s c ctx).moved = m :: rest → let p := posOf s c ctx
    let turn : Prop := cqFull s c ctx = false ∧ ∀ w, p.cqWait.head? = some w → w = .retarget
    let runs := donorRuns s c ctx m.old
    let out := exec (.cellRetarget c ctx) s
    (m.written = false → runs = true → out = .next s) ∧
    (m.written = false → runs = false → ¬turn → out = .next (modPos s c ctx (fun p => { p with
      idstage := BitVec.ofNat 64 (2 ^ 63 + m.new), moved := { m with written := true } :: rest }))) ∧
    (m.written = true → ¬turn → out = .next s) ∧
    (m.written = true ∨ runs = false → turn → ∃ s' e, out = .next s' ∧ s'.mem = s.mem ∧ slateCls e.slate = 19 ∧
      e.payload = [BitVec.ofNat 64 m.old, BitVec.ofNat 64 m.new, BitVec.ofNat 64 m.intn.toNat] ∧ posOf s' c ctx = { p with
        idstage := if m.written then p.idstage else BitVec.ofNat 64 (2 ^ 63 + m.new)
        moved := rest
        cq := p.cq ++ [e]
        cqWait := p.cqWait.filter (· != .retarget) })) ∧
  (∀ s c ctx old new intn rest, (posOf s c ctx).moved = [] → (posOf s c ctx).retarget = (old, new, intn) :: rest →
    let turn : Prop := cqFull s c ctx = false ∧ ∀ w, (posOf s c ctx).cqWait.head? = some w → w = .retarget
    let served : Word := BitVec.ofNat 64 (2 ^ 63 + new)
    (donorRuns s c ctx old = true → exec (.cellRetarget c ctx) s = .next s) ∧
    (donorRuns s c ctx old = false → ¬turn → (posOf s c ctx).idstage = served → exec (.cellRetarget c ctx) s = .next s) ∧
    (donorRuns s c ctx old = false → ¬turn → (posOf s c ctx).idstage ≠ served →
      exec (.cellRetarget c ctx) s = .next (modPos s c ctx (fun p => { p with idstage := served }))) ∧
    (donorRuns s c ctx old = false → turn → ∃ s' m, exec (.cellRetarget c ctx) s = .next s' ∧ s'.mem = s.mem ∧
      m.payload = [BitVec.ofNat 64 old, BitVec.ofNat 64 new, BitVec.ofNat 64 intn.toNat] ∧ slateCls m.slate = 19 ∧
      posOf s' c ctx = { posOf s c ctx with
        idstage := served
        stage := some new
        retarget := rest
        stageReported := none
        stageSince := none
        cq := (posOf s c ctx).cq ++ [m]
        cqWait := (posOf s c ctx).cqWait.filter (· != .retarget) }))

/-! ## The outside -/

/-- R352, R353, R354, R355, R356, R364, R385: doorbells, entries and their descriptors, records, interrupts, resets, and reads that time out; until
Nivar runs only function 0 is there. The model's choices: one entry is read at a time in the whole device (log 65), what the MSI-X capability and its
table hold and their reset values (log 66), status 5 before status 6 (log 67), and the inputs of the host port (log 88). -/
def Obligations.HostInterface : Prop :=
  (∀ s f i, f % 16 ≠ 0 → s.cap.getLsbD 62 = false → ((∃ t, i = .sqDoorbell f t) ∨ (∃ v, i = .cqHeadWrite f v) ∨ (∃ w, i = .msixUnmask f w) ∨
    i = .partitionReset f ∨ i = .functionLevelReset f) → exec i s = .next s) ∧
  (∀ s f (t : BitVec 32), f % 16 = 0 ∨ s.cap.getLsbD 62 = true → let p := part s f
    (doorbellIgnored p t → exec (.sqDoorbell f t) s = .next (modPart s f (fun p => { p with ctl := p.ctl ||| 0x1000000000000000#64 }))) ∧
    (¬doorbellIgnored p t → exec (.sqDoorbell f t) s = .next (modPart s f (fun p => { p with sqtail := t, rang := some (s.cyc, tailAtStart s p) })))) ∧
  (∀ s, nextSubmitter s = none → takeEntry s = s) ∧
  (∀ s f, nextSubmitter s = some f → let p := part s f
    let a := hostKey (p.sqbase.toNat + 64 * (p.sqhead.toNat % 2 ^ (p.sqk.toNat % 16)))
    let w : Nat → Word := fun i => word64At s (a + 8 * i)
    let ctx := (w 0).toNat % 2 ^ 12
    let s1 := { modPart s f (fun p => { p with sqhead := p.sqhead + 1 }) with sqNext := BitVec.ofNat 4 (f + 1) }
    let reserved := (w 0).toNat / 2 ^ 12 % 2 ^ 36 ≠ 0 ∨ (w 0).toNat / 2 ^ 59 % 2 ^ 4 ≠ 0 ∨ (∃ i, 2 ≤ i ∧ i < 8 ∧ w i ≠ 0) ∨ (w 1).toNat % 16 ≠ 0 ∨
      p.ctl.toNat / 2 ^ 32 % 2 ^ 11 < (w 0).toNat / 2 ^ 48 % 2 ^ 11
    (∀ g ∈ s.parts.toList, g.reading = none) ∧ p.sqhead ≠ tailAtStart s p ∧ p.ctl.getLsbD 61 = false ∧ (ringOf p.sqk).isSome = true ∧
    (¬owns s (BitVec.ofNat 4 f) ctx → takeEntry s = postRecord s1 f 0 5 p.sqhead ctx (irqOf (w 0))) ∧
    (owns s (BitVec.ofNat 4 f) ctx → reserved → takeEntry s = postRecord s1 f 0 6 p.sqhead ctx (irqOf (w 0))) ∧
    (owns s (BitVec.ofNat 4 f) ctx → ¬reserved → takeEntry s = modPart s1 f (fun q => { q with reading := some (p.sqhead, w 0, w 1) }))) ∧
  (∀ s f, (part s f).reading = none → f < 16 → exec (.hostDescriptorRead f) s = .next (if nextSubmitter s = some f then takeEntry s else s)) ∧
  (∀ s f i w0 a, (part s f).reading = some (i, w0, a) → f < 16 →
    let s1 := modPart s f (fun p => { p with reading := none })
    exec (.hostDescriptorRead f) s = .next (takeEntry (submitLaunch s1 (w0.toNat % 2 ^ 12) (.host f i (BitVec.ofNat 11 (w0.toNat / 2 ^ 48)) (w0.getLsbD 63))
      (readKeys s.mem (keysFrom (hostKey a.toNat) (descLen (word64At s (hostKey a.toNat)).toNat))))) ∧
    exec (.hostCompletionTimeout (.descriptor f)) s = .next (takeEntry (postRecord s1 f 0 7 i (w0.toNat % 2 ^ 12) (irqOf w0)))) ∧
  (∀ s id r, findReq s id = some r → r.id = id → r.stage = .sent → readsHost s r = true → (∀ a b n k w, r.kind ≠ .block a b n k w) →
    exec (.hostCompletionTimeout (.load id)) s = .next (modReq s id (fun q => { q with stage := .answered (.refused .unreachable) }))) ∧
  (∀ s f tag st i ctx irq, (ringOf (part s f).cqk = none ∨ ∃ k, ringOf (part s f).cqk = some k ∧ ((part s f).cqtail - (part s f).cqhead).toNat = 2 ^ k) →
    postRecord s f tag st i ctx irq = modPart s f (fun p => { p with records := p.records ++ [(hostRecordWord tag st i ctx, s.cyc, irq)] })) ∧
  (∀ s f v, f % 16 = 0 ∨ s.cap.getLsbD 62 = true → let s1 := modPart s f (fun p => { p with cqhead := v })
    let p := part s1 f
    (p.records = [] → exec (.cqHeadWrite f v) s = .next s1) ∧
    (∀ k w0 w1 irq, p.records = [(w0, w1, irq)] → ringOf p.cqk = some k → (p.cqtail - v).toNat ≠ 2 ^ k →
      let a := hostKey (p.cqbase.toNat + 16 * (p.cqtail.toNat % 2 ^ k))
      let phase : Word := if p.cqtail.toNat / 2 ^ k % 2 = 0 then 0x8000#64 else 0
      let s2 := applyWrite s1 (keysFrom a 16) (leBytes 8 (w0 ||| phase).toNat ++ leBytes 8 w1.toNat)
      let s3 := { s2 with parts := rset s2.parts (BitVec.ofNat 4 f) { p with records := [], cqtail := p.cqtail + 1 } }
      (irq = none → exec (.cqHeadWrite f v) s = .next s3) ∧
      (∀ u, irq = some u → u ≤ p.ctl.toNat / 2 ^ 32 % 2 ^ 11 → exec (.cqHeadWrite f v) s = .next (raiseVector s3 (BitVec.ofNat 4 f) u))) ∧
    ∃ s', exec (.cqHeadWrite f v) s = .next s' ∧ (part s' f).cqhead = v) ∧
  (∀ s f vec (a : Word) (w : BitVec 32) (on masked : Bool), f % 16 = 0 ∨ s.cap.getLsbD 62 = true → let p := part s f
    let seen := if vec ∈ p.unmasked then p.unmasked else p.unmasked ++ [vec]
    let sent : List Nat → Partition → Partition := fun l p => { p with
      pend := p.pend.filter (fun v => !l.contains v), msix := p.msix ++ (p.pend.filter l.contains).map (msixMessage p) }
    exec (.msixUnmask f (.unmask vec)) s = .next (modPart s f (fun p =>
      if p.msixOn = true ∧ p.msixMask = false then sent seen { p with unmasked := seen } else { p with unmasked := seen })) ∧
    exec (.msixUnmask f (.mask vec)) s = .next (modPart s f (fun p => { p with unmasked := p.unmasked.filter (· != vec) })) ∧
    exec (.msixUnmask f (.entry vec a w)) s = .next (modPart s f (fun p => { p with msixTable := tput p.msixTable vec (a, w) })) ∧
    exec (.msixUnmask f (.control on masked)) s = .next (modPart s f (fun p =>
      if on = true ∧ masked = false then sent p.unmasked { p with msixOn := on, msixMask := masked } else { p with msixOn := on, msixMask := masked }))) ∧
  (∀ s f, f % 16 = 0 ∨ s.cap.getLsbD 62 = true → let p := part s f
    exec (.functionLevelReset f) s = exec (.partitionReset f) s ∧
    (p.ctl.getLsbD 61 = true → exec (.partitionReset f) s = .next s) ∧
    (p.ctl.getLsbD 61 = false → partContexts s f = [] →
      exec (.partitionReset f) s = .next (modPart s f (fun p => { Partition.reset with
        ctl := if rungNow s p then p.ctl ||| 0x1000000000000000#64 else p.ctl, msix := p.msix }))) ∧
    (∀ ctx, p.ctl.getLsbD 61 = false → owns s (BitVec.ofNat 4 f) ctx → ∃ s', exec (.partitionReset f) s = .next s' ∧
      (∃ k ∈ s'.kills, k.ctx = ctx) ∧ (part s' f).ctl.getLsbD 61 = true ∧ (part s' f).ctl.getLsbD 60 = (p.ctl.getLsbD 60 || rungNow s p) ∧
      (part s' f).sqtail = tailAtStart s p ∧ (part s' f).sqhead = tailAtStart s p ∧ (part s' f).reading = none ∧
      (part s' f).records = [] ∧ ∀ g : BitVec 4, g ≠ BitVec.ofNat 4 f → rget s'.parts g = rget s.parts g))

/-- R189, R199, R276, R288, R289, R292, R294, R310, R314, R315, R323, R334, R342: what a management write changes, and what makes it wait; changes
that wait keep their order. The model's choices: what an invalidation waits for (log 33), a group entry written whole and its ref cleared by a 1
(log 62), a window change waiting for the reductions of all windows (log 77), and when a wired set is busy (log 72). -/
def Obligations.ManagementWrites : Prop :=
  (∀ s d ctx b, exec (.preemptRequest d ctx b) s = .next (modCtxRec s d ctx (fun r => { r with pre := b }))) ∧
  (∀ s c ctx, (ctxRec s (dieOf c) ctx).pre = true → mayDispatch s c ctx = false) ∧
  (∀ s d ctx v, exec (.reportRingRidxWrite d ctx v) s = .next (modCtxRec s d ctx (fun r => { r with ridx := v }))) ∧
  (∀ s d i, ∃ s', exec (.stageHoldWrite d i) s = .next s' ∧ s'.mem = s.mem ∧ stageAt s' d i = { stageAt s d i with hold := false } ∧
    ∀ j : BitVec 5, j ≠ BitVec.ofNat 5 i → stageAt s' d j.toNat = stageAt s d j.toNat) ∧
  (∀ s d i (e : BitVec 384), i < 256 → let old := groupAt s d i
    ((e.getLsbD 63 = true ∧ ∃ n, n < 256 ∧ e.getLsbD (128 + n) = true ∧ inFourGroups s d i n) →
      exec (.groupTableWrite d i e) s = .next (modDie s d (fun x => { x with groups := tput x.groups i (old ||| BitVec.ofNat 384 (2 ^ 62)) }))) ∧
    (¬(e.getLsbD 63 = true ∧ ∃ n, n < 256 ∧ e.getLsbD (128 + n) = true ∧ inFourGroups s d i n) →
      ∃ new, exec (.groupTableWrite d i e) s = .next (modDie s d (fun x => { x with groups := tput x.groups i new })) ∧
        new.extractLsb' 128 256 = e.extractLsb' 128 256 ∧ new.getLsbD 63 = e.getLsbD 63 ∧ new.extractLsb' 48 12 = e.extractLsb' 48 12 ∧
        new.getLsbD 62 = (old.getLsbD 62 && !e.getLsbD 62) ∧ new.extractLsb' 64 64 = 0 ∧ new.extractLsb' 60 2 = 0 ∧ new.extractLsb' 0 48 = 0)) ∧
  (∀ s d (set : BitVec 2) w, d < 4 → let old := rget (dieAt s d).wired set
    let waiting : Prop := ∃ v ∈ (dieAt s d).wiredWrites, v.1 = set.toNat
    (setBusy s d set ∨ waiting → exec (.wiredSetWrite d set.toNat w) s = .next (modDie s d (fun x =>
      { x with wiredWrites := x.wiredWrites ++ [(set.toNat, w)] }))) ∧
    (¬setBusy s d set → ¬waiting → ∃ new : Word, exec (.wiredSetWrite d set.toNat w) s = .next (modDie s d (fun x =>
        { x with wired := rset x.wired set new })) ∧
      new.getLsbD 63 = w.getLsbD 63 ∧ new.extractLsb' 16 44 = w.extractLsb' 16 44 ∧ new.extractLsb' 0 16 = old.extractLsb' 0 16 ∧
      new.extractLsb' 60 3 = 0)) ∧
  (∀ s g i w, i < 128 → let x := gateAt s g i
    ∃ s' y, exec (.gateWrite g i w) s = .next s' ∧ gateAt s' g i = y ∧ s'.mem = s.mem ∧ s'.cells = s.cells ∧
      y.word.getLsbD 63 = w.getLsbD 63 ∧ y.word.extractLsb' 48 12 = w.extractLsb' 48 12 ∧ y.word.extractLsb' 32 16 = 0 ∧
      y.word.extractLsb' 0 32 = x.word.extractLsb' 0 32 ∧ y.word.getLsbD 61 = (x.word.getLsbD 61 && !w.getLsbD 61) ∧
      y.word.getLsbD 60 = (x.word.getLsbD 60 && !w.getLsbD 60) ∧
      (¬gateTaken x w → y.word.getLsbD 62 = x.word.getLsbD 62 ∧ y.held = x.held ∧ s'.flights = s.flights) ∧
      (∀ m, gateTaken x w → x.held = some m → y.word.getLsbD 62 = false ∧ y.held = none ∧
        s'.flights = s.flights ++ [sentNext s m.home (.skip m.chan m.ctx m.sid m.seq)])) ∧
  (∀ s (n : BitVec 3) w, let l := s.windowWrites ++ [(n.toNat, w)]
    (reductionOpen s → exec (.reductionWindowWrite n.toNat w) s = .next { s with windowWrites := l }) ∧
    (¬reductionOpen s → ∃ ws : RegFile 3 Word, exec (.reductionWindowWrite n.toNat w) s = .next { s with windows := ws, windowWrites := [] } ∧
      rget ws n = w &&& 0x81FFFFFFFFE00000#64 ∧ ∀ k : BitVec 3, k ≠ n → (∀ v ∈ s.windowWrites, v.1 < 8) →
        rget ws k = match s.windowWrites.reverse.find? (fun v => v.1 == k.toNat) with
          | some v => v.2 &&& 0x81FFFFFFFFE00000#64
          | none => rget s.windows k)) ∧
  (∀ s g i e, i < 4096 → let l := s.pinnedWrites ++ [(g, i, e)]
    ∃ s', exec (.pinnedRegionWrite g i e) s = .next s' ∧ s'.mem = s.mem ∧ s'.cells = s.cells ∧
      s'.pinnedWrites = l.filter (fun p => pinnedInUse s p.1 p.2.1) ∧
      ∀ g' i', (pinnedInUse s g' i' = true → tget (groveAt s' g').pinned i' 0 = tget (groveAt s g').pinned i' 0) ∧
        (pinnedInUse s g' i' = false → tget (groveAt s' g').pinned i' 0 =
          match l.reverse.find? (fun p => p.1 == g' && p.2.1 == i') with
            | some p => p.2.2
            | none => tget (groveAt s g').pinned i' 0)) ∧
  (∀ s ctx (va : Word) lvl,
    (pageIdle s ctx va.toNat lvl.toNat = false → exec (.invalidation ctx va lvl) s = .next
      { s with invalidations := if (ctx, va, lvl) ∈ s.invalidations then s.invalidations else s.invalidations ++ [(ctx, va, lvl)] }) ∧
    (pageIdle s ctx va.toNat lvl.toNat = true → ∃ s', exec (.invalidation ctx va lvl) s = .next s' ∧ s'.mem = s.mem ∧ s'.cells = s.cells ∧
      ∀ g, ∀ e ∈ (groveAt s' g).tlb, e ∈ (groveAt s g).tlb ∧ ¬(e.ctx = ctx ∧ e.level = lvl.toNat ∧ e.page = va.toNat / 2 ^ pageBits lvl.toNat))) ∧
  (∀ s c (n : BitVec 3) w, exec (.perfSelectorWrite c n.toNat w) s = .next (modCell s c (fun x =>
    { x with perfSel := rset x.perfSel n (w &&& 0xCFFF0000000000FF#64), perfCnt := rset x.perfCnt n 0 }))) ∧
  (∀ s d w, ∃ b : Word, exec (.balancerControlWrite d w) s = .next (modDie s d (fun x => { x with balancer := b })) ∧
    b.getLsbD 63 = w.getLsbD 63 ∧ b.extractLsb' 0 32 = (dieAt s d).balancer.extractLsb' 0 32 ∧ b.extractLsb' 37 26 = 0 ∧
    b.extractLsb' 32 5 = if 12 ≤ w.toNat / 2 ^ 32 % 32 ∧ w.toNat / 2 ^ 32 % 32 ≤ 24 then w.extractLsb' 32 5
      else (dieAt s d).balancer.extractLsb' 32 5)

/-- R181, R184, R185, R276, R277, R288, R294, R295, R332, R335, R353, R366, R385: an 8-B write at an offset of a die's management window. The model's
choices: which contexts are resident at a cell is written at an offset of its own, 0x90_0000 (log 76), halves of wider entries are written apart and
offsets that name nothing change nothing (log 79), and an `hset` of the same cycle counts as made before a write of the handler table (log 47). -/
def Obligations.ManagementWindow : Prop :=
  ∀ s d w, d < 4 →
    let wr : Nat → State → Prop := fun off s' => exec (.managementRegisterWrite (.nivar d) off w) s = .next s'
    (∀ off, off % 8 ≠ 0 → wr off s) ∧
    (∀ i, i < 32 → (w.getLsbD 62 = true → wr (16 * i + 8) (modStage s d i (fun g => { g with hold := true }))) ∧
      (w.getLsbD 62 = false → exec (.managementRegisterWrite (.nivar d) (16 * i + 8) w) s = exec (.stageHoldWrite d i) s)) ∧
    (∀ i n (e : BitVec 384), i < 256 → n < 6 → (∀ j, j < 384 → e.getLsbD j =
        if 64 * n ≤ j ∧ j < 64 * n + 64 then w.getLsbD (j - 64 * n) else (groupAt s d i).getLsbD j && j != 62) →
      exec (.managementRegisterWrite (.nivar d) (0x2000 + 48 * i + 8 * n) w) s = exec (.groupTableWrite d i e) s) ∧
    exec (.managementRegisterWrite (.nivar d) 0x1000 w) s = exec (.balancerControlWrite d w) s ∧
    (∀ set : BitVec 2, exec (.managementRegisterWrite (.nivar d) (0x6000 + 8 * set.toNat) w) s = exec (.wiredSetWrite d set.toNat w) s) ∧
    (∀ c, c < 256 →
      wr (0x100000 + 0x1000 * c) (modCell s (256 * d + c) (fun x => { x with slots := w &&& 0xBBBBBBBBBBBBBBBB#64 })) ∧
      (∀ (p : BitVec 2) i, i < 20 → let off := 0x100000 + 0x1000 * c + 0x100 + 0xA0 * p.toNat + 8 * i
        (∀ ctx, (rget (cellAt s (256 * d + c)).pos p).ctx = some ctx →
          wr off (modCell (setHandler s (256 * d + c) ctx i w) (256 * d + c) (fun x =>
            { x with pos := rset x.pos p { rget x.pos p with mgmtAt := tput (rget x.pos p).mgmtAt i (s.cyc + 1) } }))) ∧
        ((rget (cellAt s (256 * d + c)).pos p).ctx = none → wr off (modCell s (256 * d + c) (fun x =>
          { x with pos := rset x.pos p { rget x.pos p with handlers := tput (rget x.pos p).handlers i w } })))) ∧
      (∀ n : BitVec 3, exec (.managementRegisterWrite (.nivar d) (0x100000 + 0x1000 * c + 0xC00 + 8 * n.toNat) w) s =
        exec (.perfSelectorWrite (256 * d + c) n.toNat w) s) ∧
      exec (.managementRegisterWrite (.nivar d) (0x100000 + 0x1000 * c + 0xE00) w) s = exec (.releaseRegisterWrite (256 * d + c) w) s ∧
      (∀ (p : BitVec 2) (i : BitVec 4), wr (0x800000 + 0x400 * c + 0x100 * p.toNat + 8 * i.toNat) (unscratched (modCell s (256 * d + c) (fun x =>
        { x with pos := rset x.pos p { rget x.pos p with regions := rset (rget x.pos p).regions i w } })) (256 * d + c))) ∧
      (∀ p : BitVec 2, wr (0x800000 + 0x400 * c + 0x100 * p.toNat + 0x80) (unscratched (modCell s (256 * d + c) (fun x =>
        { x with pos := rset x.pos p { rget x.pos p with scratch := w } })) (256 * d + c))) ∧
      (∀ p : BitVec 2, let ctx := if w.getLsbD 63 then some (w.toNat % 2 ^ 12) else none
        wr (0x900000 + 32 * c + 8 * p.toNat) (unscratched (modCell s (256 * d + c) (fun x =>
          { x with pos := rset x.pos p (if (rget x.pos p).ctx = ctx then rget x.pos p else { Position.reset with ctx := ctx }) })) (256 * d + c)))) ∧
    (∀ g, g < 16 →
      (∀ i (hi : Bool), i < 4096 → exec (.managementRegisterWrite (.nivar d) (0x200000 + 0x10000 * g + 16 * i + if hi then 8 else 0) w) s =
        let now := (((pinnedWaiting s (16 * d + g) i).getLast?).map (·.2.2)).getD (tget (groveAt s (16 * d + g)).pinned i 0)
        exec (.pinnedRegionWrite (16 * d + g) i (withHalf now hi w)) s) ∧
      (∀ i, i < 128 → exec (.managementRegisterWrite (.nivar d) (0x300000 + 0x1000 * g + 16 * i) w) s = exec (.gateWrite (16 * d + g) i w) s) ∧
      (∀ i, i < 64 → wr (0x840000 + 0x200 * g + 8 * i) (modGrove s (16 * d + g) (fun x => { x with windows := tput x.windows i w })))) ∧
    (∀ ctx, ctx < 4096 →
      (w.getLsbD 61 = false → wr (0x400000 + 32 * ctx) (modCtxRec s d ctx (fun r => { r with pre := w.getLsbD 63 }))) ∧
      (w.getLsbD 61 = true → exec (.managementRegisterWrite (.nivar d) (0x400000 + 32 * ctx) w) s =
        exec (.killFlood d ctx) (modCtxRec s d ctx (fun r => { r with pre := w.getLsbD 63 }))) ∧
      wr (0x400000 + 32 * ctx + 0x10) (modCtxRec s d ctx (fun r => { r with base := w.extractLsb' 0 32, k := w.extractLsb' 60 4 })) ∧
      wr (0x400000 + 32 * ctx + 0x18) (modCtxRec s d ctx (fun r => { r with ridx := w.extractLsb' 32 32 })) ∧
      wr (0x850000 + 8 * ctx) (modDie s d (fun x => { x with roots := tput x.roots ctx w }))) ∧
    (d = 0 →
      (s.mailbox.go = false → wr 0x500000 { s with mailbox := { s.mailbox with
        go := w.getLsbD 63, cmd := w.extractLsb' 0 16, done := if w.getLsbD 63 then false else s.mailbox.done } }) ∧
      (∀ i : BitVec 3, i.toNat < 6 → s.mailbox.go = false → wr (0x500010 + 8 * i.toNat)
        { s with mailbox := { s.mailbox with args := rset s.mailbox.args i w } }) ∧
      (∀ off, off < 0x48 → s.mailbox.go = true → wr (0x500000 + off) s) ∧
      wr 0x600000 (step3Ended { s with domain := w &&& 0x81FF000000000000#64, domainSet := true }) ∧
      (∀ n : BitVec 3, exec (.managementRegisterWrite (.nivar d) (0x602000 + 8 * n.toNat) w) s = exec (.reductionWindowWrite n.toNat w) s) ∧
      (∀ i (hi : Bool), i < 64 → wr (0x601000 + 16 * i + if hi then 8 else 0)
        { s with inbound := tput s.inbound i (withHalf (tget s.inbound i 0) hi w &&& 0xFFFFF000FFFFFFFFFFFFFFFFFFFFFFFF#128) }) ∧
      (∀ f, f < 16 → (f = 0 ∨ s.cap.getLsbD 62 = true →
          (∀ s', exec (.sqDoorbell f (w.extractLsb' 0 32)) s = .next s' → wr (0x700020 + 0x1000 * f) (step3Ended s')) ∧
          (∀ s', exec (.cqHeadWrite f (w.extractLsb' 0 32)) s = .next s' → wr (0x700048 + 0x1000 * f) (step3Ended s'))) ∧
        (w.getLsbD 62 = false → w.getLsbD 60 = false → ∃ c : Word, wr (0x700000 + 0x1000 * f) (step3Ended (modPart s f (fun p => withControl p c))) ∧
          c.getLsbD 63 = w.getLsbD 63 ∧ c.extractLsb' 48 10 = w.extractLsb' 48 10 ∧ c.extractLsb' 32 11 = w.extractLsb' 32 11 ∧
          c.extractLsb' 60 2 = (part s f).ctl.extractLsb' 60 2))) ∧
    (∀ f, f < 16 → let host : Nat → Host.Outcome State Fault Refusal := fun off => exec (.managementRegisterWrite (.host f) off w) s
      let idle : (Partition → Prop) → (Partition → Partition) → Host.Outcome State Fault Refusal → Prop := fun busy g out =>
        (busy (part s f) → out = .next (modPart s f (fun p => { p with ctl := p.ctl ||| 0x1000000000000000#64 }))) ∧
        (¬busy (part s f) → out = .next (modPart s f g))
      (f ≠ 0 → s.cap.getLsbD 62 = false → ∀ off, host off = .next s) ∧ (f = 0 ∨ s.cap.getLsbD 62 = true →
      (w.getLsbD 62 = false → host 0 = .next (modPart s f (fun p =>
        withControl p (if w.getLsbD 60 then p.ctl &&& ~~~0x1000000000000000#64 else p.ctl)))) ∧
      idle (fun p => p.sqhead ≠ p.sqtail) (fun p => { p with sqbase := w }) (host 0x10) ∧
      idle (fun p => p.sqhead ≠ p.sqtail) (fun p => { p with sqk := w }) (host 0x18) ∧
      idle (fun p => p.cqhead ≠ p.cqtail) (fun p => { p with cqbase := w }) (host 0x30) ∧
      ((part s f).records = [] → idle (fun p => p.cqhead ≠ p.cqtail) (fun p => { p with cqk := w }) (host 0x38)) ∧
      (∀ s', idle (fun p => p.cqhead ≠ p.cqtail) (fun p => { p with cqk := w }) (.next s') →
        host 0x38 = exec (.cqHeadWrite f (part s f).cqhead) s') ∧
      host 0x20 = exec (.sqDoorbell f (w.extractLsb' 0 32)) s ∧ host 0x48 = exec (.cqHeadWrite f (w.extractLsb' 0 32)) s))

/-- R286, R343, R344, R345, R346: a kill marks every die and discards the context's launches and packets; each cell ends its takes and clears what
it owns; the last report confirms the purge. The model's choices: which packets the routers discard and which cells are asked (log 63), how ends and
channels of the context close (log 64), which prints end and which are completed first (log 110), and bit 11 of a killed take's tfcause (log 117). -/
def Obligations.KillRemovesTheContext : Prop :=
  (∀ s die ctx, (∃ k ∈ s.kills, k.ctx = ctx) → ∃ s', exec (.killFlood die ctx) s = .next s' ∧ s'.kills = s.kills ∧ s'.mem = s.mem ∧
    s'.cells = s.cells ∧ s'.flights = s.flights ∧ s'.launches = s.launches.filter (fun l => l.ctx != ctx)) ∧
  (∀ s die ctx, (∀ k ∈ s.kills, k.ctx ≠ ctx) → ∃ s', exec (.killFlood die ctx) s = .next s' ∧ s'.mem = s.mem ∧ s'.cells = s.cells ∧
    s'.kills = s.kills ++ [⟨ctx, s.cyc.toNat, [], [], [], false⟩] ∧ s'.launches = s.launches.filter (fun l => l.ctx != ctx) ∧
    (∀ d, d < 4 → (ctxRec s' d ctx).kill = true ∧ ∀ c, c ≠ ctx → ctxRec s' d c = ctxRec s d c) ∧ (∀ f ∈ s'.flights, sweptCtx f.pkt ≠ some ctx) ∧
    (∀ d i, (stageAt s d i).v = true → (stageAt s d i).ctx.toNat = ctx → stageAt s' d i = Stage.reset) ∧
    (∀ g, ∀ e ∈ (groveAt s' g).tlb, e.ctx ≠ ctx) ∧ (∀ g, ∀ j ∈ (groveAt s' g).joins, j.ctx ≠ ctx)) ∧
  (∀ s ctx k, findKill s ctx = some k →
    (∀ c, c ∈ k.swept → exec (.killAtCell c ctx) s = .next (if (posOf s c ctx).cq = [] then s else unqueued s c ctx)) ∧
    (∀ c, c ∉ k.swept → printsWait s c ctx →
      (∃ t, printStays s c ctx t) → let ends : BitVec 3 → Prop := fun t => (thr s c t).phase ≠ .idle ∧ (thr s c t).ctx.toNat = ctx ∧ ¬printStays s c ctx t
      ((∀ t, ¬ends t) → (posOf s c ctx).cq = [] → exec (.killAtCell c ctx) s = .next s) ∧
      ((∃ t, ends t) ∨ (posOf s c ctx).cq ≠ [] → ∃ s', exec (.killAtCell c ctx) s = .next s' ∧ findKill s' ctx = some k ∧
        (resident s c ctx = true → (posOf s' c ctx).cq = []) ∧
        ∀ t, let x := thr s c t
          let y := thr s' c t
          (ends t → y = { Thread.reset with frame := y.frame, takes := x.takes } ∧ rget y.frame 1#6 = x.pc) ∧ (¬ends t → y = x))) ∧
    (∀ c, c ∉ k.swept → printsWait s c ctx →
      (∀ t, ¬printStays s c ctx t) → ∃ s', exec (.killAtCell c ctx) s = .next s' ∧ findKill s' ctx = some { k with swept := k.swept ++ [c] } ∧
      (∀ t, let x := thr s c t
        let y := thr s' c t
        (x.phase ≠ .idle → x.ctx.toNat = ctx → y = { Thread.reset with frame := y.frame, takes := x.takes } ∧ rget y.frame 1#6 = x.pc ∧
          rget y.frame 0#6 = BitVec.ofNat 64 (2 ^ 63 + ctx * 2 ^ 16 + (if isIrrevocable x then 2 ^ 11 else 0) + t.toNat * 2 ^ 8 + causeCode .killed)) ∧
        (x.phase = .idle → x.ctx.toNat = ctx → y = { Thread.reset with frame := x.frame, takes := x.takes }) ∧ (x.ctx.toNat ≠ ctx → y = x)) ∧
      (∀ e ∈ (cellAt s' c).sends, e.ctx ≠ ctx) ∧ (∀ e ∈ (cellAt s' c).recvs, e.ctx ≠ ctx) ∧ (∀ h ∈ (cellAt s' c).homes, h.ctx ≠ ctx) ∧
      (∀ w ∈ (cellAt s' c).watch, w.ctx ≠ ctx) ∧ (∀ r ∈ (cellAt s' c).reports, r.ctx ≠ ctx) ∧
      (∀ i, (rget (cellAt s' c).fifo i).st ≠ .free → (rget (cellAt s' c).fifo i).ctx ≠ ctx) ∧
      (∀ b, b < 512 → ¬((barAt s' c b).getLsbD 115 = true ∧ (barAt s' c b).toNat / 2 ^ 116 = ctx)) ∧
      (resident s c ctx = true → let p := posOf s' c ctx
        p.hstore = [] ∧ p.cq = [] ∧ p.landings = [] ∧ p.stage = none ∧ p.retarget = [])) ∧
    (∀ c t, c ∉ k.swept → (thr s c t).ctx.toNat = ctx → reportWaits s c t = true → (∀ e, (thr s c t).effects = [e] →
      (thr s c t).consumed = [] → (thr s c t).msg.lane = none → (thr s c t).origin = .completion →
      (∀ u, u ≠ t → (thr s c u).phase = .printing → (thr s c u).ctx.toNat ≠ ctx) → ∃ s', exec (.killAtCell c ctx) s = .next s' ∧
        (thr s' c t).phase = .idle ∧ (thr s' c t).effects = [] ∧ ctxRec s' (dieOf c) ctx = ctxRec s (dieOf c) ctx)) ∧
    (∀ d, d < 4 → d ∉ k.routers → let met : Prop := ∀ c ∈ killCells s ctx, dieOf c = d → c ∈ k.swept
      (s.cyc.toNat - k.start < 4096 ∨ ¬met → exec (.routerSweepEnd d ctx) s = .next s) ∧
      (4096 ≤ s.cyc.toNat - k.start → met → ∃ s' more, exec (.routerSweepEnd d ctx) s = .next s' ∧ s'.mem = s.mem ∧ s'.cells = s.cells ∧
        findKill s' ctx = some { k with routers := k.routers ++ [d] } ∧
        s'.flights = s.flights.filter (fun f => !(dieOf f.dst == d && sweptCtx f.pkt == some ctx)) ++ more ∧
        (∀ f ∈ more, sweptCtx f.pkt = none))) ∧
    (k.flushed = false → (∀ c ∈ killCells s ctx, c ∈ k.swept) → unsettled s ctx (fun _ => true) = false →
      exec (.hostFlushReadComplete ctx) s = .next (modKill s ctx (fun k => { k with flushed := true }))) ∧
    (unsettled s ctx (fun _ => true) = true → exec (.hostFlushReadComplete ctx) s = .next s) ∧
    (∀ c, unsettled s ctx (fun d => d == c) = true → exec (.killDoneReport c ctx) s = .next s) ∧
    (∀ c, c ∈ k.swept → c ∉ k.done → dieOf c ∈ k.routers → unsettled s ctx (fun d => d == c) = false → (dieOf c = 0 → k.flushed = true) →
      let last := (∀ d ∈ k.swept ++ killCells s ctx, d = c ∨ d ∈ k.done) ∧ k.routers.length = 4 ∧ k.flushed = true
      (¬last → exec (.killDoneReport c ctx) s = .next (modKill s ctx (fun k => { k with done := k.done ++ [c] }))) ∧
      (last → ∃ s', exec (.killDoneReport c ctx) s = .next s' ∧ findKill s' ctx = none ∧ secWord s' ctx = 0 ∧
        (∀ d, d < 4 → (ctxRec s' d ctx).kill = false) ∧ s'.mem = s.mem ∧ (∀ d t, thr s' d t = thr s d t) ∧
        (∀ d, (cellAt s' d).efCtx ≠ some ctx ∧ ∀ t, rget (cellAt s' d).scrCtx t ≠ some ctx) ∧ ∀ l ∈ s'.launches, l.ctx ≠ ctx)))

/-- R293, R346, R366, R367, R368, R370, R375, R376, R377, R378, R379, R380, R382, R383: the commands of the security core, with their statuses. The
model's choices: what GRANT waits for (log 48, 80), the status 10 of SWEEP, the order of RANGE's checks and the generation that ERASE keeps (log 68),
the save area and who must be quiet (log 69), the status of what lies past HBM, 9 for RANGE and 12 for SLEEP (log 119), a sweep's mismatch (log 70),
the key service's input (log 88), what wake does besides (log 12, 85), and SHA-256 with the functions built on it, taken from their standards
(log 82). -/
def Obligations.TrustCommands : Prop :=
  ∀ s, let a := fun (n : BitVec 3) => rget s.mailbox.args n
    (s.mailbox.go = true → commandOk s = false → exec .mailboxInvalidCommand s = .next (reply s 0xFFFF)) ∧
    (s.mailbox.cmd.toNat = 0 ∨ 9 < s.mailbox.cmd.toNat → commandOk s = false) ∧
    (commanded s 1 → let ctx := (a 0).toNat % 2 ^ 12
      let waits := (∃ d, d < 4 ∧ (ctxRec s d ctx).kill = true) ∨ (rget s.parts ((a 0).extractLsb' 16 4)).ctl.getLsbD 61 = true
      let k := rget s.keys ((a 0).extractLsb' 32 6)
      (waits → exec .createCmd s = .next s) ∧
      (¬waits → (secWord s ctx).getLsbD 63 = true → exec .createCmd s = .next (reply s 1)) ∧
      (¬waits → (secWord s ctx).getLsbD 63 = false → (a 0).getLsbD 25 = true → ¬(k.v = true ∧ k.kind = 1) → exec .createCmd s = .next (reply s 2)) ∧
      (¬waits → (secWord s ctx).getLsbD 63 = false → ((a 0).getLsbD 25 = true → k.v = true ∧ k.kind = 1) → ∃ w : Word,
        exec .createCmd s = .next (reply { s with secWords := tput s.secWords ctx w } 0) ∧ w.getLsbD 63 = true ∧
        w.getLsbD 62 = (a 0).getLsbD 24 ∧ w.getLsbD 61 = (a 0).getLsbD 25 ∧ w.getLsbD 60 = false ∧
        w.extractLsb' 48 4 = (a 0).extractLsb' 16 4 ∧ ((a 0).getLsbD 25 = true → w.extractLsb' 32 6 = (a 0).extractLsb' 32 6))) ∧
    (commanded s 2 → s.mailbox.granting = none → let ctx := (a 0).toNat % 2 ^ 12
      let c := (a 0).toNat / 2 ^ 12 % 2 ^ 11
      let s1 := modPos s c ctx (fun p => { p with grants := tput p.grants ((a 0).toNat / 2 ^ 24 % 64) (a 1 &&& 0xE000000007FF07FF#64) })
      (resident s c ctx = false → exec .grantCmd s = .next (reply s 1)) ∧
      (resident s c ctx = true → takesRun s c ctx = false → exec .grantCmd s = .next (reply s1 0)) ∧
      (resident s c ctx = true → takesRun s c ctx = true → ∃ l, l ≠ [] ∧ exec .grantCmd s = .next { s1 with mailbox := { s1.mailbox with granting := some l } })) ∧
    (∀ l, commanded s 2 → s.mailbox.granting = some l →
      ((∀ e ∈ l, let x := thr s e.1 (BitVec.ofNat 3 e.2); x.phase = .idle ∨ x.phase = .reporting) → exec .grantCmd s = .next (reply s 0))) ∧
    (commanded s 3 → s.mailbox.session = none → exec .sessionCmd s = .next { s with mailbox := { s.mailbox with
      session := some ((a 0).extractLsb' 32 32, (a 4).extractLsb' 0 6, s.cyc.toNat) } }) ∧
    (∀ tenant slot start, s.mailbox.session = some (tenant, slot, start) →
      (s.cyc.toNat - start < 2 ^ 36 → exec .sessionTimeout s = .next s) ∧
      (2 ^ 36 ≤ s.cyc.toNat - start → exec .sessionTimeout s = .next (reply s 5)) ∧
      (∀ ok vols (key : BitVec 256), (ok = false ∨ foreign s tenant slot ∨ ∃ v ∈ vols, foreign s tenant v.1) →
        exec (.keyServiceReply ok vols key) s = .next (reply s 4)) ∧
      (∀ vols (key : BitVec 256), vols.length ≤ 16 → ¬foreign s tenant slot → (∀ v ∈ vols, ¬foreign s tenant v.1) →
        (vols.map (·.1)).Nodup → slot ∉ vols.map (·.1) → ∃ ks, exec (.keyServiceReply true vols key) s = .next (reply { s with keys := ks } 0) ∧
          rget ks slot = ⟨true, 1, false, tenant, (rget s.keys slot).gen + 1, key.setWidth 512, messageKey key s.nonce⟩ ∧
          (∀ v ∈ vols, rget ks v.1 = ⟨true, 2, false, tenant, (rget s.keys v.1).gen + 1, v.2, 0⟩) ∧
          ∀ i, i ≠ slot → i ∉ vols.map (·.1) → rget ks i = rget s.keys i)) ∧
    (commanded s 4 → let i := (a 0).extractLsb' 0 6
      let r := rget s.ranges i
      let slot := (a 4).extractLsb' 0 6
      let key := rget s.keys slot
      let bad := (a 1).toNat % 0x10000 ≠ 0 ∨ (a 2).toNat % 0x10000 ≠ 0 ∨ (a 3).toNat % 64 ≠ 0 ∨ 384 * 2 ^ 30 < (a 1).toNat + (a 2).toNat ∨
        384 * 2 ^ 30 < (a 3).toNat + (a 2).toNat / 256 * 8 ∨
        rangeFits s i (a 1).toNat (a 2).toNat (a 3).toNat = false
      let clears := (a 4).getLsbD 63 = true
      (clears → r.sw = true → r.hlt = false → exec .rangeCmd s = .next (reply s 10)) ∧
      (clears → (r.sw = false ∨ r.hlt = true) → rangeHeld s r = true → exec .rangeCmd s = .next s) ∧
      (clears → (r.sw = false ∨ r.hlt = true) → rangeHeld s r = false →
        exec .rangeCmd s = .next (reply { s with ranges := rset s.ranges i SealedRange.reset } 0)) ∧
      (¬clears → ¬(key.v = true ∧ key.kind = 2) → exec .rangeCmd s = .next (reply s 8)) ∧
      (¬clears → key.v = true → key.kind = 2 → bad → exec .rangeCmd s = .next (reply s 9)) ∧
      (¬clears → key.v = true → key.kind = 2 → ¬bad → r.sw = true → exec .rangeCmd s = .next (reply s 10)) ∧
      (¬clears → key.v = true → key.kind = 2 → ¬bad → r.sw = false → rangeHeld s r = false → exec .rangeCmd s = .next (reply { s with
        ranges := rset s.ranges i ⟨true, false, slot, 0, false, 0, BitVec.ofNat 48 (a 3).toNat, BitVec.ofNat 48 (a 2).toNat, BitVec.ofNat 48 (a 1).toNat⟩ } 0))) ∧
    (commanded s 5 → let i := (a 0).extractLsb' 0 6
      let r := rget s.ranges i
      let n := (a 1).extractLsb' 0 6
      let k := rget s.keys n
      let fits := r.v = true ∧ k.v = true ∧ k.kind = 2 ∧ k.tenant = (rget s.keys r.slot).tenant
      (¬fits → exec .sweepCmd s = .next (reply s 8)) ∧
      (fits → someSweep s → exec .sweepCmd s = .next (reply s 10)) ∧
      (fits → ¬someSweep s → exec .sweepCmd s = .next (reply { s with
        ranges := rset s.ranges i { r with nslot := n, sptr := 0, sw := true, hlt := false } } 0))) ∧
    (∀ i : BitVec 6, let r := rget s.ranges i
      let j := r.sptr.toNat
      r.v = true → r.sw = true → r.hlt = false → j < r.len.toNat / 256 →
        (openBlock s { r with sw := false } j = none → exec (.sweepBlock i.toNat) s = .next { s with
          mailbox := { s.mailbox with ievt := if s.mailbox.ievt = 0xFFFFFFFF then s.mailbox.ievt else s.mailbox.ievt + 1 },
          ranges := rset s.ranges i { r with hlt := true } }) ∧
        (∀ bs, openBlock s { r with sw := false } j = some bs → let s1 := sealBlock s r r.nslot j bs
          let r1 : SealedRange := { r with sptr := r.sptr + 1 }
          let r2 : SealedRange := if j + 1 = r.len.toNat / 256 then { r1 with slot := r.nslot, sw := false } else r1
          exec (.sweepBlock i.toNat) s = .next { s1 with ranges := rset s1.ranges i r2 })) ∧
    (commanded s 6 → ∃ args, exec .readCmd s = .next (reply { s with mailbox := { s.mailbox with args := args } } 0) ∧
      ((a 0).toNat < 16 → rget args 3 ++ rget args 2 ++ rget args 1 ++ rget args 0 = rget s.measure (BitVec.ofNat 4 (a 0).toNat)) ∧
      (16 ≤ (a 0).toNat → let k := rget s.keys (BitVec.ofNat 6 ((a 0).toNat - 0x40))
        rget args 0 = BitVec.ofNat 64 ((if k.v then 2 ^ 63 else 0) + k.kind.toNat * 2 ^ 61 + (if k.susp then 2 ^ 60 else 0) + k.tenant.toNat * 2 ^ 16 + k.gen.toNat))) ∧
    (commanded s 7 → let i := (a 0).extractLsb' 0 6
      (named s i → exec .eraseCmd s = .next (reply s 11)) ∧
      (¬named s i → exec .eraseCmd s = .next (reply { s with keys := rset s.keys i ⟨false, 0, false, 0, (rget s.keys i).gen, 0, 0⟩ } 0))) ∧
    (commanded s 8 → let able := ∀ e ∈ s.secWords, e.2.getLsbD 63 = true → ∀ d, d < 4 → quiet s d e.1 = true
      (¬able → exec .sleepCmd s = .next (reply s 6)) ∧
      (able → someSweep s → exec .sleepCmd s = .next (reply s 10)) ∧
      let area := (a 0).toNat + 264 * saveBlocks s ≤ 384 * 2 ^ 30 ∧ 264 * saveBlocks s ≤ (a 1).toNat
      (able → ¬someSweep s → ¬area → exec .sleepCmd s = .next (reply s 12)) ∧
      (able → ¬someSweep s → area → ∃ s', exec .sleepCmd s = .next s' ∧ s'.asleep = some ((a 0).toNat, saveBlocks s) ∧
        s'.mailbox.done = true ∧ s'.mailbox.st = 0 ∧ s'.mailbox.go = false ∧
        (∀ i, rget s'.keys i = { rget s.keys i with susp := true }) ∧
        (∀ ctx, (secWord s ctx).getLsbD 63 = true → (secWord s ctx).getLsbD 61 = true → (secWord s' ctx).getLsbD 60 = true))) ∧
    (commanded s 9 → let n := (a 0).extractLsb' 0 4
      (n.toNat < 8 → exec .extendCmd s = .next (reply s 13)) ∧
      (8 ≤ n.toNat → exec .extendCmd s = .next (reply { s with
        measure := rset s.measure n (measureExtend (rget s.measure n) (a 4 ++ a 3 ++ a 2 ++ a 1)) } 0))) ∧
    (∀ e accepted, s.asleep = some e → ∃ s', exec (.wake accepted) s = .next s' ∧ s'.asleep = none ∧
      (∀ i, (rget s.keys i).v = true → (rget s.keys i).susp = true → (rget s.keys i).tenant ∉ accepted → (rget s'.keys i).v = false) ∧
      (∀ i, (rget s.keys i).v = true → (rget s.keys i).susp = true → (rget s.keys i).tenant ∈ accepted →
        rget s'.keys i = { rget s.keys i with susp := false })) ∧
    (s.asleep = none → ∀ accepted, exec (.wake accepted) s = .next s)

/-- R384, R385, R386, R387, R389, R390: what boot, the tests of bring-up and the clocks of the dies leave in the capability register. The model's
choices: COLD_BOOT puts every field at reset but what the outside has yet to do, extends registers 0 to 2, and brings a fresh nonce; step 3 ends once
Nivar has set the domain register and enabled a partition (log 71, 1); SHA-256 is taken from its standard (log 82). -/
def Obligations.BringUpAndClocks : Prop :=
  (∀ s first second nivar config nivarConfig,
    let s0 := { State.reset with
      agenda := s.agenda, reqErrors := s.reqErrors, copyErrors := s.copyErrors, opErrors := s.opErrors, nonce := Config.bootNonce s.fresh, fresh := s.fresh + 1 }
    let m := fun (x : BitVec 256) => measureExtend 0 x
    (first = none → second = none → exec (.coldBoot first second nivar config nivarConfig) s = .next s0) ∧
    (∀ d, (first = some d ∨ first = none ∧ second = some d) →
      (nivar = none → exec (.coldBoot first second nivar config nivarConfig) s = .next { s0 with measure := rset s0.measure 0 (m d) }) ∧
      ∀ v, nivar = some v → exec (.coldBoot first second nivar config nivarConfig) s = .next { s0 with
        measure := rset (rset (rset s0.measure 0 (m d)) 1 (m v)) 2 (m config), step3 := some nivarConfig })) ∧
  (∀ s w digest, s.step3 = some digest → (∃ p ∈ s.parts.toList, p.ctl.getLsbD 63 = true) → ∃ s', exec (.managementRegisterWrite (.nivar 0) 0x600000 w) s = .next s' ∧
    capIs s' 62 = true ∧ s'.step3 = none ∧ s'.measure = rset s.measure 3 (measureExtend (rget s.measure 3) digest)) ∧
  (∀ s d, d < 4 → let bring : Instr → Nat → Nat → Prop := fun i n lit => ∃ s', exec i s = .next s' ∧ s'.mem = s.mem ∧ s'.cells = s.cells ∧
      (dieAt s' d).bringup = n ∧ capIs s' lit = true ∧
      (∀ j, j < 63 → 16 ≤ j → j ≠ lit → capIs s' j = capIs s j) ∧ (∀ e, e < 4 → e ≠ d → clkField s' e = clkField s e) ∧
      (capIs s' 63 = true ↔ (∀ j, 32 ≤ j → j < 48 → capIs s' j = true) ∧ capIs s' 61 = false)
    (∀ ok digest, capIs s 62 = false → exec (.dieTestComplete d ok digest) s = .next s) ∧
    (∀ ok digest, capIs s 62 = true → (dieAt s d).bringup = 0 →
      bring (.dieTestComplete d ok digest) (if ok then 1 else 3) (if ok then 36 + d else 56 + d) ∧
      ∃ s', exec (.dieTestComplete d ok digest) s = .next s' ∧ clkField s' d = (if ok then 4 else clkField s d) ∧
        s'.measure = rset s.measure (BitVec.ofNat 4 (4 + d)) (measureExtend (rget s.measure (BitVec.ofNat 4 (4 + d))) digest)) ∧
    (∀ ok, (dieAt s d).bringup = 1 → bring (.hbmTrainingComplete d ok) 2 (if ok then 40 + d else 52 + d)) ∧
    (∀ ok, (dieAt s d).bringup = 2 → bring (.fourBitTestComplete d ok) 3 (if ok then 44 + d else 48 + d)) ∧
    (∀ ok digest, (dieAt s d).bringup ≠ 0 → exec (.dieTestComplete d ok digest) s = .next s) ∧
    (∀ ok, (dieAt s d).bringup ≠ 1 → exec (.hbmTrainingComplete d ok) s = .next s) ∧
    (∀ ok, (dieAt s d).bringup ≠ 2 → exec (.fourBitTestComplete d ok) s = .next s) ∧
    (capIs s (36 + d) = true → (dieAt s d).raised = false → ∃ s', exec (.bringupClockRaise d) s = .next s' ∧
      clkField s' d = 8 ∧ capIs s' (32 + d) = true ∧ (dieAt s' d).raised = true ∧ s'.mem = s.mem ∧ s'.cells = s.cells ∧
      (∀ j, j < 63 → 16 ≤ j → j ≠ 32 + d → capIs s' j = capIs s j) ∧ (∀ e, e < 4 → e ≠ d → clkField s' e = clkField s e)) ∧
    (capIs s (36 + d) = true → (dieAt s d).raised = true → 4 < clkField s d → ∃ s', exec (.clockThrottle d) s = .next s' ∧
      clkField s' d = clkField s d - 1 ∧ capIs s' (32 + d) = false ∧ capIs s' 61 = true ∧ capIs s' 63 = false ∧ s'.cells = s.cells ∧
      s'.cyc = s.cyc ∧ s'.mem = s.mem ∧ (∀ j, j < 61 → 16 ≤ j → j ≠ 32 + d → capIs s' j = capIs s j) ∧ (∀ e, e < 4 → e ≠ d → clkField s' e = clkField s e)) ∧
    (clkField s d ≤ 4 → exec (.clockThrottle d) s = .next s) ∧
    (capIs s (36 + d) = true → (dieAt s d).raised = true → clkField s d < 8 → ∃ s', exec (.clockRestore d) s = .next s' ∧
      clkField s' d = clkField s d + 1 ∧ (capIs s' (32 + d) = true ↔ clkField s d = 7) ∧
      ((∀ e, e < 4 → (dieAt s e).raised = true → clkField s' e = 8) → capIs s' 61 = false) ∧ s'.cells = s.cells ∧ s'.mem = s.mem ∧
      ((∃ e, e < 4 ∧ (dieAt s e).raised = true ∧ clkField s' e ≠ 8) → capIs s' 61 = capIs s 61)))
end

