-- ==== Sys2Proof/Laws/Dispatch.lean ====
section
/-! SUPPORT. One arm of `exec` each: the meaning of an instruction, without unfolding the whole match. -/

namespace Sys2Proof.Machine

variable (s : State)

theorem exec_plainMove (src : Src) (dst : Dst) : exec (.plainMove src dst) s = execPlainMove src dst s := rfl
theorem exec_pairWord (src1 : Src) (dst1 : Dst) (src2 : Src) (dst2 : Dst) : exec (.pairWord src1 dst1 src2 dst2) s = execPairWord src1 dst1 src2 dst2 s := rfl
theorem exec_ldx (imm : BitVec 24) (q : BitVec 2) (n : BitVec 3) : exec (.ldx imm q n) s = execLdx imm q n s := rfl
theorem exec_ldi (imm : BitVec 20) (n : BitVec 5) : exec (.ldi imm n) s = execLdi imm n s := rfl
theorem exec_bControl (off : BitVec 22) : exec (.bControl off) s = execBControl off s := rfl
theorem exec_callControl (off : BitVec 22) : exec (.callControl off) s = execCallControl off s := rfl
theorem exec_add (u : IUnit) (grd : Guard) (src : Src) : exec (.add u grd src) s = execAdd u grd src s := rfl
theorem exec_addw (u : IUnit) (grd : Guard) (src : Src) : exec (.addw u grd src) s = execAddw u grd src s := rfl
theorem exec_sub (u : IUnit) (grd : Guard) (src : Src) : exec (.sub u grd src) s = execSub u grd src s := rfl
theorem exec_subw (u : IUnit) (grd : Guard) (src : Src) : exec (.subw u grd src) s = execSubw u grd src s := rfl
theorem exec_andi (u : IUnit) (grd : Guard) (src : Src) : exec (.andi u grd src) s = execAndi u grd src s := rfl
theorem exec_ori (u : IUnit) (grd : Guard) (src : Src) : exec (.ori u grd src) s = execOri u grd src s := rfl
theorem exec_xori (u : IUnit) (grd : Guard) (src : Src) : exec (.xori u grd src) s = execXori u grd src s := rfl
theorem exec_andn (u : IUnit) (grd : Guard) (src : Src) : exec (.andn u grd src) s = execAndn u grd src s := rfl
theorem exec_orn (u : IUnit) (grd : Guard) (src : Src) : exec (.orn u grd src) s = execOrn u grd src s := rfl
theorem exec_min (u : IUnit) (grd : Guard) (src : Src) : exec (.min u grd src) s = execMin u grd src s := rfl
theorem exec_max (u : IUnit) (grd : Guard) (src : Src) : exec (.max u grd src) s = execMax u grd src s := rfl
theorem exec_minu (u : IUnit) (grd : Guard) (src : Src) : exec (.minu u grd src) s = execMinu u grd src s := rfl
theorem exec_maxu (u : IUnit) (grd : Guard) (src : Src) : exec (.maxu u grd src) s = execMaxu u grd src s := rfl
theorem exec_abs (u : IUnit) (grd : Guard) (src : Src) : exec (.abs u grd src) s = execAbs u grd src s := rfl
theorem exec_pass (u : IUnit) (grd : Guard) (src : Src) : exec (.pass u grd src) s = execPass u grd src s := rfl
theorem exec_mul (grd : Guard) (src : Src) : exec (.mul grd src) s = execMul grd src s := rfl
theorem exec_mulh (grd : Guard) (src : Src) : exec (.mulh grd src) s = execMulh grd src s := rfl
theorem exec_mulhu (grd : Guard) (src : Src) : exec (.mulhu grd src) s = execMulhu grd src s := rfl
theorem exec_mulw (grd : Guard) (src : Src) : exec (.mulw grd src) s = execMulw grd src s := rfl
theorem exec_div (grd : Guard) (src : Src) : exec (.div grd src) s = execDiv grd src s := rfl
theorem exec_divu (grd : Guard) (src : Src) : exec (.divu grd src) s = execDivu grd src s := rfl
theorem exec_rem (grd : Guard) (src : Src) : exec (.rem grd src) s = execRem grd src s := rfl
theorem exec_remu (grd : Guard) (src : Src) : exec (.remu grd src) s = execRemu grd src s := rfl
theorem exec_shl (grd : Guard) (src : Src) : exec (.shl grd src) s = execShl grd src s := rfl
theorem exec_shr (grd : Guard) (src : Src) : exec (.shr grd src) s = execShr grd src s := rfl
theorem exec_sha (grd : Guard) (src : Src) : exec (.sha grd src) s = execSha grd src s := rfl
theorem exec_rol (grd : Guard) (src : Src) : exec (.rol grd src) s = execRol grd src s := rfl
theorem exec_clz (grd : Guard) (src : Src) : exec (.clz grd src) s = execClz grd src s := rfl
theorem exec_ctz (grd : Guard) (src : Src) : exec (.ctz grd src) s = execCtz grd src s := rfl
theorem exec_pop (grd : Guard) (src : Src) : exec (.pop grd src) s = execPop grd src s := rfl
theorem exec_ext (grd : Guard) (src : Src) : exec (.ext grd src) s = execExt grd src s := rfl
theorem exec_ins (grd : Guard) (src : Src) : exec (.ins grd src) s = execIns grd src s := rfl
theorem exec_rev (grd : Guard) (src : Src) : exec (.rev grd src) s = execRev grd src s := rfl
theorem exec_ceq (grd : Guard) (src : Src) (p : BitVec 3) : exec (.ceq grd src p) s = execCeq grd src p s := rfl
theorem exec_cne (grd : Guard) (src : Src) (p : BitVec 3) : exec (.cne grd src p) s = execCne grd src p s := rfl
theorem exec_clt (grd : Guard) (src : Src) (p : BitVec 3) : exec (.clt grd src p) s = execClt grd src p s := rfl
theorem exec_cltu (grd : Guard) (src : Src) (p : BitVec 3) : exec (.cltu grd src p) s = execCltu grd src p s := rfl
theorem exec_cge (grd : Guard) (src : Src) (p : BitVec 3) : exec (.cge grd src p) s = execCge grd src p s := rfl
theorem exec_cgeu (grd : Guard) (src : Src) (p : BitVec 3) : exec (.cgeu grd src p) s = execCgeu grd src p s := rfl
theorem exec_ctst (grd : Guard) (src : Src) (p : BitVec 3) : exec (.ctst grd src p) s = execCtst grd src p s := rfl
theorem exec_pand (grd : Guard) (src : Src) (p : BitVec 3) : exec (.pand grd src p) s = execPand grd src p s := rfl
theorem exec_por (grd : Guard) (src : Src) (p : BitVec 3) : exec (.por grd src p) s = execPor grd src p s := rfl
theorem exec_pnot (grd : Guard) (src : Src) (p : BitVec 3) : exec (.pnot grd src p) s = execPnot grd src p s := rfl
theorem exec_aadd (grd : Guard) (src : Src) : exec (.aadd grd src) s = execAadd grd src s := rfl
theorem exec_asub (grd : Guard) (src : Src) : exec (.asub grd src) s = execAsub grd src s := rfl
theorem exec_atag (grd : Guard) (src : Src) : exec (.atag grd src) s = execAtag grd src s := rfl
theorem exec_aget (grd : Guard) (src : Src) : exec (.aget grd src) s = execAget grd src s := rfl
theorem exec_aidx (grd : Guard) (src : Src) : exec (.aidx grd src) s = execAidx grd src s := rfl
theorem exec_adiff (grd : Guard) (src : Src) : exec (.adiff grd src) s = execAdiff grd src s := rfl
theorem exec_fadd (grd : Guard) (src : Src) (r : FRound) : exec (.fadd grd src r) s = execFadd grd src r s := rfl
theorem exec_fsub (grd : Guard) (src : Src) (r : FRound) : exec (.fsub grd src r) s = execFsub grd src r s := rfl
theorem exec_fmul (grd : Guard) (src : Src) (r : FRound) : exec (.fmul grd src r) s = execFmul grd src r s := rfl
theorem exec_fma (grd : Guard) (src : Src) (r : FRound) : exec (.fma grd src r) s = execFma grd src r s := rfl
theorem exec_fmin (grd : Guard) (src : Src) : exec (.fmin grd src) s = execFmin grd src s := rfl
theorem exec_fmax (grd : Guard) (src : Src) : exec (.fmax grd src) s = execFmax grd src s := rfl
theorem exec_fabs (grd : Guard) (src : Src) : exec (.fabs grd src) s = execFabs grd src s := rfl
theorem exec_fneg (grd : Guard) (src : Src) : exec (.fneg grd src) s = execFneg grd src s := rfl
theorem exec_fsqrt (grd : Guard) (src : Src) (r : FRound) : exec (.fsqrt grd src r) s = execFsqrt grd src r s := rfl
theorem exec_frcp (grd : Guard) (src : Src) (r : FRound) : exec (.frcp grd src r) s = execFrcp grd src r s := rfl
theorem exec_fdiv (grd : Guard) (src : Src) (r : FRound) : exec (.fdiv grd src r) s = execFdiv grd src r s := rfl
theorem exec_fcmp (grd : Guard) (src : Src) (c : FCond) (p : BitVec 3) : exec (.fcmp grd src c p) s = execFcmp grd src c p s := rfl
theorem exec_fcvt (grd : Guard) (src : Src) (sf d : Fmt) (nan : Bool) : exec (.fcvt grd src sf d nan) s = execFcvt grd src sf d nan s := rfl
theorem exec_ld (grd : Guard) (src : Src) (z : Size) (sp : Space) (sx : Bool) : exec (.ld grd src z sp sx) s = execLd grd src z sp sx s := rfl
theorem exec_st (grd : Guard) (src : Src) (z : Size) (sp : Space) : exec (.st grd src z sp) s = execSt grd src z sp s := rfl
theorem exec_lda (grd : Guard) (src : Src) (z : Size) (sp : Space) (sc : Scope) : exec (.lda grd src z sp sc) s = execLda grd src z sp sc s := rfl
theorem exec_stl (grd : Guard) (src : Src) (z : Size) (sp : Space) (sc : Scope) : exec (.stl grd src z sp sc) s = execStl grd src z sp sc s := rfl
theorem exec_cas (grd : Guard) (src : Src) (z : Size) (sp : Space) : exec (.cas grd src z sp) s = execCas grd src z sp s := rfl
theorem exec_swp (grd : Guard) (src : Src) (z : Size) (sp : Space) : exec (.swp grd src z sp) s = execSwp grd src z sp s := rfl
theorem exec_amo (grd : Guard) (src : Src) (op : AmoOp) (z : Size) (sp : Space) : exec (.amo grd src op z sp) s = execAmo grd src op z sp s := rfl
theorem exec_ared (grd : Guard) (src : Src) (op : AmoOp) (z : Size) : exec (.ared grd src op z) s = execAred grd src op z s := rfl
theorem exec_rbr (grd : Guard) (src : Src) (sp : Space) (c : BitVec 4) : exec (.rbr grd src sp c) s = execRbr grd src sp c s := rfl
theorem exec_fence (grd : Guard) (src : Src) (kinds : BitVec 4) (sc : Scope) : exec (.fence grd src kinds sc) s = execFence grd src kinds sc s := rfl
theorem exec_br (grd : Guard) (src : Src) : exec (.br grd src) s = execBr grd src s := rfl
theorem exec_bi (grd : Guard) (src : Src) : exec (.bi grd src) s = execBi grd src s := rfl
theorem exec_call (grd : Guard) (src : Src) : exec (.call grd src) s = execCall grd src s := rfl
theorem exec_ret (grd : Guard) (src : Src) : exec (.ret grd src) s = execRet grd src s := rfl
theorem exec_loop (grd : Guard) (src : Src) (n : BitVec 1) : exec (.loop grd src n) s = execLoop grd src n s := rfl
theorem exec_lbrk (grd : Guard) (src : Src) (n : BitVec 1) : exec (.lbrk grd src n) s = execLbrk grd src n s := rfl
theorem exec_chnew (grd : Guard) (src : Src) (hr hs : BitVec 3) : exec (.chnew grd src hr hs) s = execChnew grd src hr hs s := rfl
theorem exec_snd (grd : Guard) (src : Src) (n : BitVec 3) (c : BitVec 4) : exec (.snd grd src n c) s = execSnd grd src n c s := rfl
theorem exec_sndh (grd : Guard) (src : Src) (n : BitVec 3) (c : BitVec 4) : exec (.sndh grd src n c) s = execSndh grd src n c s := rfl
theorem exec_rtry (grd : Guard) (src : Src) (p : BitVec 3) : exec (.rtry grd src p) s = execRtry grd src p s := rfl
theorem exec_hmov (grd : Guard) (src : Src) (h : BitVec 3) : exec (.hmov grd src h) s = execHmov grd src h s := rfl
theorem exec_hdup (grd : Guard) (src : Src) (h : BitVec 3) : exec (.hdup grd src h) s = execHdup grd src h s := rfl
theorem exec_hclr (grd : Guard) (src : Src) : exec (.hclr grd src) s = execHclr grd src s := rfl
theorem exec_close (grd : Guard) (src : Src) : exec (.close grd src) s = execClose grd src s := rfl
theorem exec_hkind (grd : Guard) (src : Src) : exec (.hkind grd src) s = execHkind grd src s := rfl
theorem exec_hsave (grd : Guard) (src : Src) (h : BitVec 3) : exec (.hsave grd src h) s = execHsave grd src h s := rfl
theorem exec_hload (grd : Guard) (src : Src) (h : BitVec 3) : exec (.hload grd src h) s = execHload grd src h s := rfl
theorem exec_gsnd (grd : Guard) (src : Src) (n : BitVec 3) (c : BitVec 4) : exec (.gsnd grd src n c) s = execGsnd grd src n c s := rfl
theorem exec_slate (grd : Guard) (src : Src) : exec (.slate grd src) s = execSlate grd src s := rfl
theorem exec_fin (grd : Guard) (src : Src) : exec (.fin grd src) s = execFin grd src s := rfl
theorem exec_pin (grd : Guard) (src : Src) : exec (.pin grd src) s = execPin grd src s := rfl
theorem exec_retake (grd : Guard) (src : Src) : exec (.retake grd src) s = execRetake grd src s := rfl
theorem exec_brk (grd : Guard) (src : Src) : exec (.brk grd src) s = execBrk grd src s := rfl
theorem exec_trap (grd : Guard) (src : Src) : exec (.trap grd src) s = execTrap grd src s := rfl
theorem exec_gcr (grd : Guard) (src : Src) : exec (.gcr grd src) s = execGcr grd src s := rfl
theorem exec_scr (grd : Guard) (src : Src) : exec (.scr grd src) s = execScr grd src s := rfl
theorem exec_sig (grd : Guard) (src : Src) : exec (.sig grd src) s = execSig grd src s := rfl
theorem exec_hset (grd : Guard) (src : Src) : exec (.hset grd src) s = execHset grd src s := rfl
theorem exec_lnch (grd : Guard) (src : Src) : exec (.lnch grd src) s = execLnch grd src s := rfl
theorem exec_vld (grd : Guard) (src : Src) (sp : VSpace) (part : Part) (v : BitVec 5) : exec (.vld grd src sp part v) s = execVld grd src sp part v s := rfl
theorem exec_vst (grd : Guard) (src : Src) (sp : VSpace) (part : Part) (v : BitVec 5) : exec (.vst grd src sp part v) s = execVst grd src sp part v s := rfl
theorem exec_vbcast (grd : Guard) (src : Src) (t : ElTy) (v : BitVec 5) : exec (.vbcast grd src t v) s = execVbcast grd src t v s := rfl
theorem exec_vperm (grd : Guard) (src : Src) (t : ElTy) (v : BitVec 5) : exec (.vperm grd src t v) s = execVperm grd src t v s := rfl
theorem exec_vmv (grd : Guard) (src : Src) (v : BitVec 5) : exec (.vmv grd src v) s = execVmv grd src v s := rfl
theorem exec_vadd (grd : Guard) (src : Src) (t : ElTy) (v : BitVec 5) : exec (.vadd grd src t v) s = execVadd grd src t v s := rfl
theorem exec_vsub (grd : Guard) (src : Src) (t : ElTy) (v : BitVec 5) : exec (.vsub grd src t v) s = execVsub grd src t v s := rfl
theorem exec_vmul (grd : Guard) (src : Src) (t : ElTy) (v : BitVec 5) : exec (.vmul grd src t v) s = execVmul grd src t v s := rfl
theorem exec_vfma (grd : Guard) (src : Src) (t : ElTy) (v : BitVec 5) : exec (.vfma grd src t v) s = execVfma grd src t v s := rfl
theorem exec_vmax (grd : Guard) (src : Src) (t : ElTy) (v : BitVec 5) : exec (.vmax grd src t v) s = execVmax grd src t v s := rfl
theorem exec_vmin (grd : Guard) (src : Src) (t : ElTy) (v : BitVec 5) : exec (.vmin grd src t v) s = execVmin grd src t v s := rfl
theorem exec_vabs (grd : Guard) (src : Src) (t : ElTy) (v : BitVec 5) : exec (.vabs grd src t v) s = execVabs grd src t v s := rfl
theorem exec_vneg (grd : Guard) (src : Src) (t : ElTy) (v : BitVec 5) : exec (.vneg grd src t v) s = execVneg grd src t v s := rfl
theorem exec_vexp2 (grd : Guard) (src : Src) (t : ElTy) (v : BitVec 5) : exec (.vexp2 grd src t v) s = execVexp2 grd src t v s := rfl
theorem exec_vlog2 (grd : Guard) (src : Src) (t : ElTy) (v : BitVec 5) : exec (.vlog2 grd src t v) s = execVlog2 grd src t v s := rfl
theorem exec_vrcp (grd : Guard) (src : Src) (t : ElTy) (v : BitVec 5) : exec (.vrcp grd src t v) s = execVrcp grd src t v s := rfl
theorem exec_vrsq (grd : Guard) (src : Src) (t : ElTy) (v : BitVec 5) : exec (.vrsq grd src t v) s = execVrsq grd src t v s := rfl
theorem exec_vand (grd : Guard) (src : Src) (v : BitVec 5) : exec (.vand grd src v) s = execVand grd src v s := rfl
theorem exec_vor (grd : Guard) (src : Src) (v : BitVec 5) : exec (.vor grd src v) s = execVor grd src v s := rfl
theorem exec_vxor (grd : Guard) (src : Src) (v : BitVec 5) : exec (.vxor grd src v) s = execVxor grd src v s := rfl
theorem exec_vsel (grd : Guard) (src : Src) (t : ElTy) (v : BitVec 5) : exec (.vsel grd src t v) s = execVsel grd src t v s := rfl
theorem exec_vcmp (grd : Guard) (src : Src) (c : VCond) (t : ElTy) (v : BitVec 5) : exec (.vcmp grd src c t v) s = execVcmp grd src c t v s := rfl
theorem exec_vamax (grd : Guard) (src : Src) (k : AmaxKind) : exec (.vamax grd src k) s = execVamax grd src k s := rfl
theorem exec_vredadd (grd : Guard) (src : Src) (t : ElTy) : exec (.vredadd grd src t) s = execVredadd grd src t s := rfl
theorem exec_vredmax (grd : Guard) (src : Src) (t : ElTy) : exec (.vredmax grd src t) s = execVredmax grd src t s := rfl
theorem exec_vscan (grd : Guard) (src : Src) (t : ElTy) (v : BitVec 5) : exec (.vscan grd src t v) s = execVscan grd src t v s := rfl
theorem exec_vmerge (grd : Guard) (src : Src) (t : ElTy) (v : BitVec 5) : exec (.vmerge grd src t v) s = execVmerge grd src t v s := rfl
theorem exec_vrecv (grd : Guard) (src : Src) (t : ElTy) (v : BitVec 5) : exec (.vrecv grd src t v) s = execVrecv grd src t v s := rfl
theorem exec_vsnd (grd : Guard) (src : Src) (c : BitVec 4) : exec (.vsnd grd src c) s = execVsnd grd src c s := rfl
theorem exec_vcvt (grd : Guard) (src : Src) (blk : BitVec 2) (k : BitVec 4) (amx sr nan : Bool) (vd : BitVec 4) : exec (.vcvt grd src blk k amx sr nan vd) s = execVcvt grd src blk k amx sr nan vd s := rfl
theorem exec_tld (grd : Guard) (src : Src) (sp : VSpace) (t : BitVec 3) : exec (.tld grd src sp t) s = execTld grd src sp t s := rfl
theorem exec_tst (grd : Guard) (src : Src) (sp : VSpace) (t : BitVec 3) : exec (.tst grd src sp t) s = execTst grd src sp t s := rfl
theorem exec_tcst (grd : Guard) (src : Src) (sp : VSpace) (amx sr nan : Bool) (t : BitVec 3) : exec (.tcst grd src sp amx sr nan t) s = execTcst grd src sp amx sr nan t s := rfl
theorem exec_tzero (grd : Guard) (src : Src) (t : BitVec 3) : exec (.tzero grd src t) s = execTzero grd src t s := rfl
theorem exec_tmv (grd : Guard) (src : Src) (t : BitVec 3) : exec (.tmv grd src t) s = execTmv grd src t s := rfl
theorem exec_mma (grd : Guard) (src : Src) (ta tb : Bool) (t : BitVec 3) (a : BitVec 2) : exec (.mma grd src ta tb t a) s = execMma grd src ta tb t a s := rfl
theorem exec_mmsk (grd : Guard) (src : Src) (sk : BitVec 2) (t : BitVec 3) (a : BitVec 2) : exec (.mmsk grd src sk t a) s = execMmsk grd src sk t a s := rfl
theorem exec_gmma (grd : Guard) (src : Src) (ta tb : Bool) (t : BitVec 3) (a : BitVec 2) : exec (.gmma grd src ta tb t a) s = execGmma grd src ta tb t a s := rfl
theorem exec_taccTile (grd : Guard) (src : Src) (amx sr : Bool) (t : BitVec 3) (a : BitVec 2) : exec (.taccTile grd src amx sr t a) s = execTaccTile grd src amx sr t a s := rfl
theorem exec_taccVector (grd : Guard) (src : Src) (v : BitVec 5) (a : BitVec 2) : exec (.taccVector grd src v a) s = execTaccVector grd src v a s := rfl
theorem exec_aclr (grd : Guard) (src : Src) (a : BitVec 2) : exec (.aclr grd src a) s = execAclr grd src a s := rfl
theorem exec_skset (grd : Guard) (src : Src) (k : BitVec 2) : exec (.skset grd src k) s = execSkset grd src k s := rfl
theorem exec_cpush (grd : Guard) (src : Src) : exec (.cpush grd src) s = execCpush grd src s := rfl
theorem exec_cpushn (grd : Guard) (src : Src) : exec (.cpushn grd src) s = execCpushn grd src s := rfl
theorem exec_cpoll (grd : Guard) (src : Src) : exec (.cpoll grd src) s = execCpoll grd src s := rfl
theorem exec_binit (grd : Guard) (src : Src) : exec (.binit grd src) s = execBinit grd src s := rfl
theorem exec_barr (grd : Guard) (src : Src) : exec (.barr grd src) s = execBarr grd src s := rfl
theorem exec_bwait (grd : Guard) (src : Src) (ph : BitVec 1) : exec (.bwait grd src ph) s = execBwait grd src ph s := rfl
theorem exec_bexp (grd : Guard) (src : Src) : exec (.bexp grd src) s = execBexp grd src s := rfl
theorem exec_hwbar (grd : Guard) (src : Src) : exec (.hwbar grd src) s = execHwbar grd src s := rfl
theorem exec_gset (grd : Guard) (src : Src) : exec (.gset grd src) s = execGset grd src s := rfl
theorem exec_gdec (grd : Guard) (src : Src) : exec (.gdec grd src) s = execGdec grd src s := rfl
theorem exec_rinit (grd : Guard) (src : Src) : exec (.rinit grd src) s = execRinit grd src s := rfl
theorem exec_rawait (grd : Guard) (src : Src) : exec (.rawait grd src) s = execRawait grd src s := rfl
theorem exec_rrel (grd : Guard) (src : Src) : exec (.rrel grd src) s = execRrel grd src s := rfl
theorem exec_rpeek (grd : Guard) (src : Src) : exec (.rpeek grd src) s = execRpeek grd src s := rfl
theorem exec_mon (grd : Guard) (src : Src) : exec (.mon grd src) s = execMon grd src s := rfl
theorem exec_mwait (grd : Guard) (src : Src) : exec (.mwait grd src) s = execMwait grd src s := rfl
theorem exec_dispatch (cell : Nat) : exec (.dispatch cell) s = execDispatch cell s := rfl
theorem exec_engineFileAcquire (cell : Nat) : exec (.engineFileAcquire cell) s = execEngineFileAcquire cell s := rfl
theorem exec_unitOpComplete (cell th : Nat) (u : BitVec 4) : exec (.unitOpComplete cell th u) s = execUnitOpComplete cell th u s := rfl
theorem exec_vxOpStart (cell : Nat) : exec (.vxOpStart cell) s = execVxOpStart cell s := rfl
theorem exec_vxOpComplete (cell : Nat) : exec (.vxOpComplete cell) s = execVxOpComplete cell s := rfl
theorem exec_mxOpStart (cell : Nat) : exec (.mxOpStart cell) s = execMxOpStart cell s := rfl
theorem exec_mxOpComplete (cell : Nat) : exec (.mxOpComplete cell) s = execMxOpComplete cell s := rfl
theorem exec_gmmaJoinComplete (grove ctx : Nat) : exec (.gmmaJoinComplete grove ctx) s = execGmmaJoinComplete grove ctx s := rfl
theorem exec_print (cell th : Nat) : exec (.print cell th) s = execPrint cell th s := rfl
theorem exec_remoteRequestArrival (what : Arrival) : exec (.remoteRequestArrival what) s = execRemoteRequestArrival what s := rfl
theorem exec_remoteAnswer (id : Nat) : exec (.remoteAnswer id) s = execRemoteAnswer id s := rfl
theorem exec_budget (cell th : Nat) : exec (.budget cell th) s = execBudget cell th s := rfl
theorem exec_tlbWalkComplete (grove ctx : Nat) (va : Word) : exec (.tlbWalkComplete grove ctx va) s = execTlbWalkComplete grove ctx va s := rfl
theorem exec_dataPkt (id : Nat) : exec (.dataPkt id) s = execDataPkt id s := rfl
theorem exec_notePkt (id : Nat) : exec (.notePkt id) s = execNotePkt id s := rfl
theorem exec_fwdPkt (id : Nat) : exec (.fwdPkt id) s = execFwdPkt id s := rfl
theorem exec_freePkt (id : Nat) : exec (.freePkt id) s = execFreePkt id s := rfl
theorem exec_returnPkt (id : Nat) : exec (.returnPkt id) s = execReturnPkt id s := rfl
theorem exec_creditPkt (id : Nat) : exec (.creditPkt id) s = execCreditPkt id s := rfl
theorem exec_regPkt (id : Nat) : exec (.regPkt id) s = execRegPkt id s := rfl
theorem exec_movedPkt (id : Nat) : exec (.movedPkt id) s = execMovedPkt id s := rfl
theorem exec_pullPkt (id : Nat) : exec (.pullPkt id) s = execPullPkt id s := rfl
theorem exec_shipPkt (id : Nat) : exec (.shipPkt id) s = execShipPkt id s := rfl
theorem exec_movePkt (id : Nat) : exec (.movePkt id) s = execMovePkt id s := rfl
theorem exec_endPkt (id : Nat) : exec (.endPkt id) s = execEndPkt id s := rfl
theorem exec_closerPkt (id : Nat) : exec (.closerPkt id) s = execCloserPkt id s := rfl
theorem exec_copyStart (cell : Nat) : exec (.copyStart cell) s = execCopyStart cell s := rfl
theorem exec_copyClaim (cell : Nat) : exec (.copyClaim cell) s = execCopyClaim cell s := rfl
theorem exec_copyPublish (cell : Nat) : exec (.copyPublish cell) s = execCopyPublish cell s := rfl
theorem exec_landingPacket (cell : Nat) : exec (.landingPacket cell) s = execLandingPacket cell s := rfl
theorem exec_launchPlacement (die ctx : Nat) : exec (.launchPlacement die ctx) s = execLaunchPlacement die ctx s := rfl
theorem exec_completionUp (launch grove : Nat) : exec (.completionUp launch grove) s = execCompletionUp launch grove s := rfl
theorem exec_completionDown (launch grove : Nat) : exec (.completionDown launch grove) s = execCompletionDown launch grove s := rfl
theorem exec_completionConfirm (launch grove : Nat) : exec (.completionConfirm launch grove) s = execCompletionConfirm launch grove s := rfl
theorem exec_balancerSample (die : Nat) : exec (.balancerSample die) s = execBalancerSample die s := rfl
theorem exec_balancingInterval (die : Nat) : exec (.balancingInterval die) s = execBalancingInterval die s := rfl
theorem exec_cellRetarget (cell ctx : Nat) : exec (.cellRetarget cell ctx) s = execCellRetarget cell ctx s := rfl
theorem exec_bwaitTimeout (cell th : Nat) : exec (.bwaitTimeout cell th) s = execBwaitTimeout cell th s := rfl
theorem exec_wiredCompletionDelivery (die set : Nat) : exec (.wiredCompletionDelivery die set) s = execWiredCompletionDelivery die set s := rfl
theorem exec_hwbarTimeout (cell th : Nat) : exec (.hwbarTimeout cell th) s = execHwbarTimeout cell th s := rfl
theorem exec_mwaitTimeout (cell th : Nat) : exec (.mwaitTimeout cell th) s = execMwaitTimeout cell th s := rfl
theorem exec_vrecvTimeout (cell : Nat) : exec (.vrecvTimeout cell) s = execVrecvTimeout cell s := rfl
theorem exec_proxyAtomic (id : Nat) : exec (.proxyAtomic id) s = execProxyAtomic id s := rfl
theorem exec_hostAtomicCompletion (die lane : Nat) (timedOut : Bool) : exec (.hostAtomicCompletion die lane timedOut) s = execHostAtomicCompletion die lane timedOut s := rfl
theorem exec_requestLost (id : Nat) : exec (.requestLost id) s = execRequestLost id s := rfl
theorem exec_packetLifetimeExpiry (id : Nat) : exec (.packetLifetimeExpiry id) s = execPacketLifetimeExpiry id s := rfl
theorem exec_rdmaAck (cell : Nat) : exec (.rdmaAck cell) s = execRdmaAck cell s := rfl
theorem exec_sqDoorbell (f : Nat) (t : BitVec 32) : exec (.sqDoorbell f t) s = execSqDoorbell f t s := rfl
theorem exec_hostDescriptorRead (f : Nat) : exec (.hostDescriptorRead f) s = execHostDescriptorRead f s := rfl
theorem exec_cqHeadWrite (f : Nat) (v : BitVec 32) : exec (.cqHeadWrite f v) s = execCqHeadWrite f v s := rfl
theorem exec_partitionReset (f : Nat) : exec (.partitionReset f) s = execPartitionReset f s := rfl
theorem exec_functionLevelReset (f : Nat) : exec (.functionLevelReset f) s = execFunctionLevelReset f s := rfl
theorem exec_msixUnmask (f : Nat) (w : MsixWrite) : exec (.msixUnmask f w) s = execMsixUnmask f w s := rfl
theorem exec_preemptRequest (die ctx : Nat) (pre : Bool) : exec (.preemptRequest die ctx pre) s = execPreemptRequest die ctx pre s := rfl
theorem exec_killFlood (die ctx : Nat) : exec (.killFlood die ctx) s = execKillFlood die ctx s := rfl
theorem exec_killAtCell (cell ctx : Nat) : exec (.killAtCell cell ctx) s = execKillAtCell cell ctx s := rfl
theorem exec_routerSweepEnd (die ctx : Nat) : exec (.routerSweepEnd die ctx) s = execRouterSweepEnd die ctx s := rfl
theorem exec_killDoneReport (cell ctx : Nat) : exec (.killDoneReport cell ctx) s = execKillDoneReport cell ctx s := rfl
theorem exec_reportRingRidxWrite (die ctx : Nat) (v : BitVec 32) : exec (.reportRingRidxWrite die ctx v) s = execReportRingRidxWrite die ctx v s := rfl
theorem exec_releaseRegisterWrite (cell : Nat) (w : Word) : exec (.releaseRegisterWrite cell w) s = execReleaseRegisterWrite cell w s := rfl
theorem exec_stageHoldWrite (die stage : Nat) : exec (.stageHoldWrite die stage) s = execStageHoldWrite die stage s := rfl
theorem exec_groupTableWrite (die idx : Nat) (entry : BitVec 384) : exec (.groupTableWrite die idx entry) s = execGroupTableWrite die idx entry s := rfl
theorem exec_wiredSetWrite (die set : Nat) (w : Word) : exec (.wiredSetWrite die set w) s = execWiredSetWrite die set w s := rfl
theorem exec_gateWrite (grove gate : Nat) (w : Word) : exec (.gateWrite grove gate w) s = execGateWrite grove gate w s := rfl
theorem exec_reductionWindowWrite (n : Nat) (w : Word) : exec (.reductionWindowWrite n w) s = execReductionWindowWrite n w s := rfl
theorem exec_pinnedRegionWrite (grove idx : Nat) (entry : BitVec 128) : exec (.pinnedRegionWrite grove idx entry) s = execPinnedRegionWrite grove idx entry s := rfl
theorem exec_invalidation (ctx : Nat) (va : Word) (level : BitVec 2) : exec (.invalidation ctx va level) s = execInvalidation ctx va level s := rfl
theorem exec_perfSelectorWrite (cell n : Nat) (w : Word) : exec (.perfSelectorWrite cell n w) s = execPerfSelectorWrite cell n w s := rfl
theorem exec_balancerControlWrite (die : Nat) (w : Word) : exec (.balancerControlWrite die w) s = execBalancerControlWrite die w s := rfl
theorem exec_managementRegisterWrite (by_ : Writer) (off : Nat) (w : Word) : exec (.managementRegisterWrite by_ off w) s = execManagementRegisterWrite by_ off w s := rfl
theorem exec_createCmd : exec (.createCmd) s = execCreateCmd s := rfl
theorem exec_grantCmd : exec (.grantCmd) s = execGrantCmd s := rfl
theorem exec_sessionCmd : exec (.sessionCmd) s = execSessionCmd s := rfl
theorem exec_keyServiceReply (accept : Bool) (volumes : List (BitVec 6 × BitVec 512))  (tenantKey : BitVec 256) : exec (.keyServiceReply accept volumes tenantKey) s = execKeyServiceReply accept volumes tenantKey s := rfl
theorem exec_sessionTimeout : exec (.sessionTimeout) s = execSessionTimeout s := rfl
theorem exec_rangeCmd : exec (.rangeCmd) s = execRangeCmd s := rfl
theorem exec_sweepCmd : exec (.sweepCmd) s = execSweepCmd s := rfl
theorem exec_sweepBlock (range : Nat) : exec (.sweepBlock range) s = execSweepBlock range s := rfl
theorem exec_readCmd : exec (.readCmd) s = execReadCmd s := rfl
theorem exec_eraseCmd : exec (.eraseCmd) s = execEraseCmd s := rfl
theorem exec_sleepCmd : exec (.sleepCmd) s = execSleepCmd s := rfl
theorem exec_extendCmd : exec (.extendCmd) s = execExtendCmd s := rfl
theorem exec_mailboxInvalidCommand : exec (.mailboxInvalidCommand) s = execMailboxInvalidCommand s := rfl
theorem exec_wake (accepted : List (BitVec 32)) : exec (.wake accepted) s = execWake accepted s := rfl
theorem exec_coldBoot (first second nivar : Option (BitVec 256)) (config nivarConfig : BitVec 256) : exec (.coldBoot first second nivar config nivarConfig) s = execColdBoot first second nivar config nivarConfig s := rfl
theorem exec_dieTestComplete (die : Nat) (ok : Bool) (digest : BitVec 256) : exec (.dieTestComplete die ok digest) s = execDieTestComplete die ok digest s := rfl
theorem exec_hbmTrainingComplete (die : Nat) (ok : Bool) : exec (.hbmTrainingComplete die ok) s = execHbmTrainingComplete die ok s := rfl
theorem exec_fourBitTestComplete (die : Nat) (ok : Bool) : exec (.fourBitTestComplete die ok) s = execFourBitTestComplete die ok s := rfl
theorem exec_clockThrottle (die : Nat) : exec (.clockThrottle die) s = execClockThrottle die s := rfl
theorem exec_clockRestore (die : Nat) : exec (.clockRestore die) s = execClockRestore die s := rfl
theorem exec_illegalWord : exec (.illegalWord) s = execIllegalWord s := rfl
theorem exec_acknowledgement (id : Nat) : exec (.acknowledgement id) s = execAcknowledgement id s := rfl
theorem exec_planeLoss (plane : Nat) : exec (.planeLoss plane) s = execPlaneLoss plane s := rfl
theorem exec_hostCompletionTimeout (what : HostRead) : exec (.hostCompletionTimeout what) s = execHostCompletionTimeout what s := rfl
theorem exec_queuePairError (cell : Nat) : exec (.queuePairError cell) s = execQueuePairError cell s := rfl
theorem exec_unsupportedRdmaArrival (port : Nat) : exec (.unsupportedRdmaArrival port) s = execUnsupportedRdmaArrival port s := rfl
theorem exec_bringupClockRaise (die : Nat) : exec (.bringupClockRaise die) s = execBringupClockRaise die s := rfl
theorem exec_hostFlushReadComplete (ctx : Nat) : exec (.hostFlushReadComplete ctx) s = execHostFlushReadComplete ctx s := rfl

end Sys2Proof.Machine
end

