-- ==== Sys2Proof/Laws/State.lean ====
section
/-! SUPPORT. What each update of the state leaves: one lemma per field and update, true by `rfl` or by one case split. -/

namespace Sys2Proof.Machine

/-! ## Register files and tables -/

section tables
variable {α : Type} {k : Nat}

@[simp] theorem rget_rset_same (f : RegFile k α) (i : BitVec k) (v : α) : rget (rset f i v) i = v := by
  simp [rget, rset]

theorem rget_rset (f : RegFile k α) (i j : BitVec k) (v : α) : rget (rset f i v) j = if j = i then v else rget f j := by
  unfold rget rset
  rw [Vector.getElem_set]
  by_cases h : j = i
  · subst h; simp
  · have : i.toNat ≠ j.toNat := fun e => h (BitVec.eq_of_toNat_eq e.symm)
    simp [h, this]

@[simp] theorem rset_rget (f : RegFile k α) (i : BitVec k) : rset f i (rget f i) = f := by
  unfold rset rget
  exact Vector.set_getElem_self _

@[simp] theorem rget_rset_ne (f : RegFile k α) {i j : BitVec k} (h : j ≠ i) (v : α) : rget (rset f i v) j = rget f j := by
  rw [rget_rset, if_neg h]

theorem tget_tput (t : Tab α) (i j : Nat) (v d : α) : tget (tput t i v) j d = if j = i then v else tget t j d := by
  induction t with
  | nil =>
    by_cases h : j = i
    · simp [tput, tget, h]
    · have : i ≠ j := fun e => h e.symm
      simp [tput, tget, h, this]
  | cons e r ih =>
    obtain ⟨n, w⟩ := e
    simp only [tput]
    split
    · by_cases h : j = i
      · simp [tget, h]
      · have : i ≠ j := fun e => h e.symm
        simp [tget, h, this]
    · split
      · subst_vars
        by_cases h : j = n
        · simp [tget, h]
        · have : n ≠ j := fun e => h e.symm
          simp [tget, h, this]
      · rename_i h1 h2
        by_cases h : j = i
        · subst h; simp [tget, ih, h2]
        · simp [tget, ih, h]

@[simp] theorem tget_tput_same (t : Tab α) (i : Nat) (v d : α) : tget (tput t i v) i d = v := by simp [tget_tput]

theorem tget_tput_ne (t : Tab α) {i j : Nat} (h : j ≠ i) (v d : α) : tget (tput t i v) j d = tget t j d := by
  rw [tget_tput, if_neg h]

theorem tput_tput (t : Tab α) (i : Nat) (v w : α) : tput (tput t i v) i w = tput t i w := by
  induction t with
  | nil => simp [tput]
  | cons e r ih =>
    obtain ⟨n, u⟩ := e
    by_cases h : i < n
    · simp [tput, h]
    · by_cases h2 : n = i
      · subst h2; simp [tput]
      · simp [tput, h, h2, ih]

theorem rset_rset (f : RegFile k α) (i : BitVec k) (v w : α) : rset (rset f i v) i w = rset f i w := by
  unfold rset
  exact Vector.set_set ..

end tables

/-! ## Cells and threads -/

variable (s : State) (c c' : Nat) (t t' : BitVec 3)

theorem cellAt_putCell (x : Cell) : cellAt (putCell s c x) c' = if c' = c then x else cellAt s c' := tget_tput _ _ _ _ _

@[simp] theorem cellAt_putCell_same (x : Cell) : cellAt (putCell s c x) c = x := by simp [cellAt_putCell]

theorem cellAt_modCell (f : Cell → Cell) : cellAt (modCell s c f) c' = if c' = c then f (cellAt s c) else cellAt s c' :=
  cellAt_putCell s c c' _

@[simp] theorem cellAt_modCell_same (f : Cell → Cell) : cellAt (modCell s c f) c = f (cellAt s c) := by simp [cellAt_modCell]

theorem cellAt_modCell_ne (f : Cell → Cell) (h : c' ≠ c) : cellAt (modCell s c f) c' = cellAt s c' := by
  rw [cellAt_modCell, if_neg h]

theorem thr_putThr (x : Thread) : thr (putThr s c t x) c' t' = if c' = c ∧ t' = t then x else thr s c' t' := by
  unfold thr putThr
  rw [cellAt_modCell]
  by_cases h : c' = c
  · subst h
    simp only [if_true, true_and, rget_rset]
  · simp [h]

theorem thr_modThr (f : Thread → Thread) :
    thr (modThr s c t f) c' t' = if c' = c ∧ t' = t then f (thr s c t) else thr s c' t' := thr_putThr s c c' t t' _

@[simp] theorem thr_modThr_same (f : Thread → Thread) : thr (modThr s c t f) c t = f (thr s c t) := by simp [thr_modThr]

theorem thr_modThr_ne (f : Thread → Thread) (h : ¬(c' = c ∧ t' = t)) : thr (modThr s c t f) c' t' = thr s c' t' := by
  rw [thr_modThr, if_neg h]

theorem modCell_modCell (f g : Cell → Cell) : modCell (modCell s c f) c g = modCell s c (fun x => g (f x)) := by
  have h : cellAt (modCell s c f) c = f (cellAt s c) := cellAt_modCell_same s c f
  unfold modCell at h ⊢
  rw [h]
  unfold putCell
  simp only [tput_tput]

theorem modThr_modThr (f g : Thread → Thread) : modThr (modThr s c t f) c t g = modThr s c t (fun x => g (f x)) := by
  have h : thr (modThr s c t f) c t = f (thr s c t) := thr_modThr_same s c t f
  unfold modThr at h ⊢
  rw [h]
  unfold putThr
  rw [modCell_modCell]
  simp only [rset_rset]

/-- A thread's change leaves everything of its cell but the threads. -/
theorem cellAt_modThr (f : Thread → Thread) : cellAt (modThr s c t f) c' =
    if c' = c then { cellAt s c with threads := rset (cellAt s c).threads t (f (thr s c t)) } else cellAt s c' :=
  cellAt_modCell s c c' _

@[simp] theorem cellAt_modThr_v (f : Thread → Thread) : (cellAt (modThr s c t f) c').v = (cellAt s c').v := by
  rw [cellAt_modThr]; split <;> simp_all
@[simp] theorem cellAt_modThr_t (f : Thread → Thread) : (cellAt (modThr s c t f) c').t = (cellAt s c').t := by
  rw [cellAt_modThr]; split <;> simp_all
@[simp] theorem cellAt_modThr_tcfg (f : Thread → Thread) : (cellAt (modThr s c t f) c').tcfg = (cellAt s c').tcfg := by
  rw [cellAt_modThr]; split <;> simp_all
@[simp] theorem cellAt_modThr_acc (f : Thread → Thread) : (cellAt (modThr s c t f) c').acc = (cellAt s c').acc := by
  rw [cellAt_modThr]; split <;> simp_all
@[simp] theorem cellAt_modThr_efOwner (f : Thread → Thread) : (cellAt (modThr s c t f) c').efOwner = (cellAt s c').efOwner := by
  rw [cellAt_modThr]; split <;> simp_all
@[simp] theorem cellAt_modThr_efCtx (f : Thread → Thread) : (cellAt (modThr s c t f) c').efCtx = (cellAt s c').efCtx := by
  rw [cellAt_modThr]; split <;> simp_all
@[simp] theorem cellAt_modThr_efWait (f : Thread → Thread) : (cellAt (modThr s c t f) c').efWait = (cellAt s c').efWait := by
  rw [cellAt_modThr]; split <;> simp_all
@[simp] theorem cellAt_modThr_efReady (f : Thread → Thread) : (cellAt (modThr s c t f) c').efReady = (cellAt s c').efReady := by
  rw [cellAt_modThr]; split <;> simp_all
@[simp] theorem cellAt_modThr_scrCtx (f : Thread → Thread) : (cellAt (modThr s c t f) c').scrCtx = (cellAt s c').scrCtx := by
  rw [cellAt_modThr]; split <;> simp_all
@[simp] theorem cellAt_modThr_vxq (f : Thread → Thread) : (cellAt (modThr s c t f) c').vxq = (cellAt s c').vxq := by
  rw [cellAt_modThr]; split <;> simp_all
@[simp] theorem cellAt_modThr_vxf (f : Thread → Thread) : (cellAt (modThr s c t f) c').vxf = (cellAt s c').vxf := by
  rw [cellAt_modThr]; split <;> simp_all
@[simp] theorem cellAt_modThr_mxq (f : Thread → Thread) : (cellAt (modThr s c t f) c').mxq = (cellAt s c').mxq := by
  rw [cellAt_modThr]; split <;> simp_all
@[simp] theorem cellAt_modThr_mxf (f : Thread → Thread) : (cellAt (modThr s c t f) c').mxf = (cellAt s c').mxf := by
  rw [cellAt_modThr]; split <;> simp_all
@[simp] theorem cellAt_modThr_cpq (f : Thread → Thread) : (cellAt (modThr s c t f) c').cpq = (cellAt s c').cpq := by
  rw [cellAt_modThr]; split <;> simp_all
@[simp] theorem cellAt_modThr_qWait (f : Thread → Thread) : (cellAt (modThr s c t f) c').qWait = (cellAt s c').qWait := by
  rw [cellAt_modThr]; split <;> simp_all
@[simp] theorem cellAt_modThr_vxPop (f : Thread → Thread) : (cellAt (modThr s c t f) c').vxPop = (cellAt s c').vxPop := by
  rw [cellAt_modThr]; split <;> simp_all
@[simp] theorem cellAt_modThr_mxPop (f : Thread → Thread) : (cellAt (modThr s c t f) c').mxPop = (cellAt s c').mxPop := by
  rw [cellAt_modThr]; split <;> simp_all
@[simp] theorem cellAt_modThr_qFreed (f : Thread → Thread) : (cellAt (modThr s c t f) c').qFreed = (cellAt s c').qFreed := by
  rw [cellAt_modThr]; split <;> simp_all
@[simp] theorem cellAt_modThr_fifo (f : Thread → Thread) : (cellAt (modThr s c t f) c').fifo = (cellAt s c').fifo := by
  rw [cellAt_modThr]; split <;> simp_all
@[simp] theorem cellAt_modThr_jobs (f : Thread → Thread) : (cellAt (modThr s c t f) c').jobs = (cellAt s c').jobs := by
  rw [cellAt_modThr]; split <;> simp_all
@[simp] theorem cellAt_modThr_pos (f : Thread → Thread) : (cellAt (modThr s c t f) c').pos = (cellAt s c').pos := by
  rw [cellAt_modThr]; split <;> simp_all
@[simp] theorem cellAt_modThr_sends (f : Thread → Thread) : (cellAt (modThr s c t f) c').sends = (cellAt s c').sends := by
  rw [cellAt_modThr]; split <;> simp_all
@[simp] theorem cellAt_modThr_recvs (f : Thread → Thread) : (cellAt (modThr s c t f) c').recvs = (cellAt s c').recvs := by
  rw [cellAt_modThr]; split <;> simp_all
@[simp] theorem cellAt_modThr_homes (f : Thread → Thread) : (cellAt (modThr s c t f) c').homes = (cellAt s c').homes := by
  rw [cellAt_modThr]; split <;> simp_all
@[simp] theorem cellAt_modThr_stubs (f : Thread → Thread) : (cellAt (modThr s c t f) c').stubs = (cellAt s c').stubs := by
  rw [cellAt_modThr]; split <;> simp_all
@[simp] theorem cellAt_modThr_msgCtr (f : Thread → Thread) : (cellAt (modThr s c t f) c').msgCtr = (cellAt s c').msgCtr := by
  rw [cellAt_modThr]; split <;> simp_all
@[simp] theorem cellAt_modThr_watch (f : Thread → Thread) : (cellAt (modThr s c t f) c').watch = (cellAt s c').watch := by
  rw [cellAt_modThr]; split <;> simp_all
@[simp] theorem cellAt_modThr_slots (f : Thread → Thread) : (cellAt (modThr s c t f) c').slots = (cellAt s c').slots := by
  rw [cellAt_modThr]; split <;> simp_all
@[simp] theorem cellAt_modThr_rr (f : Thread → Thread) : (cellAt (modThr s c t f) c').rr = (cellAt s c').rr := by
  rw [cellAt_modThr]; split <;> simp_all
@[simp] theorem cellAt_modThr_issuedAt (f : Thread → Thread) : (cellAt (modThr s c t f) c').issuedAt = (cellAt s c').issuedAt := by
  rw [cellAt_modThr]; split <;> simp_all
@[simp] theorem cellAt_modThr_perfSel (f : Thread → Thread) : (cellAt (modThr s c t f) c').perfSel = (cellAt s c').perfSel := by
  rw [cellAt_modThr]; split <;> simp_all
@[simp] theorem cellAt_modThr_perfCnt (f : Thread → Thread) : (cellAt (modThr s c t f) c').perfCnt = (cellAt s c').perfCnt := by
  rw [cellAt_modThr]; split <;> simp_all
@[simp] theorem cellAt_modThr_reports (f : Thread → Thread) : (cellAt (modThr s c t f) c').reports = (cellAt s c').reports := by
  rw [cellAt_modThr]; split <;> simp_all
@[simp] theorem cellAt_modThr_dispatched (f : Thread → Thread) : (cellAt (modThr s c t f) c').dispatched = (cellAt s c').dispatched := by
  rw [cellAt_modThr]; split <;> simp_all

/-! ## Fields of the state that an update of one part leaves -/

@[simp] theorem putCell_cyc (x : Cell) : (putCell s c x).cyc = s.cyc := rfl
@[simp] theorem putCell_mem (x : Cell) : (putCell s c x).mem = s.mem := rfl
@[simp] theorem putCell_groves (x : Cell) : (putCell s c x).groves = s.groves := rfl
@[simp] theorem putCell_dies (x : Cell) : (putCell s c x).dies = s.dies := rfl
@[simp] theorem putCell_parts (x : Cell) : (putCell s c x).parts = s.parts := rfl
@[simp] theorem putCell_domain (x : Cell) : (putCell s c x).domain = s.domain := rfl
@[simp] theorem putCell_inbound (x : Cell) : (putCell s c x).inbound = s.inbound := rfl
@[simp] theorem putCell_windows (x : Cell) : (putCell s c x).windows = s.windows := rfl
@[simp] theorem putCell_windowWrites (x : Cell) : (putCell s c x).windowWrites = s.windowWrites := rfl
@[simp] theorem putCell_pinnedWrites (x : Cell) : (putCell s c x).pinnedWrites = s.pinnedWrites := rfl
@[simp] theorem putCell_invalidations (x : Cell) : (putCell s c x).invalidations = s.invalidations := rfl
@[simp] theorem putCell_mailbox (x : Cell) : (putCell s c x).mailbox = s.mailbox := rfl
@[simp] theorem putCell_secWords (x : Cell) : (putCell s c x).secWords = s.secWords := rfl
@[simp] theorem putCell_keys (x : Cell) : (putCell s c x).keys = s.keys := rfl
@[simp] theorem putCell_ranges (x : Cell) : (putCell s c x).ranges = s.ranges := rfl
@[simp] theorem putCell_measure (x : Cell) : (putCell s c x).measure = s.measure := rfl
@[simp] theorem putCell_nonce (x : Cell) : (putCell s c x).nonce = s.nonce := rfl
@[simp] theorem putCell_innerMacs (x : Cell) : (putCell s c x).innerMacs = s.innerMacs := rfl
@[simp] theorem putCell_cap (x : Cell) : (putCell s c x).cap = s.cap := rfl
@[simp] theorem putCell_launches (x : Cell) : (putCell s c x).launches = s.launches := rfl
@[simp] theorem putCell_nextLaunch (x : Cell) : (putCell s c x).nextLaunch = s.nextLaunch := rfl
@[simp] theorem putCell_reqs (x : Cell) : (putCell s c x).reqs = s.reqs := rfl
@[simp] theorem putCell_nextReq (x : Cell) : (putCell s c x).nextReq = s.nextReq := rfl
@[simp] theorem putCell_flights (x : Cell) : (putCell s c x).flights = s.flights := rfl
@[simp] theorem putCell_nextFlight (x : Cell) : (putCell s c x).nextFlight = s.nextFlight := rfl
@[simp] theorem putCell_nextOp (x : Cell) : (putCell s c x).nextOp = s.nextOp := rfl
@[simp] theorem putCell_nextKick (x : Cell) : (putCell s c x).nextKick = s.nextKick := rfl
@[simp] theorem putCell_asleep (x : Cell) : (putCell s c x).asleep = s.asleep := rfl
@[simp] theorem putCell_sqNext (x : Cell) : (putCell s c x).sqNext = s.sqNext := rfl
@[simp] theorem putCell_kills (x : Cell) : (putCell s c x).kills = s.kills := rfl
@[simp] theorem putCell_claims (x : Cell) : (putCell s c x).claims = s.claims := rfl
@[simp] theorem putCell_fresh (x : Cell) : (putCell s c x).fresh = s.fresh := rfl
@[simp] theorem putCell_cur (x : Cell) : (putCell s c x).cur = s.cur := rfl
@[simp] theorem putCell_todo (x : Cell) : (putCell s c x).todo = s.todo := rfl
@[simp] theorem putCell_reqErrors (x : Cell) : (putCell s c x).reqErrors = s.reqErrors := rfl
@[simp] theorem putCell_copyErrors (x : Cell) : (putCell s c x).copyErrors = s.copyErrors := rfl
@[simp] theorem putCell_opErrors (x : Cell) : (putCell s c x).opErrors = s.opErrors := rfl
@[simp] theorem putCell_step3 (x : Cell) : (putCell s c x).step3 = s.step3 := rfl
@[simp] theorem putCell_domainSet (x : Cell) : (putCell s c x).domainSet = s.domainSet := rfl
@[simp] theorem putCell_agenda (x : Cell) : (putCell s c x).agenda = s.agenda := rfl

@[simp] theorem modCell_cyc (f : Cell → Cell) : (modCell s c f).cyc = s.cyc := rfl
@[simp] theorem modCell_mem (f : Cell → Cell) : (modCell s c f).mem = s.mem := rfl
@[simp] theorem modCell_groves (f : Cell → Cell) : (modCell s c f).groves = s.groves := rfl
@[simp] theorem modCell_dies (f : Cell → Cell) : (modCell s c f).dies = s.dies := rfl
@[simp] theorem modCell_parts (f : Cell → Cell) : (modCell s c f).parts = s.parts := rfl
@[simp] theorem modCell_domain (f : Cell → Cell) : (modCell s c f).domain = s.domain := rfl
@[simp] theorem modCell_inbound (f : Cell → Cell) : (modCell s c f).inbound = s.inbound := rfl
@[simp] theorem modCell_windows (f : Cell → Cell) : (modCell s c f).windows = s.windows := rfl
@[simp] theorem modCell_windowWrites (f : Cell → Cell) : (modCell s c f).windowWrites = s.windowWrites := rfl
@[simp] theorem modCell_pinnedWrites (f : Cell → Cell) : (modCell s c f).pinnedWrites = s.pinnedWrites := rfl
@[simp] theorem modCell_invalidations (f : Cell → Cell) : (modCell s c f).invalidations = s.invalidations := rfl
@[simp] theorem modCell_mailbox (f : Cell → Cell) : (modCell s c f).mailbox = s.mailbox := rfl
@[simp] theorem modCell_secWords (f : Cell → Cell) : (modCell s c f).secWords = s.secWords := rfl
@[simp] theorem modCell_keys (f : Cell → Cell) : (modCell s c f).keys = s.keys := rfl
@[simp] theorem modCell_ranges (f : Cell → Cell) : (modCell s c f).ranges = s.ranges := rfl
@[simp] theorem modCell_measure (f : Cell → Cell) : (modCell s c f).measure = s.measure := rfl
@[simp] theorem modCell_nonce (f : Cell → Cell) : (modCell s c f).nonce = s.nonce := rfl
@[simp] theorem modCell_innerMacs (f : Cell → Cell) : (modCell s c f).innerMacs = s.innerMacs := rfl
@[simp] theorem modCell_cap (f : Cell → Cell) : (modCell s c f).cap = s.cap := rfl
@[simp] theorem modCell_launches (f : Cell → Cell) : (modCell s c f).launches = s.launches := rfl
@[simp] theorem modCell_nextLaunch (f : Cell → Cell) : (modCell s c f).nextLaunch = s.nextLaunch := rfl
@[simp] theorem modCell_reqs (f : Cell → Cell) : (modCell s c f).reqs = s.reqs := rfl
@[simp] theorem modCell_nextReq (f : Cell → Cell) : (modCell s c f).nextReq = s.nextReq := rfl
@[simp] theorem modCell_flights (f : Cell → Cell) : (modCell s c f).flights = s.flights := rfl
@[simp] theorem modCell_nextFlight (f : Cell → Cell) : (modCell s c f).nextFlight = s.nextFlight := rfl
@[simp] theorem modCell_nextOp (f : Cell → Cell) : (modCell s c f).nextOp = s.nextOp := rfl
@[simp] theorem modCell_nextKick (f : Cell → Cell) : (modCell s c f).nextKick = s.nextKick := rfl
@[simp] theorem modCell_asleep (f : Cell → Cell) : (modCell s c f).asleep = s.asleep := rfl
@[simp] theorem modCell_sqNext (f : Cell → Cell) : (modCell s c f).sqNext = s.sqNext := rfl
@[simp] theorem modCell_kills (f : Cell → Cell) : (modCell s c f).kills = s.kills := rfl
@[simp] theorem modCell_claims (f : Cell → Cell) : (modCell s c f).claims = s.claims := rfl
@[simp] theorem modCell_fresh (f : Cell → Cell) : (modCell s c f).fresh = s.fresh := rfl
@[simp] theorem modCell_cur (f : Cell → Cell) : (modCell s c f).cur = s.cur := rfl
@[simp] theorem modCell_todo (f : Cell → Cell) : (modCell s c f).todo = s.todo := rfl
@[simp] theorem modCell_reqErrors (f : Cell → Cell) : (modCell s c f).reqErrors = s.reqErrors := rfl
@[simp] theorem modCell_copyErrors (f : Cell → Cell) : (modCell s c f).copyErrors = s.copyErrors := rfl
@[simp] theorem modCell_opErrors (f : Cell → Cell) : (modCell s c f).opErrors = s.opErrors := rfl
@[simp] theorem modCell_step3 (f : Cell → Cell) : (modCell s c f).step3 = s.step3 := rfl
@[simp] theorem modCell_domainSet (f : Cell → Cell) : (modCell s c f).domainSet = s.domainSet := rfl
@[simp] theorem modCell_agenda (f : Cell → Cell) : (modCell s c f).agenda = s.agenda := rfl

@[simp] theorem modThr_cyc (f : Thread → Thread) : (modThr s c t f).cyc = s.cyc := rfl
@[simp] theorem modThr_mem (f : Thread → Thread) : (modThr s c t f).mem = s.mem := rfl
@[simp] theorem modThr_groves (f : Thread → Thread) : (modThr s c t f).groves = s.groves := rfl
@[simp] theorem modThr_dies (f : Thread → Thread) : (modThr s c t f).dies = s.dies := rfl
@[simp] theorem modThr_parts (f : Thread → Thread) : (modThr s c t f).parts = s.parts := rfl
@[simp] theorem modThr_domain (f : Thread → Thread) : (modThr s c t f).domain = s.domain := rfl
@[simp] theorem modThr_inbound (f : Thread → Thread) : (modThr s c t f).inbound = s.inbound := rfl
@[simp] theorem modThr_windows (f : Thread → Thread) : (modThr s c t f).windows = s.windows := rfl
@[simp] theorem modThr_windowWrites (f : Thread → Thread) : (modThr s c t f).windowWrites = s.windowWrites := rfl
@[simp] theorem modThr_pinnedWrites (f : Thread → Thread) : (modThr s c t f).pinnedWrites = s.pinnedWrites := rfl
@[simp] theorem modThr_invalidations (f : Thread → Thread) : (modThr s c t f).invalidations = s.invalidations := rfl
@[simp] theorem modThr_mailbox (f : Thread → Thread) : (modThr s c t f).mailbox = s.mailbox := rfl
@[simp] theorem modThr_secWords (f : Thread → Thread) : (modThr s c t f).secWords = s.secWords := rfl
@[simp] theorem modThr_keys (f : Thread → Thread) : (modThr s c t f).keys = s.keys := rfl
@[simp] theorem modThr_ranges (f : Thread → Thread) : (modThr s c t f).ranges = s.ranges := rfl
@[simp] theorem modThr_measure (f : Thread → Thread) : (modThr s c t f).measure = s.measure := rfl
@[simp] theorem modThr_nonce (f : Thread → Thread) : (modThr s c t f).nonce = s.nonce := rfl
@[simp] theorem modThr_innerMacs (f : Thread → Thread) : (modThr s c t f).innerMacs = s.innerMacs := rfl
@[simp] theorem modThr_cap (f : Thread → Thread) : (modThr s c t f).cap = s.cap := rfl
@[simp] theorem modThr_launches (f : Thread → Thread) : (modThr s c t f).launches = s.launches := rfl
@[simp] theorem modThr_nextLaunch (f : Thread → Thread) : (modThr s c t f).nextLaunch = s.nextLaunch := rfl
@[simp] theorem modThr_reqs (f : Thread → Thread) : (modThr s c t f).reqs = s.reqs := rfl
@[simp] theorem modThr_nextReq (f : Thread → Thread) : (modThr s c t f).nextReq = s.nextReq := rfl
@[simp] theorem modThr_flights (f : Thread → Thread) : (modThr s c t f).flights = s.flights := rfl
@[simp] theorem modThr_nextFlight (f : Thread → Thread) : (modThr s c t f).nextFlight = s.nextFlight := rfl
@[simp] theorem modThr_nextOp (f : Thread → Thread) : (modThr s c t f).nextOp = s.nextOp := rfl
@[simp] theorem modThr_nextKick (f : Thread → Thread) : (modThr s c t f).nextKick = s.nextKick := rfl
@[simp] theorem modThr_asleep (f : Thread → Thread) : (modThr s c t f).asleep = s.asleep := rfl
@[simp] theorem modThr_sqNext (f : Thread → Thread) : (modThr s c t f).sqNext = s.sqNext := rfl
@[simp] theorem modThr_kills (f : Thread → Thread) : (modThr s c t f).kills = s.kills := rfl
@[simp] theorem modThr_claims (f : Thread → Thread) : (modThr s c t f).claims = s.claims := rfl
@[simp] theorem modThr_fresh (f : Thread → Thread) : (modThr s c t f).fresh = s.fresh := rfl
@[simp] theorem modThr_cur (f : Thread → Thread) : (modThr s c t f).cur = s.cur := rfl
@[simp] theorem modThr_todo (f : Thread → Thread) : (modThr s c t f).todo = s.todo := rfl
@[simp] theorem modThr_reqErrors (f : Thread → Thread) : (modThr s c t f).reqErrors = s.reqErrors := rfl
@[simp] theorem modThr_copyErrors (f : Thread → Thread) : (modThr s c t f).copyErrors = s.copyErrors := rfl
@[simp] theorem modThr_opErrors (f : Thread → Thread) : (modThr s c t f).opErrors = s.opErrors := rfl
@[simp] theorem modThr_step3 (f : Thread → Thread) : (modThr s c t f).step3 = s.step3 := rfl
@[simp] theorem modThr_domainSet (f : Thread → Thread) : (modThr s c t f).domainSet = s.domainSet := rfl
@[simp] theorem modThr_agenda (f : Thread → Thread) : (modThr s c t f).agenda = s.agenda := rfl

@[simp] theorem modPos_cyc (x : Nat) (f : Position → Position) : (modPos s c x f).cyc = s.cyc := rfl
@[simp] theorem modPos_mem (x : Nat) (f : Position → Position) : (modPos s c x f).mem = s.mem := rfl
@[simp] theorem modPos_groves (x : Nat) (f : Position → Position) : (modPos s c x f).groves = s.groves := rfl
@[simp] theorem modPos_dies (x : Nat) (f : Position → Position) : (modPos s c x f).dies = s.dies := rfl
@[simp] theorem modPos_parts (x : Nat) (f : Position → Position) : (modPos s c x f).parts = s.parts := rfl
@[simp] theorem modPos_domain (x : Nat) (f : Position → Position) : (modPos s c x f).domain = s.domain := rfl
@[simp] theorem modPos_inbound (x : Nat) (f : Position → Position) : (modPos s c x f).inbound = s.inbound := rfl
@[simp] theorem modPos_windows (x : Nat) (f : Position → Position) : (modPos s c x f).windows = s.windows := rfl
@[simp] theorem modPos_windowWrites (x : Nat) (f : Position → Position) : (modPos s c x f).windowWrites = s.windowWrites := rfl
@[simp] theorem modPos_pinnedWrites (x : Nat) (f : Position → Position) : (modPos s c x f).pinnedWrites = s.pinnedWrites := rfl
@[simp] theorem modPos_invalidations (x : Nat) (f : Position → Position) : (modPos s c x f).invalidations = s.invalidations := rfl
@[simp] theorem modPos_mailbox (x : Nat) (f : Position → Position) : (modPos s c x f).mailbox = s.mailbox := rfl
@[simp] theorem modPos_secWords (x : Nat) (f : Position → Position) : (modPos s c x f).secWords = s.secWords := rfl
@[simp] theorem modPos_keys (x : Nat) (f : Position → Position) : (modPos s c x f).keys = s.keys := rfl
@[simp] theorem modPos_ranges (x : Nat) (f : Position → Position) : (modPos s c x f).ranges = s.ranges := rfl
@[simp] theorem modPos_measure (x : Nat) (f : Position → Position) : (modPos s c x f).measure = s.measure := rfl
@[simp] theorem modPos_nonce (x : Nat) (f : Position → Position) : (modPos s c x f).nonce = s.nonce := rfl
@[simp] theorem modPos_innerMacs (x : Nat) (f : Position → Position) : (modPos s c x f).innerMacs = s.innerMacs := rfl
@[simp] theorem modPos_cap (x : Nat) (f : Position → Position) : (modPos s c x f).cap = s.cap := rfl
@[simp] theorem modPos_launches (x : Nat) (f : Position → Position) : (modPos s c x f).launches = s.launches := rfl
@[simp] theorem modPos_nextLaunch (x : Nat) (f : Position → Position) : (modPos s c x f).nextLaunch = s.nextLaunch := rfl
@[simp] theorem modPos_reqs (x : Nat) (f : Position → Position) : (modPos s c x f).reqs = s.reqs := rfl
@[simp] theorem modPos_nextReq (x : Nat) (f : Position → Position) : (modPos s c x f).nextReq = s.nextReq := rfl
@[simp] theorem modPos_flights (x : Nat) (f : Position → Position) : (modPos s c x f).flights = s.flights := rfl
@[simp] theorem modPos_nextFlight (x : Nat) (f : Position → Position) : (modPos s c x f).nextFlight = s.nextFlight := rfl
@[simp] theorem modPos_nextOp (x : Nat) (f : Position → Position) : (modPos s c x f).nextOp = s.nextOp := rfl
@[simp] theorem modPos_nextKick (x : Nat) (f : Position → Position) : (modPos s c x f).nextKick = s.nextKick := rfl
@[simp] theorem modPos_asleep (x : Nat) (f : Position → Position) : (modPos s c x f).asleep = s.asleep := rfl
@[simp] theorem modPos_sqNext (x : Nat) (f : Position → Position) : (modPos s c x f).sqNext = s.sqNext := rfl
@[simp] theorem modPos_kills (x : Nat) (f : Position → Position) : (modPos s c x f).kills = s.kills := rfl
@[simp] theorem modPos_claims (x : Nat) (f : Position → Position) : (modPos s c x f).claims = s.claims := rfl
@[simp] theorem modPos_fresh (x : Nat) (f : Position → Position) : (modPos s c x f).fresh = s.fresh := rfl
@[simp] theorem modPos_cur (x : Nat) (f : Position → Position) : (modPos s c x f).cur = s.cur := rfl
@[simp] theorem modPos_todo (x : Nat) (f : Position → Position) : (modPos s c x f).todo = s.todo := rfl
@[simp] theorem modPos_reqErrors (x : Nat) (f : Position → Position) : (modPos s c x f).reqErrors = s.reqErrors := rfl
@[simp] theorem modPos_copyErrors (x : Nat) (f : Position → Position) : (modPos s c x f).copyErrors = s.copyErrors := rfl
@[simp] theorem modPos_opErrors (x : Nat) (f : Position → Position) : (modPos s c x f).opErrors = s.opErrors := rfl
@[simp] theorem modPos_step3 (x : Nat) (f : Position → Position) : (modPos s c x f).step3 = s.step3 := rfl
@[simp] theorem modPos_domainSet (x : Nat) (f : Position → Position) : (modPos s c x f).domainSet = s.domainSet := rfl
@[simp] theorem modPos_agenda (x : Nat) (f : Position → Position) : (modPos s c x f).agenda = s.agenda := rfl

@[simp] theorem modGrove_cyc (g : Nat) (f : Grove → Grove) : (modGrove s g f).cyc = s.cyc := rfl
@[simp] theorem modGrove_mem (g : Nat) (f : Grove → Grove) : (modGrove s g f).mem = s.mem := rfl
@[simp] theorem modGrove_cells (g : Nat) (f : Grove → Grove) : (modGrove s g f).cells = s.cells := rfl
@[simp] theorem modGrove_dies (g : Nat) (f : Grove → Grove) : (modGrove s g f).dies = s.dies := rfl
@[simp] theorem modGrove_parts (g : Nat) (f : Grove → Grove) : (modGrove s g f).parts = s.parts := rfl
@[simp] theorem modGrove_domain (g : Nat) (f : Grove → Grove) : (modGrove s g f).domain = s.domain := rfl
@[simp] theorem modGrove_inbound (g : Nat) (f : Grove → Grove) : (modGrove s g f).inbound = s.inbound := rfl
@[simp] theorem modGrove_windows (g : Nat) (f : Grove → Grove) : (modGrove s g f).windows = s.windows := rfl
@[simp] theorem modGrove_windowWrites (g : Nat) (f : Grove → Grove) : (modGrove s g f).windowWrites = s.windowWrites := rfl
@[simp] theorem modGrove_pinnedWrites (g : Nat) (f : Grove → Grove) : (modGrove s g f).pinnedWrites = s.pinnedWrites := rfl
@[simp] theorem modGrove_invalidations (g : Nat) (f : Grove → Grove) : (modGrove s g f).invalidations = s.invalidations := rfl
@[simp] theorem modGrove_mailbox (g : Nat) (f : Grove → Grove) : (modGrove s g f).mailbox = s.mailbox := rfl
@[simp] theorem modGrove_secWords (g : Nat) (f : Grove → Grove) : (modGrove s g f).secWords = s.secWords := rfl
@[simp] theorem modGrove_keys (g : Nat) (f : Grove → Grove) : (modGrove s g f).keys = s.keys := rfl
@[simp] theorem modGrove_ranges (g : Nat) (f : Grove → Grove) : (modGrove s g f).ranges = s.ranges := rfl
@[simp] theorem modGrove_measure (g : Nat) (f : Grove → Grove) : (modGrove s g f).measure = s.measure := rfl
@[simp] theorem modGrove_nonce (g : Nat) (f : Grove → Grove) : (modGrove s g f).nonce = s.nonce := rfl
@[simp] theorem modGrove_innerMacs (g : Nat) (f : Grove → Grove) : (modGrove s g f).innerMacs = s.innerMacs := rfl
@[simp] theorem modGrove_cap (g : Nat) (f : Grove → Grove) : (modGrove s g f).cap = s.cap := rfl
@[simp] theorem modGrove_launches (g : Nat) (f : Grove → Grove) : (modGrove s g f).launches = s.launches := rfl
@[simp] theorem modGrove_nextLaunch (g : Nat) (f : Grove → Grove) : (modGrove s g f).nextLaunch = s.nextLaunch := rfl
@[simp] theorem modGrove_reqs (g : Nat) (f : Grove → Grove) : (modGrove s g f).reqs = s.reqs := rfl
@[simp] theorem modGrove_nextReq (g : Nat) (f : Grove → Grove) : (modGrove s g f).nextReq = s.nextReq := rfl
@[simp] theorem modGrove_flights (g : Nat) (f : Grove → Grove) : (modGrove s g f).flights = s.flights := rfl
@[simp] theorem modGrove_nextFlight (g : Nat) (f : Grove → Grove) : (modGrove s g f).nextFlight = s.nextFlight := rfl
@[simp] theorem modGrove_nextOp (g : Nat) (f : Grove → Grove) : (modGrove s g f).nextOp = s.nextOp := rfl
@[simp] theorem modGrove_nextKick (g : Nat) (f : Grove → Grove) : (modGrove s g f).nextKick = s.nextKick := rfl
@[simp] theorem modGrove_asleep (g : Nat) (f : Grove → Grove) : (modGrove s g f).asleep = s.asleep := rfl
@[simp] theorem modGrove_sqNext (g : Nat) (f : Grove → Grove) : (modGrove s g f).sqNext = s.sqNext := rfl
@[simp] theorem modGrove_kills (g : Nat) (f : Grove → Grove) : (modGrove s g f).kills = s.kills := rfl
@[simp] theorem modGrove_claims (g : Nat) (f : Grove → Grove) : (modGrove s g f).claims = s.claims := rfl
@[simp] theorem modGrove_fresh (g : Nat) (f : Grove → Grove) : (modGrove s g f).fresh = s.fresh := rfl
@[simp] theorem modGrove_cur (g : Nat) (f : Grove → Grove) : (modGrove s g f).cur = s.cur := rfl
@[simp] theorem modGrove_todo (g : Nat) (f : Grove → Grove) : (modGrove s g f).todo = s.todo := rfl
@[simp] theorem modGrove_reqErrors (g : Nat) (f : Grove → Grove) : (modGrove s g f).reqErrors = s.reqErrors := rfl
@[simp] theorem modGrove_copyErrors (g : Nat) (f : Grove → Grove) : (modGrove s g f).copyErrors = s.copyErrors := rfl
@[simp] theorem modGrove_opErrors (g : Nat) (f : Grove → Grove) : (modGrove s g f).opErrors = s.opErrors := rfl
@[simp] theorem modGrove_step3 (g : Nat) (f : Grove → Grove) : (modGrove s g f).step3 = s.step3 := rfl
@[simp] theorem modGrove_domainSet (g : Nat) (f : Grove → Grove) : (modGrove s g f).domainSet = s.domainSet := rfl
@[simp] theorem modGrove_agenda (g : Nat) (f : Grove → Grove) : (modGrove s g f).agenda = s.agenda := rfl

@[simp] theorem modDie_cyc (d : Nat) (f : Die → Die) : (modDie s d f).cyc = s.cyc := rfl
@[simp] theorem modDie_mem (d : Nat) (f : Die → Die) : (modDie s d f).mem = s.mem := rfl
@[simp] theorem modDie_cells (d : Nat) (f : Die → Die) : (modDie s d f).cells = s.cells := rfl
@[simp] theorem modDie_groves (d : Nat) (f : Die → Die) : (modDie s d f).groves = s.groves := rfl
@[simp] theorem modDie_parts (d : Nat) (f : Die → Die) : (modDie s d f).parts = s.parts := rfl
@[simp] theorem modDie_domain (d : Nat) (f : Die → Die) : (modDie s d f).domain = s.domain := rfl
@[simp] theorem modDie_inbound (d : Nat) (f : Die → Die) : (modDie s d f).inbound = s.inbound := rfl
@[simp] theorem modDie_windows (d : Nat) (f : Die → Die) : (modDie s d f).windows = s.windows := rfl
@[simp] theorem modDie_windowWrites (d : Nat) (f : Die → Die) : (modDie s d f).windowWrites = s.windowWrites := rfl
@[simp] theorem modDie_pinnedWrites (d : Nat) (f : Die → Die) : (modDie s d f).pinnedWrites = s.pinnedWrites := rfl
@[simp] theorem modDie_invalidations (d : Nat) (f : Die → Die) : (modDie s d f).invalidations = s.invalidations := rfl
@[simp] theorem modDie_mailbox (d : Nat) (f : Die → Die) : (modDie s d f).mailbox = s.mailbox := rfl
@[simp] theorem modDie_secWords (d : Nat) (f : Die → Die) : (modDie s d f).secWords = s.secWords := rfl
@[simp] theorem modDie_keys (d : Nat) (f : Die → Die) : (modDie s d f).keys = s.keys := rfl
@[simp] theorem modDie_ranges (d : Nat) (f : Die → Die) : (modDie s d f).ranges = s.ranges := rfl
@[simp] theorem modDie_measure (d : Nat) (f : Die → Die) : (modDie s d f).measure = s.measure := rfl
@[simp] theorem modDie_nonce (d : Nat) (f : Die → Die) : (modDie s d f).nonce = s.nonce := rfl
@[simp] theorem modDie_innerMacs (d : Nat) (f : Die → Die) : (modDie s d f).innerMacs = s.innerMacs := rfl
@[simp] theorem modDie_cap (d : Nat) (f : Die → Die) : (modDie s d f).cap = s.cap := rfl
@[simp] theorem modDie_launches (d : Nat) (f : Die → Die) : (modDie s d f).launches = s.launches := rfl
@[simp] theorem modDie_nextLaunch (d : Nat) (f : Die → Die) : (modDie s d f).nextLaunch = s.nextLaunch := rfl
@[simp] theorem modDie_reqs (d : Nat) (f : Die → Die) : (modDie s d f).reqs = s.reqs := rfl
@[simp] theorem modDie_nextReq (d : Nat) (f : Die → Die) : (modDie s d f).nextReq = s.nextReq := rfl
@[simp] theorem modDie_flights (d : Nat) (f : Die → Die) : (modDie s d f).flights = s.flights := rfl
@[simp] theorem modDie_nextFlight (d : Nat) (f : Die → Die) : (modDie s d f).nextFlight = s.nextFlight := rfl
@[simp] theorem modDie_nextOp (d : Nat) (f : Die → Die) : (modDie s d f).nextOp = s.nextOp := rfl
@[simp] theorem modDie_nextKick (d : Nat) (f : Die → Die) : (modDie s d f).nextKick = s.nextKick := rfl
@[simp] theorem modDie_asleep (d : Nat) (f : Die → Die) : (modDie s d f).asleep = s.asleep := rfl
@[simp] theorem modDie_sqNext (d : Nat) (f : Die → Die) : (modDie s d f).sqNext = s.sqNext := rfl
@[simp] theorem modDie_kills (d : Nat) (f : Die → Die) : (modDie s d f).kills = s.kills := rfl
@[simp] theorem modDie_claims (d : Nat) (f : Die → Die) : (modDie s d f).claims = s.claims := rfl
@[simp] theorem modDie_fresh (d : Nat) (f : Die → Die) : (modDie s d f).fresh = s.fresh := rfl
@[simp] theorem modDie_cur (d : Nat) (f : Die → Die) : (modDie s d f).cur = s.cur := rfl
@[simp] theorem modDie_todo (d : Nat) (f : Die → Die) : (modDie s d f).todo = s.todo := rfl
@[simp] theorem modDie_reqErrors (d : Nat) (f : Die → Die) : (modDie s d f).reqErrors = s.reqErrors := rfl
@[simp] theorem modDie_copyErrors (d : Nat) (f : Die → Die) : (modDie s d f).copyErrors = s.copyErrors := rfl
@[simp] theorem modDie_opErrors (d : Nat) (f : Die → Die) : (modDie s d f).opErrors = s.opErrors := rfl
@[simp] theorem modDie_step3 (d : Nat) (f : Die → Die) : (modDie s d f).step3 = s.step3 := rfl
@[simp] theorem modDie_domainSet (d : Nat) (f : Die → Die) : (modDie s d f).domainSet = s.domainSet := rfl
@[simp] theorem modDie_agenda (d : Nat) (f : Die → Die) : (modDie s d f).agenda = s.agenda := rfl

@[simp] theorem sendPkt_cyc (d : Nat) (p : Packet) : (sendPkt s d p).cyc = s.cyc := rfl
@[simp] theorem sendPkt_mem (d : Nat) (p : Packet) : (sendPkt s d p).mem = s.mem := rfl
@[simp] theorem sendPkt_cells (d : Nat) (p : Packet) : (sendPkt s d p).cells = s.cells := rfl
@[simp] theorem sendPkt_groves (d : Nat) (p : Packet) : (sendPkt s d p).groves = s.groves := rfl
@[simp] theorem sendPkt_dies (d : Nat) (p : Packet) : (sendPkt s d p).dies = s.dies := rfl
@[simp] theorem sendPkt_parts (d : Nat) (p : Packet) : (sendPkt s d p).parts = s.parts := rfl
@[simp] theorem sendPkt_domain (d : Nat) (p : Packet) : (sendPkt s d p).domain = s.domain := rfl
@[simp] theorem sendPkt_inbound (d : Nat) (p : Packet) : (sendPkt s d p).inbound = s.inbound := rfl
@[simp] theorem sendPkt_windows (d : Nat) (p : Packet) : (sendPkt s d p).windows = s.windows := rfl
@[simp] theorem sendPkt_windowWrites (d : Nat) (p : Packet) : (sendPkt s d p).windowWrites = s.windowWrites := rfl
@[simp] theorem sendPkt_pinnedWrites (d : Nat) (p : Packet) : (sendPkt s d p).pinnedWrites = s.pinnedWrites := rfl
@[simp] theorem sendPkt_invalidations (d : Nat) (p : Packet) : (sendPkt s d p).invalidations = s.invalidations := rfl
@[simp] theorem sendPkt_mailbox (d : Nat) (p : Packet) : (sendPkt s d p).mailbox = s.mailbox := rfl
@[simp] theorem sendPkt_secWords (d : Nat) (p : Packet) : (sendPkt s d p).secWords = s.secWords := rfl
@[simp] theorem sendPkt_keys (d : Nat) (p : Packet) : (sendPkt s d p).keys = s.keys := rfl
@[simp] theorem sendPkt_ranges (d : Nat) (p : Packet) : (sendPkt s d p).ranges = s.ranges := rfl
@[simp] theorem sendPkt_measure (d : Nat) (p : Packet) : (sendPkt s d p).measure = s.measure := rfl
@[simp] theorem sendPkt_nonce (d : Nat) (p : Packet) : (sendPkt s d p).nonce = s.nonce := rfl
@[simp] theorem sendPkt_innerMacs (d : Nat) (p : Packet) : (sendPkt s d p).innerMacs = s.innerMacs := rfl
@[simp] theorem sendPkt_cap (d : Nat) (p : Packet) : (sendPkt s d p).cap = s.cap := rfl
@[simp] theorem sendPkt_launches (d : Nat) (p : Packet) : (sendPkt s d p).launches = s.launches := rfl
@[simp] theorem sendPkt_nextLaunch (d : Nat) (p : Packet) : (sendPkt s d p).nextLaunch = s.nextLaunch := rfl
@[simp] theorem sendPkt_reqs (d : Nat) (p : Packet) : (sendPkt s d p).reqs = s.reqs := rfl
@[simp] theorem sendPkt_nextReq (d : Nat) (p : Packet) : (sendPkt s d p).nextReq = s.nextReq := rfl
@[simp] theorem sendPkt_nextOp (d : Nat) (p : Packet) : (sendPkt s d p).nextOp = s.nextOp := rfl
@[simp] theorem sendPkt_nextKick (d : Nat) (p : Packet) : (sendPkt s d p).nextKick = s.nextKick := rfl
@[simp] theorem sendPkt_asleep (d : Nat) (p : Packet) : (sendPkt s d p).asleep = s.asleep := rfl
@[simp] theorem sendPkt_sqNext (d : Nat) (p : Packet) : (sendPkt s d p).sqNext = s.sqNext := rfl
@[simp] theorem sendPkt_kills (d : Nat) (p : Packet) : (sendPkt s d p).kills = s.kills := rfl
@[simp] theorem sendPkt_claims (d : Nat) (p : Packet) : (sendPkt s d p).claims = s.claims := rfl
@[simp] theorem sendPkt_fresh (d : Nat) (p : Packet) : (sendPkt s d p).fresh = s.fresh := rfl
@[simp] theorem sendPkt_cur (d : Nat) (p : Packet) : (sendPkt s d p).cur = s.cur := rfl
@[simp] theorem sendPkt_todo (d : Nat) (p : Packet) : (sendPkt s d p).todo = s.todo := rfl
@[simp] theorem sendPkt_reqErrors (d : Nat) (p : Packet) : (sendPkt s d p).reqErrors = s.reqErrors := rfl
@[simp] theorem sendPkt_copyErrors (d : Nat) (p : Packet) : (sendPkt s d p).copyErrors = s.copyErrors := rfl
@[simp] theorem sendPkt_opErrors (d : Nat) (p : Packet) : (sendPkt s d p).opErrors = s.opErrors := rfl
@[simp] theorem sendPkt_step3 (d : Nat) (p : Packet) : (sendPkt s d p).step3 = s.step3 := rfl
@[simp] theorem sendPkt_domainSet (d : Nat) (p : Packet) : (sendPkt s d p).domainSet = s.domainSet := rfl
@[simp] theorem sendPkt_agenda (d : Nat) (p : Packet) : (sendPkt s d p).agenda = s.agenda := rfl

@[simp] theorem dropFlight_cyc (i : Nat) : (dropFlight s i).cyc = s.cyc := rfl
@[simp] theorem dropFlight_mem (i : Nat) : (dropFlight s i).mem = s.mem := rfl
@[simp] theorem dropFlight_cells (i : Nat) : (dropFlight s i).cells = s.cells := rfl
@[simp] theorem dropFlight_groves (i : Nat) : (dropFlight s i).groves = s.groves := rfl
@[simp] theorem dropFlight_dies (i : Nat) : (dropFlight s i).dies = s.dies := rfl
@[simp] theorem dropFlight_parts (i : Nat) : (dropFlight s i).parts = s.parts := rfl
@[simp] theorem dropFlight_domain (i : Nat) : (dropFlight s i).domain = s.domain := rfl
@[simp] theorem dropFlight_inbound (i : Nat) : (dropFlight s i).inbound = s.inbound := rfl
@[simp] theorem dropFlight_windows (i : Nat) : (dropFlight s i).windows = s.windows := rfl
@[simp] theorem dropFlight_windowWrites (i : Nat) : (dropFlight s i).windowWrites = s.windowWrites := rfl
@[simp] theorem dropFlight_pinnedWrites (i : Nat) : (dropFlight s i).pinnedWrites = s.pinnedWrites := rfl
@[simp] theorem dropFlight_invalidations (i : Nat) : (dropFlight s i).invalidations = s.invalidations := rfl
@[simp] theorem dropFlight_mailbox (i : Nat) : (dropFlight s i).mailbox = s.mailbox := rfl
@[simp] theorem dropFlight_secWords (i : Nat) : (dropFlight s i).secWords = s.secWords := rfl
@[simp] theorem dropFlight_keys (i : Nat) : (dropFlight s i).keys = s.keys := rfl
@[simp] theorem dropFlight_ranges (i : Nat) : (dropFlight s i).ranges = s.ranges := rfl
@[simp] theorem dropFlight_measure (i : Nat) : (dropFlight s i).measure = s.measure := rfl
@[simp] theorem dropFlight_nonce (i : Nat) : (dropFlight s i).nonce = s.nonce := rfl
@[simp] theorem dropFlight_innerMacs (i : Nat) : (dropFlight s i).innerMacs = s.innerMacs := rfl
@[simp] theorem dropFlight_cap (i : Nat) : (dropFlight s i).cap = s.cap := rfl
@[simp] theorem dropFlight_launches (i : Nat) : (dropFlight s i).launches = s.launches := rfl
@[simp] theorem dropFlight_nextLaunch (i : Nat) : (dropFlight s i).nextLaunch = s.nextLaunch := rfl
@[simp] theorem dropFlight_reqs (i : Nat) : (dropFlight s i).reqs = s.reqs := rfl
@[simp] theorem dropFlight_nextReq (i : Nat) : (dropFlight s i).nextReq = s.nextReq := rfl
@[simp] theorem dropFlight_nextFlight (i : Nat) : (dropFlight s i).nextFlight = s.nextFlight := rfl
@[simp] theorem dropFlight_nextOp (i : Nat) : (dropFlight s i).nextOp = s.nextOp := rfl
@[simp] theorem dropFlight_nextKick (i : Nat) : (dropFlight s i).nextKick = s.nextKick := rfl
@[simp] theorem dropFlight_asleep (i : Nat) : (dropFlight s i).asleep = s.asleep := rfl
@[simp] theorem dropFlight_sqNext (i : Nat) : (dropFlight s i).sqNext = s.sqNext := rfl
@[simp] theorem dropFlight_kills (i : Nat) : (dropFlight s i).kills = s.kills := rfl
@[simp] theorem dropFlight_claims (i : Nat) : (dropFlight s i).claims = s.claims := rfl
@[simp] theorem dropFlight_fresh (i : Nat) : (dropFlight s i).fresh = s.fresh := rfl
@[simp] theorem dropFlight_cur (i : Nat) : (dropFlight s i).cur = s.cur := rfl
@[simp] theorem dropFlight_todo (i : Nat) : (dropFlight s i).todo = s.todo := rfl
@[simp] theorem dropFlight_reqErrors (i : Nat) : (dropFlight s i).reqErrors = s.reqErrors := rfl
@[simp] theorem dropFlight_copyErrors (i : Nat) : (dropFlight s i).copyErrors = s.copyErrors := rfl
@[simp] theorem dropFlight_opErrors (i : Nat) : (dropFlight s i).opErrors = s.opErrors := rfl
@[simp] theorem dropFlight_step3 (i : Nat) : (dropFlight s i).step3 = s.step3 := rfl
@[simp] theorem dropFlight_domainSet (i : Nat) : (dropFlight s i).domainSet = s.domainSet := rfl
@[simp] theorem dropFlight_agenda (i : Nat) : (dropFlight s i).agenda = s.agenda := rfl

@[simp] theorem modReq_cyc (i : Nat) (f : Req → Req) : (modReq s i f).cyc = s.cyc := rfl
@[simp] theorem modReq_mem (i : Nat) (f : Req → Req) : (modReq s i f).mem = s.mem := rfl
@[simp] theorem modReq_cells (i : Nat) (f : Req → Req) : (modReq s i f).cells = s.cells := rfl
@[simp] theorem modReq_groves (i : Nat) (f : Req → Req) : (modReq s i f).groves = s.groves := rfl
@[simp] theorem modReq_dies (i : Nat) (f : Req → Req) : (modReq s i f).dies = s.dies := rfl
@[simp] theorem modReq_parts (i : Nat) (f : Req → Req) : (modReq s i f).parts = s.parts := rfl
@[simp] theorem modReq_domain (i : Nat) (f : Req → Req) : (modReq s i f).domain = s.domain := rfl
@[simp] theorem modReq_inbound (i : Nat) (f : Req → Req) : (modReq s i f).inbound = s.inbound := rfl
@[simp] theorem modReq_windows (i : Nat) (f : Req → Req) : (modReq s i f).windows = s.windows := rfl
@[simp] theorem modReq_windowWrites (i : Nat) (f : Req → Req) : (modReq s i f).windowWrites = s.windowWrites := rfl
@[simp] theorem modReq_pinnedWrites (i : Nat) (f : Req → Req) : (modReq s i f).pinnedWrites = s.pinnedWrites := rfl
@[simp] theorem modReq_invalidations (i : Nat) (f : Req → Req) : (modReq s i f).invalidations = s.invalidations := rfl
@[simp] theorem modReq_mailbox (i : Nat) (f : Req → Req) : (modReq s i f).mailbox = s.mailbox := rfl
@[simp] theorem modReq_secWords (i : Nat) (f : Req → Req) : (modReq s i f).secWords = s.secWords := rfl
@[simp] theorem modReq_keys (i : Nat) (f : Req → Req) : (modReq s i f).keys = s.keys := rfl
@[simp] theorem modReq_ranges (i : Nat) (f : Req → Req) : (modReq s i f).ranges = s.ranges := rfl
@[simp] theorem modReq_measure (i : Nat) (f : Req → Req) : (modReq s i f).measure = s.measure := rfl
@[simp] theorem modReq_nonce (i : Nat) (f : Req → Req) : (modReq s i f).nonce = s.nonce := rfl
@[simp] theorem modReq_innerMacs (i : Nat) (f : Req → Req) : (modReq s i f).innerMacs = s.innerMacs := rfl
@[simp] theorem modReq_cap (i : Nat) (f : Req → Req) : (modReq s i f).cap = s.cap := rfl
@[simp] theorem modReq_launches (i : Nat) (f : Req → Req) : (modReq s i f).launches = s.launches := rfl
@[simp] theorem modReq_nextLaunch (i : Nat) (f : Req → Req) : (modReq s i f).nextLaunch = s.nextLaunch := rfl
@[simp] theorem modReq_nextReq (i : Nat) (f : Req → Req) : (modReq s i f).nextReq = s.nextReq := rfl
@[simp] theorem modReq_flights (i : Nat) (f : Req → Req) : (modReq s i f).flights = s.flights := rfl
@[simp] theorem modReq_nextFlight (i : Nat) (f : Req → Req) : (modReq s i f).nextFlight = s.nextFlight := rfl
@[simp] theorem modReq_nextOp (i : Nat) (f : Req → Req) : (modReq s i f).nextOp = s.nextOp := rfl
@[simp] theorem modReq_nextKick (i : Nat) (f : Req → Req) : (modReq s i f).nextKick = s.nextKick := rfl
@[simp] theorem modReq_asleep (i : Nat) (f : Req → Req) : (modReq s i f).asleep = s.asleep := rfl
@[simp] theorem modReq_sqNext (i : Nat) (f : Req → Req) : (modReq s i f).sqNext = s.sqNext := rfl
@[simp] theorem modReq_kills (i : Nat) (f : Req → Req) : (modReq s i f).kills = s.kills := rfl
@[simp] theorem modReq_claims (i : Nat) (f : Req → Req) : (modReq s i f).claims = s.claims := rfl
@[simp] theorem modReq_fresh (i : Nat) (f : Req → Req) : (modReq s i f).fresh = s.fresh := rfl
@[simp] theorem modReq_cur (i : Nat) (f : Req → Req) : (modReq s i f).cur = s.cur := rfl
@[simp] theorem modReq_todo (i : Nat) (f : Req → Req) : (modReq s i f).todo = s.todo := rfl
@[simp] theorem modReq_reqErrors (i : Nat) (f : Req → Req) : (modReq s i f).reqErrors = s.reqErrors := rfl
@[simp] theorem modReq_copyErrors (i : Nat) (f : Req → Req) : (modReq s i f).copyErrors = s.copyErrors := rfl
@[simp] theorem modReq_opErrors (i : Nat) (f : Req → Req) : (modReq s i f).opErrors = s.opErrors := rfl
@[simp] theorem modReq_step3 (i : Nat) (f : Req → Req) : (modReq s i f).step3 = s.step3 := rfl
@[simp] theorem modReq_domainSet (i : Nat) (f : Req → Req) : (modReq s i f).domainSet = s.domainSet := rfl
@[simp] theorem modReq_agenda (i : Nat) (f : Req → Req) : (modReq s i f).agenda = s.agenda := rfl

@[simp] theorem dropReq_cyc (i : Nat) : (dropReq s i).cyc = s.cyc := rfl
@[simp] theorem dropReq_mem (i : Nat) : (dropReq s i).mem = s.mem := rfl
@[simp] theorem dropReq_cells (i : Nat) : (dropReq s i).cells = s.cells := rfl
@[simp] theorem dropReq_groves (i : Nat) : (dropReq s i).groves = s.groves := rfl
@[simp] theorem dropReq_dies (i : Nat) : (dropReq s i).dies = s.dies := rfl
@[simp] theorem dropReq_parts (i : Nat) : (dropReq s i).parts = s.parts := rfl
@[simp] theorem dropReq_domain (i : Nat) : (dropReq s i).domain = s.domain := rfl
@[simp] theorem dropReq_inbound (i : Nat) : (dropReq s i).inbound = s.inbound := rfl
@[simp] theorem dropReq_windows (i : Nat) : (dropReq s i).windows = s.windows := rfl
@[simp] theorem dropReq_windowWrites (i : Nat) : (dropReq s i).windowWrites = s.windowWrites := rfl
@[simp] theorem dropReq_pinnedWrites (i : Nat) : (dropReq s i).pinnedWrites = s.pinnedWrites := rfl
@[simp] theorem dropReq_invalidations (i : Nat) : (dropReq s i).invalidations = s.invalidations := rfl
@[simp] theorem dropReq_mailbox (i : Nat) : (dropReq s i).mailbox = s.mailbox := rfl
@[simp] theorem dropReq_secWords (i : Nat) : (dropReq s i).secWords = s.secWords := rfl
@[simp] theorem dropReq_keys (i : Nat) : (dropReq s i).keys = s.keys := rfl
@[simp] theorem dropReq_ranges (i : Nat) : (dropReq s i).ranges = s.ranges := rfl
@[simp] theorem dropReq_measure (i : Nat) : (dropReq s i).measure = s.measure := rfl
@[simp] theorem dropReq_nonce (i : Nat) : (dropReq s i).nonce = s.nonce := rfl
@[simp] theorem dropReq_innerMacs (i : Nat) : (dropReq s i).innerMacs = s.innerMacs := rfl
@[simp] theorem dropReq_cap (i : Nat) : (dropReq s i).cap = s.cap := rfl
@[simp] theorem dropReq_launches (i : Nat) : (dropReq s i).launches = s.launches := rfl
@[simp] theorem dropReq_nextLaunch (i : Nat) : (dropReq s i).nextLaunch = s.nextLaunch := rfl
@[simp] theorem dropReq_nextReq (i : Nat) : (dropReq s i).nextReq = s.nextReq := rfl
@[simp] theorem dropReq_flights (i : Nat) : (dropReq s i).flights = s.flights := rfl
@[simp] theorem dropReq_nextFlight (i : Nat) : (dropReq s i).nextFlight = s.nextFlight := rfl
@[simp] theorem dropReq_nextOp (i : Nat) : (dropReq s i).nextOp = s.nextOp := rfl
@[simp] theorem dropReq_nextKick (i : Nat) : (dropReq s i).nextKick = s.nextKick := rfl
@[simp] theorem dropReq_asleep (i : Nat) : (dropReq s i).asleep = s.asleep := rfl
@[simp] theorem dropReq_sqNext (i : Nat) : (dropReq s i).sqNext = s.sqNext := rfl
@[simp] theorem dropReq_kills (i : Nat) : (dropReq s i).kills = s.kills := rfl
@[simp] theorem dropReq_claims (i : Nat) : (dropReq s i).claims = s.claims := rfl
@[simp] theorem dropReq_fresh (i : Nat) : (dropReq s i).fresh = s.fresh := rfl
@[simp] theorem dropReq_cur (i : Nat) : (dropReq s i).cur = s.cur := rfl
@[simp] theorem dropReq_todo (i : Nat) : (dropReq s i).todo = s.todo := rfl
@[simp] theorem dropReq_reqErrors (i : Nat) : (dropReq s i).reqErrors = s.reqErrors := rfl
@[simp] theorem dropReq_copyErrors (i : Nat) : (dropReq s i).copyErrors = s.copyErrors := rfl
@[simp] theorem dropReq_opErrors (i : Nat) : (dropReq s i).opErrors = s.opErrors := rfl
@[simp] theorem dropReq_step3 (i : Nat) : (dropReq s i).step3 = s.step3 := rfl
@[simp] theorem dropReq_domainSet (i : Nat) : (dropReq s i).domainSet = s.domainSet := rfl
@[simp] theorem dropReq_agenda (i : Nat) : (dropReq s i).agenda = s.agenda := rfl

@[simp] theorem fireWatches_cyc (ks : List Nat) : (fireWatches s ks).cyc = s.cyc := rfl
@[simp] theorem fireWatches_mem (ks : List Nat) : (fireWatches s ks).mem = s.mem := rfl
@[simp] theorem fireWatches_groves (ks : List Nat) : (fireWatches s ks).groves = s.groves := rfl
@[simp] theorem fireWatches_dies (ks : List Nat) : (fireWatches s ks).dies = s.dies := rfl
@[simp] theorem fireWatches_parts (ks : List Nat) : (fireWatches s ks).parts = s.parts := rfl
@[simp] theorem fireWatches_domain (ks : List Nat) : (fireWatches s ks).domain = s.domain := rfl
@[simp] theorem fireWatches_inbound (ks : List Nat) : (fireWatches s ks).inbound = s.inbound := rfl
@[simp] theorem fireWatches_windows (ks : List Nat) : (fireWatches s ks).windows = s.windows := rfl
@[simp] theorem fireWatches_windowWrites (ks : List Nat) : (fireWatches s ks).windowWrites = s.windowWrites := rfl
@[simp] theorem fireWatches_pinnedWrites (ks : List Nat) : (fireWatches s ks).pinnedWrites = s.pinnedWrites := rfl
@[simp] theorem fireWatches_invalidations (ks : List Nat) : (fireWatches s ks).invalidations = s.invalidations := rfl
@[simp] theorem fireWatches_mailbox (ks : List Nat) : (fireWatches s ks).mailbox = s.mailbox := rfl
@[simp] theorem fireWatches_secWords (ks : List Nat) : (fireWatches s ks).secWords = s.secWords := rfl
@[simp] theorem fireWatches_keys (ks : List Nat) : (fireWatches s ks).keys = s.keys := rfl
@[simp] theorem fireWatches_ranges (ks : List Nat) : (fireWatches s ks).ranges = s.ranges := rfl
@[simp] theorem fireWatches_measure (ks : List Nat) : (fireWatches s ks).measure = s.measure := rfl
@[simp] theorem fireWatches_nonce (ks : List Nat) : (fireWatches s ks).nonce = s.nonce := rfl
@[simp] theorem fireWatches_innerMacs (ks : List Nat) : (fireWatches s ks).innerMacs = s.innerMacs := rfl
@[simp] theorem fireWatches_cap (ks : List Nat) : (fireWatches s ks).cap = s.cap := rfl
@[simp] theorem fireWatches_launches (ks : List Nat) : (fireWatches s ks).launches = s.launches := rfl
@[simp] theorem fireWatches_nextLaunch (ks : List Nat) : (fireWatches s ks).nextLaunch = s.nextLaunch := rfl
@[simp] theorem fireWatches_reqs (ks : List Nat) : (fireWatches s ks).reqs = s.reqs := rfl
@[simp] theorem fireWatches_nextReq (ks : List Nat) : (fireWatches s ks).nextReq = s.nextReq := rfl
@[simp] theorem fireWatches_flights (ks : List Nat) : (fireWatches s ks).flights = s.flights := rfl
@[simp] theorem fireWatches_nextFlight (ks : List Nat) : (fireWatches s ks).nextFlight = s.nextFlight := rfl
@[simp] theorem fireWatches_nextOp (ks : List Nat) : (fireWatches s ks).nextOp = s.nextOp := rfl
@[simp] theorem fireWatches_nextKick (ks : List Nat) : (fireWatches s ks).nextKick = s.nextKick := rfl
@[simp] theorem fireWatches_asleep (ks : List Nat) : (fireWatches s ks).asleep = s.asleep := rfl
@[simp] theorem fireWatches_sqNext (ks : List Nat) : (fireWatches s ks).sqNext = s.sqNext := rfl
@[simp] theorem fireWatches_kills (ks : List Nat) : (fireWatches s ks).kills = s.kills := rfl
@[simp] theorem fireWatches_claims (ks : List Nat) : (fireWatches s ks).claims = s.claims := rfl
@[simp] theorem fireWatches_fresh (ks : List Nat) : (fireWatches s ks).fresh = s.fresh := rfl
@[simp] theorem fireWatches_cur (ks : List Nat) : (fireWatches s ks).cur = s.cur := rfl
@[simp] theorem fireWatches_todo (ks : List Nat) : (fireWatches s ks).todo = s.todo := rfl
@[simp] theorem fireWatches_reqErrors (ks : List Nat) : (fireWatches s ks).reqErrors = s.reqErrors := rfl
@[simp] theorem fireWatches_copyErrors (ks : List Nat) : (fireWatches s ks).copyErrors = s.copyErrors := rfl
@[simp] theorem fireWatches_opErrors (ks : List Nat) : (fireWatches s ks).opErrors = s.opErrors := rfl
@[simp] theorem fireWatches_step3 (ks : List Nat) : (fireWatches s ks).step3 = s.step3 := rfl
@[simp] theorem fireWatches_domainSet (ks : List Nat) : (fireWatches s ks).domainSet = s.domainSet := rfl
@[simp] theorem fireWatches_agenda (ks : List Nat) : (fireWatches s ks).agenda = s.agenda := rfl

@[simp] theorem applyWrite_cyc (ks : List Nat) (bs : List Byte) : (applyWrite s ks bs).cyc = s.cyc := rfl
@[simp] theorem applyWrite_groves (ks : List Nat) (bs : List Byte) : (applyWrite s ks bs).groves = s.groves := rfl
@[simp] theorem applyWrite_dies (ks : List Nat) (bs : List Byte) : (applyWrite s ks bs).dies = s.dies := rfl
@[simp] theorem applyWrite_parts (ks : List Nat) (bs : List Byte) : (applyWrite s ks bs).parts = s.parts := rfl
@[simp] theorem applyWrite_domain (ks : List Nat) (bs : List Byte) : (applyWrite s ks bs).domain = s.domain := rfl
@[simp] theorem applyWrite_inbound (ks : List Nat) (bs : List Byte) : (applyWrite s ks bs).inbound = s.inbound := rfl
@[simp] theorem applyWrite_windows (ks : List Nat) (bs : List Byte) : (applyWrite s ks bs).windows = s.windows := rfl
@[simp] theorem applyWrite_windowWrites (ks : List Nat) (bs : List Byte) : (applyWrite s ks bs).windowWrites = s.windowWrites := rfl
@[simp] theorem applyWrite_pinnedWrites (ks : List Nat) (bs : List Byte) : (applyWrite s ks bs).pinnedWrites = s.pinnedWrites := rfl
@[simp] theorem applyWrite_invalidations (ks : List Nat) (bs : List Byte) : (applyWrite s ks bs).invalidations = s.invalidations := rfl
@[simp] theorem applyWrite_mailbox (ks : List Nat) (bs : List Byte) : (applyWrite s ks bs).mailbox = s.mailbox := rfl
@[simp] theorem applyWrite_secWords (ks : List Nat) (bs : List Byte) : (applyWrite s ks bs).secWords = s.secWords := rfl
@[simp] theorem applyWrite_keys (ks : List Nat) (bs : List Byte) : (applyWrite s ks bs).keys = s.keys := rfl
@[simp] theorem applyWrite_ranges (ks : List Nat) (bs : List Byte) : (applyWrite s ks bs).ranges = s.ranges := rfl
@[simp] theorem applyWrite_measure (ks : List Nat) (bs : List Byte) : (applyWrite s ks bs).measure = s.measure := rfl
@[simp] theorem applyWrite_nonce (ks : List Nat) (bs : List Byte) : (applyWrite s ks bs).nonce = s.nonce := rfl
@[simp] theorem applyWrite_innerMacs (ks : List Nat) (bs : List Byte) : (applyWrite s ks bs).innerMacs = s.innerMacs := rfl
@[simp] theorem applyWrite_cap (ks : List Nat) (bs : List Byte) : (applyWrite s ks bs).cap = s.cap := rfl
@[simp] theorem applyWrite_launches (ks : List Nat) (bs : List Byte) : (applyWrite s ks bs).launches = s.launches := rfl
@[simp] theorem applyWrite_nextLaunch (ks : List Nat) (bs : List Byte) : (applyWrite s ks bs).nextLaunch = s.nextLaunch := rfl
@[simp] theorem applyWrite_reqs (ks : List Nat) (bs : List Byte) : (applyWrite s ks bs).reqs = s.reqs := rfl
@[simp] theorem applyWrite_nextReq (ks : List Nat) (bs : List Byte) : (applyWrite s ks bs).nextReq = s.nextReq := rfl
@[simp] theorem applyWrite_flights (ks : List Nat) (bs : List Byte) : (applyWrite s ks bs).flights = s.flights := rfl
@[simp] theorem applyWrite_nextFlight (ks : List Nat) (bs : List Byte) : (applyWrite s ks bs).nextFlight = s.nextFlight := rfl
@[simp] theorem applyWrite_nextOp (ks : List Nat) (bs : List Byte) : (applyWrite s ks bs).nextOp = s.nextOp := rfl
@[simp] theorem applyWrite_nextKick (ks : List Nat) (bs : List Byte) : (applyWrite s ks bs).nextKick = s.nextKick := rfl
@[simp] theorem applyWrite_asleep (ks : List Nat) (bs : List Byte) : (applyWrite s ks bs).asleep = s.asleep := rfl
@[simp] theorem applyWrite_sqNext (ks : List Nat) (bs : List Byte) : (applyWrite s ks bs).sqNext = s.sqNext := rfl
@[simp] theorem applyWrite_kills (ks : List Nat) (bs : List Byte) : (applyWrite s ks bs).kills = s.kills := rfl
@[simp] theorem applyWrite_claims (ks : List Nat) (bs : List Byte) : (applyWrite s ks bs).claims = s.claims := rfl
@[simp] theorem applyWrite_fresh (ks : List Nat) (bs : List Byte) : (applyWrite s ks bs).fresh = s.fresh := rfl
@[simp] theorem applyWrite_cur (ks : List Nat) (bs : List Byte) : (applyWrite s ks bs).cur = s.cur := rfl
@[simp] theorem applyWrite_todo (ks : List Nat) (bs : List Byte) : (applyWrite s ks bs).todo = s.todo := rfl
@[simp] theorem applyWrite_reqErrors (ks : List Nat) (bs : List Byte) : (applyWrite s ks bs).reqErrors = s.reqErrors := rfl
@[simp] theorem applyWrite_copyErrors (ks : List Nat) (bs : List Byte) : (applyWrite s ks bs).copyErrors = s.copyErrors := rfl
@[simp] theorem applyWrite_opErrors (ks : List Nat) (bs : List Byte) : (applyWrite s ks bs).opErrors = s.opErrors := rfl
@[simp] theorem applyWrite_step3 (ks : List Nat) (bs : List Byte) : (applyWrite s ks bs).step3 = s.step3 := rfl
@[simp] theorem applyWrite_domainSet (ks : List Nat) (bs : List Byte) : (applyWrite s ks bs).domainSet = s.domainSet := rfl
@[simp] theorem applyWrite_agenda (ks : List Nat) (bs : List Byte) : (applyWrite s ks bs).agenda = s.agenda := rfl

@[simp] theorem applyWrite_mem (ks : List Nat) (bs : List Byte) : (applyWrite s ks bs).mem = writeKeys s.mem ks bs := rfl

/-! ## Fields of a thread that a register write leaves -/

variable (x : Thread)

@[simp] theorem writeG_p (n : BitVec 5) (v : Word) : (writeG x n v).p = x.p := by unfold writeG; split <;> rfl
@[simp] theorem writeG_e (n : BitVec 5) (v : Word) : (writeG x n v).e = x.e := by unfold writeG; split <;> rfl
@[simp] theorem writeG_h (n : BitVec 5) (v : Word) : (writeG x n v).h = x.h := by unfold writeG; split <;> rfl
@[simp] theorem writeG_m (n : BitVec 5) (v : Word) : (writeG x n v).m = x.m := by unfold writeG; split <;> rfl
@[simp] theorem writeG_slate (n : BitVec 5) (v : Word) : (writeG x n v).slate = x.slate := by unfold writeG; split <;> rfl
@[simp] theorem writeG_pc (n : BitVec 5) (v : Word) : (writeG x n v).pc = x.pc := by unfold writeG; split <;> rfl
@[simp] theorem writeG_la (n : BitVec 5) (v : Word) : (writeG x n v).la = x.la := by unfold writeG; split <;> rfl
@[simp] theorem writeG_lb (n : BitVec 5) (v : Word) : (writeG x n v).lb = x.lb := by unfold writeG; split <;> rfl
@[simp] theorem writeG_y (n : BitVec 5) (v : Word) : (writeG x n v).y = x.y := by unfold writeG; split <;> rfl
@[simp] theorem writeG_amax (n : BitVec 5) (v : Word) : (writeG x n v).amax = x.amax := by unfold writeG; split <;> rfl
@[simp] theorem writeG_sk (n : BitVec 5) (v : Word) : (writeG x n v).sk = x.sk := by unfold writeG; split <;> rfl
@[simp] theorem writeG_lc (n : BitVec 5) (v : Word) : (writeG x n v).lc = x.lc := by unfold writeG; split <;> rfl
@[simp] theorem writeG_fpst (n : BitVec 5) (v : Word) : (writeG x n v).fpst = x.fpst := by unfold writeG; split <;> rfl
@[simp] theorem writeG_vxst (n : BitVec 5) (v : Word) : (writeG x n v).vxst = x.vxst := by unfold writeG; split <;> rfl
@[simp] theorem writeG_mxst (n : BitVec 5) (v : Word) : (writeG x n v).mxst = x.mxst := by unfold writeG; split <;> rfl
@[simp] theorem writeG_orc (n : BitVec 5) (v : Word) : (writeG x n v).orc = x.orc := by unfold writeG; split <;> rfl
@[simp] theorem writeG_reqseq (n : BitVec 5) (v : Word) : (writeG x n v).reqseq = x.reqseq := by unfold writeG; split <;> rfl
@[simp] theorem writeG_bdgt (n : BitVec 5) (v : Word) : (writeG x n v).bdgt = x.bdgt := by unfold writeG; split <;> rfl
@[simp] theorem writeG_ctx (n : BitVec 5) (v : Word) : (writeG x n v).ctx = x.ctx := by unfold writeG; split <;> rfl
@[simp] theorem writeG_cls (n : BitVec 5) (v : Word) : (writeG x n v).cls = x.cls := by unfold writeG; split <;> rfl
@[simp] theorem writeG_frame (n : BitVec 5) (v : Word) : (writeG x n v).frame = x.frame := by unfold writeG; split <;> rfl
@[simp] theorem writeG_phase (n : BitVec 5) (v : Word) : (writeG x n v).phase = x.phase := by unfold writeG; split <;> rfl
@[simp] theorem writeG_pinned (n : BitVec 5) (v : Word) : (writeG x n v).pinned = x.pinned := by unfold writeG; split <;> rfl
@[simp] theorem writeG_msg (n : BitVec 5) (v : Word) : (writeG x n v).msg = x.msg := by unfold writeG; split <;> rfl
@[simp] theorem writeG_origin (n : BitVec 5) (v : Word) : (writeG x n v).origin = x.origin := by unfold writeG; split <;> rfl
@[simp] theorem writeG_effects (n : BitVec 5) (v : Word) : (writeG x n v).effects = x.effects := by unfold writeG; split <;> rfl
@[simp] theorem writeG_undo (n : BitVec 5) (v : Word) : (writeG x n v).undo = x.undo := by unfold writeG; split <;> rfl
@[simp] theorem writeG_consumed (n : BitVec 5) (v : Word) : (writeG x n v).consumed = x.consumed := by unfold writeG; split <;> rfl
@[simp] theorem writeG_words (n : BitVec 5) (v : Word) : (writeG x n v).words = x.words := by unfold writeG; split <;> rfl
@[simp] theorem writeG_takes (n : BitVec 5) (v : Word) : (writeG x n v).takes = x.takes := by unfold writeG; split <;> rfl
@[simp] theorem writeG_grants (n : BitVec 5) (v : Word) : (writeG x n v).grants = x.grants := by unfold writeG; split <;> rfl
@[simp] theorem writeG_pages (n : BitVec 5) (v : Word) : (writeG x n v).pages = x.pages := by unfold writeG; split <;> rfl
@[simp] theorem writeG_wants (n : BitVec 5) (v : Word) : (writeG x n v).wants = x.wants := by unfold writeG; split <;> rfl
@[simp] theorem writeG_past (n : BitVec 5) (v : Word) : (writeG x n v).past = x.past := by unfold writeG; split <;> rfl
@[simp] theorem writeG_pinning (n : BitVec 5) (v : Word) : (writeG x n v).pinning = x.pinning := by unfold writeG; split <;> rfl
@[simp] theorem writeG_waits (n : BitVec 5) (v : Word) : (writeG x n v).waits = x.waits := by unfold writeG; split <;> rfl

@[simp] theorem writeP_g (n : BitVec 3) (b : Bool) : (writeP x n b).g = x.g := by unfold writeP; split <;> rfl
@[simp] theorem writeP_e (n : BitVec 3) (b : Bool) : (writeP x n b).e = x.e := by unfold writeP; split <;> rfl
@[simp] theorem writeP_h (n : BitVec 3) (b : Bool) : (writeP x n b).h = x.h := by unfold writeP; split <;> rfl
@[simp] theorem writeP_m (n : BitVec 3) (b : Bool) : (writeP x n b).m = x.m := by unfold writeP; split <;> rfl
@[simp] theorem writeP_slate (n : BitVec 3) (b : Bool) : (writeP x n b).slate = x.slate := by unfold writeP; split <;> rfl
@[simp] theorem writeP_pc (n : BitVec 3) (b : Bool) : (writeP x n b).pc = x.pc := by unfold writeP; split <;> rfl
@[simp] theorem writeP_la (n : BitVec 3) (b : Bool) : (writeP x n b).la = x.la := by unfold writeP; split <;> rfl
@[simp] theorem writeP_lb (n : BitVec 3) (b : Bool) : (writeP x n b).lb = x.lb := by unfold writeP; split <;> rfl
@[simp] theorem writeP_y (n : BitVec 3) (b : Bool) : (writeP x n b).y = x.y := by unfold writeP; split <;> rfl
@[simp] theorem writeP_amax (n : BitVec 3) (b : Bool) : (writeP x n b).amax = x.amax := by unfold writeP; split <;> rfl
@[simp] theorem writeP_sk (n : BitVec 3) (b : Bool) : (writeP x n b).sk = x.sk := by unfold writeP; split <;> rfl
@[simp] theorem writeP_lc (n : BitVec 3) (b : Bool) : (writeP x n b).lc = x.lc := by unfold writeP; split <;> rfl
@[simp] theorem writeP_fpst (n : BitVec 3) (b : Bool) : (writeP x n b).fpst = x.fpst := by unfold writeP; split <;> rfl
@[simp] theorem writeP_vxst (n : BitVec 3) (b : Bool) : (writeP x n b).vxst = x.vxst := by unfold writeP; split <;> rfl
@[simp] theorem writeP_mxst (n : BitVec 3) (b : Bool) : (writeP x n b).mxst = x.mxst := by unfold writeP; split <;> rfl
@[simp] theorem writeP_orc (n : BitVec 3) (b : Bool) : (writeP x n b).orc = x.orc := by unfold writeP; split <;> rfl
@[simp] theorem writeP_reqseq (n : BitVec 3) (b : Bool) : (writeP x n b).reqseq = x.reqseq := by unfold writeP; split <;> rfl
@[simp] theorem writeP_bdgt (n : BitVec 3) (b : Bool) : (writeP x n b).bdgt = x.bdgt := by unfold writeP; split <;> rfl
@[simp] theorem writeP_ctx (n : BitVec 3) (b : Bool) : (writeP x n b).ctx = x.ctx := by unfold writeP; split <;> rfl
@[simp] theorem writeP_cls (n : BitVec 3) (b : Bool) : (writeP x n b).cls = x.cls := by unfold writeP; split <;> rfl
@[simp] theorem writeP_frame (n : BitVec 3) (b : Bool) : (writeP x n b).frame = x.frame := by unfold writeP; split <;> rfl
@[simp] theorem writeP_phase (n : BitVec 3) (b : Bool) : (writeP x n b).phase = x.phase := by unfold writeP; split <;> rfl
@[simp] theorem writeP_pinned (n : BitVec 3) (b : Bool) : (writeP x n b).pinned = x.pinned := by unfold writeP; split <;> rfl
@[simp] theorem writeP_msg (n : BitVec 3) (b : Bool) : (writeP x n b).msg = x.msg := by unfold writeP; split <;> rfl
@[simp] theorem writeP_origin (n : BitVec 3) (b : Bool) : (writeP x n b).origin = x.origin := by unfold writeP; split <;> rfl
@[simp] theorem writeP_effects (n : BitVec 3) (b : Bool) : (writeP x n b).effects = x.effects := by unfold writeP; split <;> rfl
@[simp] theorem writeP_undo (n : BitVec 3) (b : Bool) : (writeP x n b).undo = x.undo := by unfold writeP; split <;> rfl
@[simp] theorem writeP_consumed (n : BitVec 3) (b : Bool) : (writeP x n b).consumed = x.consumed := by unfold writeP; split <;> rfl
@[simp] theorem writeP_words (n : BitVec 3) (b : Bool) : (writeP x n b).words = x.words := by unfold writeP; split <;> rfl
@[simp] theorem writeP_takes (n : BitVec 3) (b : Bool) : (writeP x n b).takes = x.takes := by unfold writeP; split <;> rfl
@[simp] theorem writeP_grants (n : BitVec 3) (b : Bool) : (writeP x n b).grants = x.grants := by unfold writeP; split <;> rfl
@[simp] theorem writeP_pages (n : BitVec 3) (b : Bool) : (writeP x n b).pages = x.pages := by unfold writeP; split <;> rfl
@[simp] theorem writeP_wants (n : BitVec 3) (b : Bool) : (writeP x n b).wants = x.wants := by unfold writeP; split <;> rfl
@[simp] theorem writeP_past (n : BitVec 3) (b : Bool) : (writeP x n b).past = x.past := by unfold writeP; split <;> rfl
@[simp] theorem writeP_pinning (n : BitVec 3) (b : Bool) : (writeP x n b).pinning = x.pinning := by unfold writeP; split <;> rfl
@[simp] theorem writeP_waits (n : BitVec 3) (b : Bool) : (writeP x n b).waits = x.waits := by unfold writeP; split <;> rfl

@[simp] theorem loopStep_g (n : BitVec 1) (l : Nat) : (loopStep x n l).1.g = x.g := by unfold loopStep; dsimp only; split <;> [(split <;> rfl); rfl]
@[simp] theorem loopStep_p (n : BitVec 1) (l : Nat) : (loopStep x n l).1.p = x.p := by unfold loopStep; dsimp only; split <;> [(split <;> rfl); rfl]
@[simp] theorem loopStep_e (n : BitVec 1) (l : Nat) : (loopStep x n l).1.e = x.e := by unfold loopStep; dsimp only; split <;> [(split <;> rfl); rfl]
@[simp] theorem loopStep_h (n : BitVec 1) (l : Nat) : (loopStep x n l).1.h = x.h := by unfold loopStep; dsimp only; split <;> [(split <;> rfl); rfl]
@[simp] theorem loopStep_m (n : BitVec 1) (l : Nat) : (loopStep x n l).1.m = x.m := by unfold loopStep; dsimp only; split <;> [(split <;> rfl); rfl]
@[simp] theorem loopStep_slate (n : BitVec 1) (l : Nat) : (loopStep x n l).1.slate = x.slate := by unfold loopStep; dsimp only; split <;> [(split <;> rfl); rfl]
@[simp] theorem loopStep_la (n : BitVec 1) (l : Nat) : (loopStep x n l).1.la = x.la := by unfold loopStep; dsimp only; split <;> [(split <;> rfl); rfl]
@[simp] theorem loopStep_lb (n : BitVec 1) (l : Nat) : (loopStep x n l).1.lb = x.lb := by unfold loopStep; dsimp only; split <;> [(split <;> rfl); rfl]
@[simp] theorem loopStep_y (n : BitVec 1) (l : Nat) : (loopStep x n l).1.y = x.y := by unfold loopStep; dsimp only; split <;> [(split <;> rfl); rfl]
@[simp] theorem loopStep_amax (n : BitVec 1) (l : Nat) : (loopStep x n l).1.amax = x.amax := by unfold loopStep; dsimp only; split <;> [(split <;> rfl); rfl]
@[simp] theorem loopStep_sk (n : BitVec 1) (l : Nat) : (loopStep x n l).1.sk = x.sk := by unfold loopStep; dsimp only; split <;> [(split <;> rfl); rfl]
@[simp] theorem loopStep_fpst (n : BitVec 1) (l : Nat) : (loopStep x n l).1.fpst = x.fpst := by unfold loopStep; dsimp only; split <;> [(split <;> rfl); rfl]
@[simp] theorem loopStep_vxst (n : BitVec 1) (l : Nat) : (loopStep x n l).1.vxst = x.vxst := by unfold loopStep; dsimp only; split <;> [(split <;> rfl); rfl]
@[simp] theorem loopStep_mxst (n : BitVec 1) (l : Nat) : (loopStep x n l).1.mxst = x.mxst := by unfold loopStep; dsimp only; split <;> [(split <;> rfl); rfl]
@[simp] theorem loopStep_orc (n : BitVec 1) (l : Nat) : (loopStep x n l).1.orc = x.orc := by unfold loopStep; dsimp only; split <;> [(split <;> rfl); rfl]
@[simp] theorem loopStep_reqseq (n : BitVec 1) (l : Nat) : (loopStep x n l).1.reqseq = x.reqseq := by unfold loopStep; dsimp only; split <;> [(split <;> rfl); rfl]
@[simp] theorem loopStep_bdgt (n : BitVec 1) (l : Nat) : (loopStep x n l).1.bdgt = x.bdgt := by unfold loopStep; dsimp only; split <;> [(split <;> rfl); rfl]
@[simp] theorem loopStep_ctx (n : BitVec 1) (l : Nat) : (loopStep x n l).1.ctx = x.ctx := by unfold loopStep; dsimp only; split <;> [(split <;> rfl); rfl]
@[simp] theorem loopStep_cls (n : BitVec 1) (l : Nat) : (loopStep x n l).1.cls = x.cls := by unfold loopStep; dsimp only; split <;> [(split <;> rfl); rfl]
@[simp] theorem loopStep_frame (n : BitVec 1) (l : Nat) : (loopStep x n l).1.frame = x.frame := by unfold loopStep; dsimp only; split <;> [(split <;> rfl); rfl]
@[simp] theorem loopStep_phase (n : BitVec 1) (l : Nat) : (loopStep x n l).1.phase = x.phase := by unfold loopStep; dsimp only; split <;> [(split <;> rfl); rfl]
@[simp] theorem loopStep_pinned (n : BitVec 1) (l : Nat) : (loopStep x n l).1.pinned = x.pinned := by unfold loopStep; dsimp only; split <;> [(split <;> rfl); rfl]
@[simp] theorem loopStep_msg (n : BitVec 1) (l : Nat) : (loopStep x n l).1.msg = x.msg := by unfold loopStep; dsimp only; split <;> [(split <;> rfl); rfl]
@[simp] theorem loopStep_origin (n : BitVec 1) (l : Nat) : (loopStep x n l).1.origin = x.origin := by unfold loopStep; dsimp only; split <;> [(split <;> rfl); rfl]
@[simp] theorem loopStep_effects (n : BitVec 1) (l : Nat) : (loopStep x n l).1.effects = x.effects := by unfold loopStep; dsimp only; split <;> [(split <;> rfl); rfl]
@[simp] theorem loopStep_undo (n : BitVec 1) (l : Nat) : (loopStep x n l).1.undo = x.undo := by unfold loopStep; dsimp only; split <;> [(split <;> rfl); rfl]
@[simp] theorem loopStep_consumed (n : BitVec 1) (l : Nat) : (loopStep x n l).1.consumed = x.consumed := by unfold loopStep; dsimp only; split <;> [(split <;> rfl); rfl]
@[simp] theorem loopStep_words (n : BitVec 1) (l : Nat) : (loopStep x n l).1.words = x.words := by unfold loopStep; dsimp only; split <;> [(split <;> rfl); rfl]
@[simp] theorem loopStep_takes (n : BitVec 1) (l : Nat) : (loopStep x n l).1.takes = x.takes := by unfold loopStep; dsimp only; split <;> [(split <;> rfl); rfl]
@[simp] theorem loopStep_grants (n : BitVec 1) (l : Nat) : (loopStep x n l).1.grants = x.grants := by unfold loopStep; dsimp only; split <;> [(split <;> rfl); rfl]
@[simp] theorem loopStep_pages (n : BitVec 1) (l : Nat) : (loopStep x n l).1.pages = x.pages := by unfold loopStep; dsimp only; split <;> [(split <;> rfl); rfl]
@[simp] theorem loopStep_wants (n : BitVec 1) (l : Nat) : (loopStep x n l).1.wants = x.wants := by unfold loopStep; dsimp only; split <;> [(split <;> rfl); rfl]
@[simp] theorem loopStep_past (n : BitVec 1) (l : Nat) : (loopStep x n l).1.past = x.past := by unfold loopStep; dsimp only; split <;> [(split <;> rfl); rfl]
@[simp] theorem loopStep_pinning (n : BitVec 1) (l : Nat) : (loopStep x n l).1.pinning = x.pinning := by unfold loopStep; dsimp only; split <;> [(split <;> rfl); rfl]
@[simp] theorem loopStep_waits (n : BitVec 1) (l : Nat) : (loopStep x n l).1.waits = x.waits := by unfold loopStep; dsimp only; split <;> [(split <;> rfl); rfl]

@[simp] theorem jumpTo_g (w : Word) : (jumpTo x w).g = x.g := by rfl
@[simp] theorem jumpTo_p (w : Word) : (jumpTo x w).p = x.p := by rfl
@[simp] theorem jumpTo_e (w : Word) : (jumpTo x w).e = x.e := by rfl
@[simp] theorem jumpTo_h (w : Word) : (jumpTo x w).h = x.h := by rfl
@[simp] theorem jumpTo_m (w : Word) : (jumpTo x w).m = x.m := by rfl
@[simp] theorem jumpTo_slate (w : Word) : (jumpTo x w).slate = x.slate := by rfl
@[simp] theorem jumpTo_la (w : Word) : (jumpTo x w).la = x.la := by rfl
@[simp] theorem jumpTo_lb (w : Word) : (jumpTo x w).lb = x.lb := by rfl
@[simp] theorem jumpTo_y (w : Word) : (jumpTo x w).y = x.y := by rfl
@[simp] theorem jumpTo_amax (w : Word) : (jumpTo x w).amax = x.amax := by rfl
@[simp] theorem jumpTo_sk (w : Word) : (jumpTo x w).sk = x.sk := by rfl
@[simp] theorem jumpTo_lc (w : Word) : (jumpTo x w).lc = x.lc := by rfl
@[simp] theorem jumpTo_fpst (w : Word) : (jumpTo x w).fpst = x.fpst := by rfl
@[simp] theorem jumpTo_vxst (w : Word) : (jumpTo x w).vxst = x.vxst := by rfl
@[simp] theorem jumpTo_mxst (w : Word) : (jumpTo x w).mxst = x.mxst := by rfl
@[simp] theorem jumpTo_orc (w : Word) : (jumpTo x w).orc = x.orc := by rfl
@[simp] theorem jumpTo_reqseq (w : Word) : (jumpTo x w).reqseq = x.reqseq := by rfl
@[simp] theorem jumpTo_bdgt (w : Word) : (jumpTo x w).bdgt = x.bdgt := by rfl
@[simp] theorem jumpTo_ctx (w : Word) : (jumpTo x w).ctx = x.ctx := by rfl
@[simp] theorem jumpTo_cls (w : Word) : (jumpTo x w).cls = x.cls := by rfl
@[simp] theorem jumpTo_frame (w : Word) : (jumpTo x w).frame = x.frame := by rfl
@[simp] theorem jumpTo_phase (w : Word) : (jumpTo x w).phase = x.phase := by rfl
@[simp] theorem jumpTo_pinned (w : Word) : (jumpTo x w).pinned = x.pinned := by rfl
@[simp] theorem jumpTo_msg (w : Word) : (jumpTo x w).msg = x.msg := by rfl
@[simp] theorem jumpTo_origin (w : Word) : (jumpTo x w).origin = x.origin := by rfl
@[simp] theorem jumpTo_effects (w : Word) : (jumpTo x w).effects = x.effects := by rfl
@[simp] theorem jumpTo_undo (w : Word) : (jumpTo x w).undo = x.undo := by rfl
@[simp] theorem jumpTo_consumed (w : Word) : (jumpTo x w).consumed = x.consumed := by rfl
@[simp] theorem jumpTo_takes (w : Word) : (jumpTo x w).takes = x.takes := by rfl
@[simp] theorem jumpTo_grants (w : Word) : (jumpTo x w).grants = x.grants := by rfl
@[simp] theorem jumpTo_pages (w : Word) : (jumpTo x w).pages = x.pages := by rfl
@[simp] theorem jumpTo_wants (w : Word) : (jumpTo x w).wants = x.wants := by rfl
@[simp] theorem jumpTo_past (w : Word) : (jumpTo x w).past = x.past := by rfl
@[simp] theorem jumpTo_pinning (w : Word) : (jumpTo x w).pinning = x.pinning := by rfl
@[simp] theorem jumpTo_waits (w : Word) : (jumpTo x w).waits = x.waits := by rfl

@[simp] theorem advance_g (n : Nat) : (advance x n).g = x.g := by unfold advance; simp only []; split <;> simp
@[simp] theorem advance_p (n : Nat) : (advance x n).p = x.p := by unfold advance; simp only []; split <;> simp
@[simp] theorem advance_e (n : Nat) : (advance x n).e = x.e := by unfold advance; simp only []; split <;> simp
@[simp] theorem advance_h (n : Nat) : (advance x n).h = x.h := by unfold advance; simp only []; split <;> simp
@[simp] theorem advance_m (n : Nat) : (advance x n).m = x.m := by unfold advance; simp only []; split <;> simp
@[simp] theorem advance_slate (n : Nat) : (advance x n).slate = x.slate := by unfold advance; simp only []; split <;> simp
@[simp] theorem advance_la (n : Nat) : (advance x n).la = x.la := by unfold advance; simp only []; split <;> simp
@[simp] theorem advance_lb (n : Nat) : (advance x n).lb = x.lb := by unfold advance; simp only []; split <;> simp
@[simp] theorem advance_y (n : Nat) : (advance x n).y = x.y := by unfold advance; simp only []; split <;> simp
@[simp] theorem advance_amax (n : Nat) : (advance x n).amax = x.amax := by unfold advance; simp only []; split <;> simp
@[simp] theorem advance_sk (n : Nat) : (advance x n).sk = x.sk := by unfold advance; simp only []; split <;> simp
@[simp] theorem advance_fpst (n : Nat) : (advance x n).fpst = x.fpst := by unfold advance; simp only []; split <;> simp
@[simp] theorem advance_vxst (n : Nat) : (advance x n).vxst = x.vxst := by unfold advance; simp only []; split <;> simp
@[simp] theorem advance_mxst (n : Nat) : (advance x n).mxst = x.mxst := by unfold advance; simp only []; split <;> simp
@[simp] theorem advance_orc (n : Nat) : (advance x n).orc = x.orc := by unfold advance; simp only []; split <;> simp
@[simp] theorem advance_reqseq (n : Nat) : (advance x n).reqseq = x.reqseq := by unfold advance; simp only []; split <;> simp
@[simp] theorem advance_bdgt (n : Nat) : (advance x n).bdgt = x.bdgt := by unfold advance; simp only []; split <;> simp
@[simp] theorem advance_ctx (n : Nat) : (advance x n).ctx = x.ctx := by unfold advance; simp only []; split <;> simp
@[simp] theorem advance_cls (n : Nat) : (advance x n).cls = x.cls := by unfold advance; simp only []; split <;> simp
@[simp] theorem advance_frame (n : Nat) : (advance x n).frame = x.frame := by unfold advance; simp only []; split <;> simp
@[simp] theorem advance_phase (n : Nat) : (advance x n).phase = x.phase := by unfold advance; simp only []; split <;> simp
@[simp] theorem advance_pinned (n : Nat) : (advance x n).pinned = x.pinned := by unfold advance; simp only []; split <;> simp
@[simp] theorem advance_msg (n : Nat) : (advance x n).msg = x.msg := by unfold advance; simp only []; split <;> simp
@[simp] theorem advance_origin (n : Nat) : (advance x n).origin = x.origin := by unfold advance; simp only []; split <;> simp
@[simp] theorem advance_effects (n : Nat) : (advance x n).effects = x.effects := by unfold advance; simp only []; split <;> simp
@[simp] theorem advance_undo (n : Nat) : (advance x n).undo = x.undo := by unfold advance; simp only []; split <;> simp
@[simp] theorem advance_consumed (n : Nat) : (advance x n).consumed = x.consumed := by unfold advance; simp only []; split <;> simp
@[simp] theorem advance_takes (n : Nat) : (advance x n).takes = x.takes := by unfold advance; simp only []; split <;> simp
@[simp] theorem advance_grants (n : Nat) : (advance x n).grants = x.grants := by unfold advance; simp only []; split <;> simp
@[simp] theorem advance_pages (n : Nat) : (advance x n).pages = x.pages := by unfold advance; simp only []; split <;> simp
@[simp] theorem advance_wants (n : Nat) : (advance x n).wants = x.wants := by unfold advance; simp only []; split <;> simp
@[simp] theorem advance_past (n : Nat) : (advance x n).past = x.past := by unfold advance; simp only []; split <;> simp
@[simp] theorem advance_pinning (n : Nat) : (advance x n).pinning = x.pinning := by unfold advance; simp only []; split <;> simp
@[simp] theorem advance_waits (n : Nat) : (advance x n).waits = x.waits := by unfold advance; simp only []; split <;> simp

@[simp] theorem withResult_g (u : BitVec 4) (v : Word) : (withResult x u v).g = x.g := by unfold withResult; simp
@[simp] theorem withResult_p (u : BitVec 4) (v : Word) : (withResult x u v).p = x.p := by unfold withResult; simp
@[simp] theorem withResult_e (u : BitVec 4) (v : Word) : (withResult x u v).e = x.e := by unfold withResult; simp
@[simp] theorem withResult_h (u : BitVec 4) (v : Word) : (withResult x u v).h = x.h := by unfold withResult; simp
@[simp] theorem withResult_m (u : BitVec 4) (v : Word) : (withResult x u v).m = x.m := by unfold withResult; simp
@[simp] theorem withResult_slate (u : BitVec 4) (v : Word) : (withResult x u v).slate = x.slate := by unfold withResult; simp
@[simp] theorem withResult_la (u : BitVec 4) (v : Word) : (withResult x u v).la = x.la := by unfold withResult; simp
@[simp] theorem withResult_lb (u : BitVec 4) (v : Word) : (withResult x u v).lb = x.lb := by unfold withResult; simp
@[simp] theorem withResult_amax (u : BitVec 4) (v : Word) : (withResult x u v).amax = x.amax := by unfold withResult; simp
@[simp] theorem withResult_sk (u : BitVec 4) (v : Word) : (withResult x u v).sk = x.sk := by unfold withResult; simp
@[simp] theorem withResult_fpst (u : BitVec 4) (v : Word) : (withResult x u v).fpst = x.fpst := by unfold withResult; simp
@[simp] theorem withResult_vxst (u : BitVec 4) (v : Word) : (withResult x u v).vxst = x.vxst := by unfold withResult; simp
@[simp] theorem withResult_mxst (u : BitVec 4) (v : Word) : (withResult x u v).mxst = x.mxst := by unfold withResult; simp
@[simp] theorem withResult_orc (u : BitVec 4) (v : Word) : (withResult x u v).orc = x.orc := by unfold withResult; simp
@[simp] theorem withResult_reqseq (u : BitVec 4) (v : Word) : (withResult x u v).reqseq = x.reqseq := by unfold withResult; simp
@[simp] theorem withResult_bdgt (u : BitVec 4) (v : Word) : (withResult x u v).bdgt = x.bdgt := by unfold withResult; simp
@[simp] theorem withResult_ctx (u : BitVec 4) (v : Word) : (withResult x u v).ctx = x.ctx := by unfold withResult; simp
@[simp] theorem withResult_cls (u : BitVec 4) (v : Word) : (withResult x u v).cls = x.cls := by unfold withResult; simp
@[simp] theorem withResult_frame (u : BitVec 4) (v : Word) : (withResult x u v).frame = x.frame := by unfold withResult; simp
@[simp] theorem withResult_phase (u : BitVec 4) (v : Word) : (withResult x u v).phase = x.phase := by unfold withResult; simp
@[simp] theorem withResult_pinned (u : BitVec 4) (v : Word) : (withResult x u v).pinned = x.pinned := by unfold withResult; simp
@[simp] theorem withResult_msg (u : BitVec 4) (v : Word) : (withResult x u v).msg = x.msg := by unfold withResult; simp
@[simp] theorem withResult_origin (u : BitVec 4) (v : Word) : (withResult x u v).origin = x.origin := by unfold withResult; simp
@[simp] theorem withResult_effects (u : BitVec 4) (v : Word) : (withResult x u v).effects = x.effects := by unfold withResult; simp
@[simp] theorem withResult_undo (u : BitVec 4) (v : Word) : (withResult x u v).undo = x.undo := by unfold withResult; simp
@[simp] theorem withResult_consumed (u : BitVec 4) (v : Word) : (withResult x u v).consumed = x.consumed := by unfold withResult; simp
@[simp] theorem withResult_takes (u : BitVec 4) (v : Word) : (withResult x u v).takes = x.takes := by unfold withResult; simp
@[simp] theorem withResult_grants (u : BitVec 4) (v : Word) : (withResult x u v).grants = x.grants := by unfold withResult; simp
@[simp] theorem withResult_pages (u : BitVec 4) (v : Word) : (withResult x u v).pages = x.pages := by unfold withResult; simp
@[simp] theorem withResult_wants (u : BitVec 4) (v : Word) : (withResult x u v).wants = x.wants := by unfold withResult; simp
@[simp] theorem withResult_past (u : BitVec 4) (v : Word) : (withResult x u v).past = x.past := by unfold withResult; simp
@[simp] theorem withResult_pinning (u : BitVec 4) (v : Word) : (withResult x u v).pinning = x.pinning := by unfold withResult; simp
@[simp] theorem withResult_waits (u : BitVec 4) (v : Word) : (withResult x u v).waits = x.waits := by unfold withResult; simp

@[simp] theorem advance_words (n : Nat) : (advance x n).words = x.words + 1 := by
  unfold advance; simp only []; split <;> simp

@[simp] theorem jumpTo_words (w : Word) : (jumpTo x w).words = x.words + 1 := rfl

@[simp] theorem jumpTo_pc (w : Word) : (jumpTo x w).pc = w := rfl

@[simp] theorem withResult_words (u : BitVec 4) (v : Word) : (withResult x u v).words = x.words + 1 := by simp [withResult]

@[simp] theorem withResult_y (u : BitVec 4) (v : Word) : (withResult x u v).y = rset x.y u (.busy v) := by simp [withResult]

/-- Where no loop is active the program counter moves past the word (R140). -/
theorem advance_pc (n : Nat) (h0 : (rget x.lc 0#1).act = false) (h1 : (rget x.lc 1#1).act = false) :
    (advance x n).pc = x.pc + BitVec.ofNat 64 n := by
  simp [advance, loopStep, h0, h1]

/-- g0 reads zero whatever is written (Table 2.1). -/
@[simp] theorem readG_zero : readG x 0 = 0 := by simp [readG]

@[simp] theorem readG_writeG_same (n : BitVec 5) (v : Word) (h : n ≠ 0) : readG (writeG x n v) n = v := by
  unfold readG writeG
  rw [if_neg h, if_neg h]
  exact rget_rset_same _ _ _

theorem readG_writeG (n m : BitVec 5) (v : Word) :
    readG (writeG x n v) m = if m = n ∧ n ≠ 0 then v else readG x m := by
  unfold readG writeG
  by_cases hn : n = 0 <;> by_cases hm : m = 0 <;> by_cases h : m = n <;> simp_all

theorem writeG_zero (v : Word) : writeG x 0 v = x := by simp [writeG]

@[simp] theorem readP_zero : readP x 0 = true := by simp [readP]

theorem readP_writeP (n m : BitVec 3) (b : Bool) :
    readP (writeP x n b) m = if m = n ∧ n ≠ 0 then b else readP x m := by
  unfold readP writeP
  by_cases hn : n = 0 <;> by_cases hm : m = 0 <;> by_cases h : m = n <;> simp_all

theorem writeP_zero (b : Bool) : writeP x 0 b = x := by simp [writeP]

end Sys2Proof.Machine
end

