-- ==== Sys2Proof/Laws/Memory.lean ====
section
/-! SUPPORT. Memory: what a write leaves to be read, and that every memory operation keeps the canonical form. -/

namespace Sys2Proof.Machine

/-! ## One byte -/

theorem memGet_tput (m : List Host.Cell) (k j : Nat) (b : Byte) : memGet (tput m k b) j = if j = k then b else memGet m j := by
  have e : ∀ m : List Host.Cell, ∀ j, memGet m j = tget m j 0 := by
    intro m j
    induction m with
    | nil => rfl
    | cons e r ih => simp only [memGet, tget, ih]
  rw [e, e, tget_tput]

theorem memGet_filter (m : List Host.Cell) (k j : Nat) :
    memGet (m.filter (fun e => e.1 ≠ k)) j = if j = k then 0 else memGet m j := by
  induction m with
  | nil => simp [memGet]
  | cons e r ih =>
    obtain ⟨n, w⟩ := e
    by_cases h : n = k
    · subst h
      by_cases hj : j = n
      · subst hj; simpa [memGet] using ih
      · have : n ≠ j := fun e => hj e.symm
        simpa [memGet, hj, this] using ih
    · by_cases hj : j = k
      · subst hj; simpa [memGet, h] using ih
      · by_cases hn : n = j
        · subst hn; simp [memGet, h]
        · simpa [memGet, h, hj, hn] using ih

/-- A byte written reads back, and every other byte reads as before. -/
theorem memGet_memPut (m : List Host.Cell) (k j : Nat) (b : Byte) : memGet (memPut m k b) j = if j = k then b else memGet m j := by
  unfold memPut
  split
  · rename_i h; subst h; exact memGet_filter m k j
  · exact memGet_tput m k j b

/-! ## The canonical form -/

theorem tput_rising (m : List Host.Cell) (k : Nat) (b : Byte) (h : m.Pairwise (fun a b => a.1 < b.1)) :
    (tput m k b).Pairwise (fun a b => a.1 < b.1) ∧ ∀ e ∈ tput m k b, e = (k, b) ∨ e ∈ m := by
  induction m with
  | nil => simp [tput]
  | cons e r ih =>
    obtain ⟨n, w⟩ := e
    obtain ⟨h1, h2⟩ := List.pairwise_cons.mp h
    obtain ⟨i1, i2⟩ := ih h2
    simp only [tput]
    split
    · rename_i hk
      refine ⟨List.pairwise_cons.mpr ⟨?_, h⟩, fun e he => by simpa using he⟩
      intro e he
      rcases List.mem_cons.mp he with rfl | he
      · exact hk
      · exact Nat.lt_trans hk (h1 e he)
    · split
      · rename_i hk; subst hk
        exact ⟨List.pairwise_cons.mpr ⟨h1, h2⟩, fun e he => by
          rcases List.mem_cons.mp he with rfl | he
          · exact .inl rfl
          · exact .inr (List.mem_cons_of_mem _ he)⟩
      · rename_i hk1 hk2
        refine ⟨List.pairwise_cons.mpr ⟨?_, i1⟩, ?_⟩
        · intro e he
          rcases i2 e he with rfl | he
          · simp only; omega
          · exact h1 e he
        · intro e he
          rcases List.mem_cons.mp he with rfl | he
          · exact .inr (List.mem_cons_self ..)
          · rcases i2 e he with h | h
            · exact .inl h
            · exact .inr (List.mem_cons_of_mem _ h)

theorem Memory.wf_iff (m : List Host.Cell) : Memory.wf m = true ↔ m.Pairwise (fun a b => a.1 < b.1) ∧ ∀ e ∈ m, e.2 ≠ 0 := by
  simp [Memory.wf]

@[simp] theorem Memory.wf_nil : Memory.wf [] = true := by simp [Memory.wf]

theorem memPut_wf {m : List Host.Cell} (k : Nat) (b : Byte) (h : Memory.wf m = true) : Memory.wf (memPut m k b) = true := by
  rw [Memory.wf_iff] at h ⊢
  unfold memPut
  split
  · exact ⟨h.1.sublist List.filter_sublist, fun e he => h.2 e (List.mem_of_mem_filter he)⟩
  · rename_i hb
    obtain ⟨h1, h2⟩ := tput_rising m k b h.1
    refine ⟨h1, fun e he => ?_⟩
    rcases h2 e he with rfl | he
    · exact hb
    · exact h.2 e he

theorem writeKeys_wf {m : List Host.Cell} (ks : List Nat) (bs : List Byte) (h : Memory.wf m = true) :
    Memory.wf (writeKeys m ks bs) = true := by
  induction ks generalizing m bs with
  | nil => simpa [writeKeys] using h
  | cons k ks ih =>
    cases bs with
    | nil => simpa [writeKeys] using h
    | cons b bs => exact ih bs (memPut_wf k b h)

/-- Two canonical memories that read the same at every key are equal. -/
theorem Memory.ext {m n : List Host.Cell} (hm : Memory.wf m = true) (hn : Memory.wf n = true)
    (h : ∀ k, memGet m k = memGet n k) : m = n := by
  rw [Memory.wf_iff] at hm hn
  have low : ∀ (l : List Host.Cell) (k : Nat), (∀ e ∈ l, k < e.1) → memGet l k = 0 := by
    intro l k hl
    induction l with
    | nil => rfl
    | cons e r ih =>
      have : e.1 ≠ k := Nat.ne_of_gt (hl e (List.mem_cons_self ..))
      simp [memGet, this]
      exact ih (fun e he => hl e (List.mem_cons_of_mem _ he))
  induction m generalizing n with
  | nil =>
    cases n with
    | nil => rfl
    | cons e r =>
      have := h e.1
      simp [memGet] at this
      exact absurd this.symm (hn.2 e (List.mem_cons_self ..))
  | cons e r ih =>
    obtain ⟨m1, m2⟩ := List.pairwise_cons.mp hm.1
    cases n with
    | nil =>
      have := h e.1
      simp [memGet] at this
      exact absurd this (hm.2 e (List.mem_cons_self ..))
    | cons f q =>
      obtain ⟨n1, n2⟩ := List.pairwise_cons.mp hn.1
      have hef : e.1 = f.1 := by
        rcases Nat.lt_trichotomy e.1 f.1 with hlt | heq | hlt
        · have := h e.1
          rw [low (f :: q) e.1 (fun x hx => by
            rcases List.mem_cons.mp hx with rfl | hx
            · exact hlt
            · exact Nat.lt_trans hlt (n1 x hx))] at this
          simp [memGet] at this
          exact absurd this (hm.2 e (List.mem_cons_self ..))
        · exact heq
        · have := h f.1
          rw [low (e :: r) f.1 (fun x hx => by
            rcases List.mem_cons.mp hx with rfl | hx
            · exact hlt
            · exact Nat.lt_trans hlt (m1 x hx))] at this
          simp [memGet] at this
          exact absurd this.symm (hn.2 f (List.mem_cons_self ..))
      have hv : e = f := by
        have := h e.1
        simp [memGet, hef] at this
        exact Prod.ext hef this
      subst hv
      congr 1
      refine ih ⟨m2, fun x hx => hm.2 x (List.mem_cons_of_mem _ hx)⟩ ⟨n2, fun x hx => hn.2 x (List.mem_cons_of_mem _ hx)⟩ ?_
      intro k
      by_cases hk : e.1 = k
      · subst hk; rw [low r _ m1, low q _ n1]
      · simpa [memGet, hk] using h k

/-! ## Runs of bytes -/

theorem memGet_writeKeys_of_notMem (m : List Host.Cell) (ks : List Nat) (bs : List Byte) (k : Nat) (h : k ∉ ks) :
    memGet (writeKeys m ks bs) k = memGet m k := by
  induction ks generalizing m bs with
  | nil => rfl
  | cons a ks ih =>
    cases bs with
    | nil => rfl
    | cons b bs =>
      simp only [List.mem_cons, not_or] at h
      rw [writeKeys, ih _ _ h.2, memGet_memPut, if_neg h.1]

/-- Bytes written at distinct keys read back. -/
theorem readKeys_writeKeys (m : List Host.Cell) (ks : List Nat) (bs : List Byte) (hn : ks.Nodup) (hl : ks.length = bs.length) :
    readKeys (writeKeys m ks bs) ks = bs := by
  induction ks generalizing m bs with
  | nil => cases bs <;> simp_all [readKeys]
  | cons k ks ih =>
    cases bs with
    | nil => simp at hl
    | cons b bs =>
      obtain ⟨h1, h2⟩ := List.nodup_cons.mp hn
      have := ih (memPut m k b) bs h2 (by simpa using hl)
      simp only [readKeys, List.map_cons, writeKeys] at this ⊢
      rw [this, memGet_writeKeys_of_notMem _ _ _ _ h1, memGet_memPut, if_pos rfl]

theorem mem_keysFrom (k n j : Nat) : j ∈ keysFrom k n ↔ k ≤ j ∧ j < k + n := by
  simp only [keysFrom, List.mem_map, List.mem_range]
  constructor
  · rintro ⟨i, hi, rfl⟩; omega
  · rintro ⟨h1, h2⟩; exact ⟨j - k, by omega, by omega⟩

@[simp] theorem keysFrom_length (k n : Nat) : (keysFrom k n).length = n := by simp [keysFrom]

theorem keysFrom_nodup (k n : Nat) : (keysFrom k n).Nodup :=
  List.Nodup.map (fun _ _ h => Nat.add_left_cancel h) List.nodup_range

@[simp] theorem leBytes_length (n v : Nat) : (leBytes n v).length = n := by
  induction n generalizing v with
  | zero => rfl
  | succ n ih => simp [leBytes, ih]

/-- The value of the bytes of a number is the number, as far as the bytes reach (R5). -/
theorem leNat_leBytes (n v : Nat) : leNat (leBytes n v) = v % 2 ^ (8 * n) := by
  induction n generalizing v with
  | zero => simp [leBytes, leNat, Nat.mod_one]
  | succ n ih =>
    simp only [leBytes, leNat, ih, BitVec.toNat_ofNat]
    have : 2 ^ (8 * (n + 1)) = 256 * 2 ^ (8 * n) := by rw [show 8 * (n + 1) = 8 + 8 * n by ring, pow_add]; norm_num
    rw [this, Nat.mod_mul]

/-- A word written reads back. -/
theorem word64At_applyWrite (s : State) (k : Nat) (v : Word) :
    word64At (applyWrite s (keysFrom k 8) (leBytes 8 v.toNat)) k = v := by
  unfold word64At
  rw [applyWrite_mem, readKeys_writeKeys _ _ _ (keysFrom_nodup k 8) (by simp), leNat_leBytes]
  have h := v.isLt
  exact BitVec.eq_of_toNat_eq (by rw [BitVec.toNat_ofNat, Nat.mod_mod, Nat.mod_eq_of_lt h])

theorem word128At_write128 (s : State) (k : Nat) (v : BitVec 128) : word128At (write128 s k v) k = v := by
  unfold word128At write128
  rw [applyWrite_mem, readKeys_writeKeys _ _ _ (keysFrom_nodup k 16) (by simp), leNat_leBytes]
  have h := v.isLt
  exact BitVec.eq_of_toNat_eq (by rw [BitVec.toNat_ofNat, Nat.mod_mod, Nat.mod_eq_of_lt h])

theorem applyWrite_wf {s : State} (ks : List Nat) (bs : List Byte) (h : Memory.wf s.mem = true) :
    Memory.wf (applyWrite s ks bs).mem = true := writeKeys_wf ks bs h

/-- A byte outside the keys written reads as before. -/
theorem memGet_applyWrite (s : State) (ks : List Nat) (bs : List Byte) (k : Nat) (h : k ∉ ks) :
    memGet (applyWrite s ks bs).mem k = memGet s.mem k := memGet_writeKeys_of_notMem _ _ _ _ h

@[simp] theorem reset_mem_wf : Memory.wf State.reset.mem = true := by simp [State.reset]

end Sys2Proof.Machine
end

