-- ==== Sys2Proof/Laws/Operands.lean ====
section
/-! SUPPORT. What a word can do: it faults the model only where no take runs, waits unchanged, passes with its guard false, or performs. -/

namespace Sys2Proof.Machine

variable {s s' s1 : State} {grd : Guard} {src : Src} {u : BitVec 4} {v : Word}

theorem canIssue_phase {x : Thread} (h : canIssue x = true) : x.phase = .revocable ∨ x.phase = .irrevocable := by
  simp only [canIssue, Bool.and_eq_true, Bool.or_eq_true, beq_iff_eq] at h
  exact h.1.1.imp id And.left

/-- A word that may issue has the outcome that `f` gives, or waits. -/
theorem word_eq {f : Nat → BitVec 3 → Option State} (h : canIssue (thr s s.cur.1 s.cur.2) = true) :
    word s f = .next ((f s.cur.1 s.cur.2).getD s) := by
  have hp : ((thr s s.cur.1 s.cur.2).phase != .revocable && (thr s s.cur.1 s.cur.2).phase != .irrevocable) = false := by
    rcases canIssue_phase h with e | e <;> simp [e]
  simp [word, hp, h]

/-- All that a word can do, where it answers a next state. -/
theorem word_next {f : Nat → BitVec 3 → Option State} (h : word s f = .next s') :
    s' = s ∨ (canIssue (thr s s.cur.1 s.cur.2) = true ∧ f s.cur.1 s.cur.2 = some s') := by
  simp only [word] at h
  split at h
  · exact absurd h (by simp)
  · split at h
    · simp only [Host.Outcome.next.injEq] at h; exact .inl h.symm
    · rename_i hc
      simp only [Host.Outcome.next.injEq] at h
      cases hf : f s.cur.1 s.cur.2 with
      | none => rw [hf] at h; exact .inl h.symm
      | some t => rw [hf] at h; exact .inr ⟨by simpa using hc, by rw [← h]; rfl⟩

/-- A word faults the model exactly where no take runs on the acting thread. -/
theorem word_fault {f : Nat → BitVec 3 → Option State} {r : Fault} :
    word s f = .fault r ↔ (thr s s.cur.1 s.cur.2).phase ≠ .revocable ∧ (thr s s.cur.1 s.cur.2).phase ≠ .irrevocable := by
  cases r
  simp only [word]
  split
  · rename_i h
    simp only [Bool.and_eq_true, bne_iff_ne, ne_eq] at h
    simp [h]
  · rename_i h
    simp only [Bool.and_eq_true, bne_iff_ne, ne_eq] at h
    split <;> simp only [reduceCtorEq, false_iff] <;> exact h

/-- Reading a source changes nothing but the counter of free values. -/
theorem readSrc_state {c : Nat} {t : BitVec 3} (h : readSrc s c t src = some (v, s1)) :
    s1 = s ∨ s1 = { s with fresh := s.fresh + 1 } := by
  cases src <;> simp only [readSrc] at h
  · simp_all
  · simp_all
  · split at h <;> simp_all
  · split at h <;> simp_all
  · simp_all

@[simp] theorem thr_fresh (n : Nat) (c : Nat) (t : BitVec 3) : thr { s with fresh := n } c t = thr s c t := rfl

theorem readSrc_thr {c : Nat} {t : BitVec 3} (h : readSrc s c t src = some (v, s1)) (c' : Nat) (t' : BitVec 3) :
    thr s1 c' t' = thr s c' t' := by
  rcases readSrc_state h with rfl | rfl <;> rfl

/-- A trigger whose guard holds has the outcome of its operation, or waits. -/
theorem trigger_eq {f : Nat → BitVec 3 → Word → State → Option State} (hc : canIssue (thr s s.cur.1 s.cur.2) = true)
    (hr : readSrc s s.cur.1 s.cur.2 src = some (v, s1)) (hg : guardHolds (thr s s.cur.1 s.cur.2) grd = true) :
    trigger s grd src f = .next ((f s.cur.1 s.cur.2 v s1).getD s) := by
  rw [trigger, word_eq hc]
  simp [hr, hg]

/-- A trigger whose guard does not hold only passes (R46). -/
theorem trigger_passed {f : Nat → BitVec 3 → Word → State → Option State} (hc : canIssue (thr s s.cur.1 s.cur.2) = true)
    (hr : readSrc s s.cur.1 s.cur.2 src = some (v, s1)) (hg : guardHolds (thr s s.cur.1 s.cur.2) grd = false) :
    trigger s grd src f = .next (modThr s1 s.cur.1 s.cur.2 (fun x => advance x 4)) := by
  rw [trigger, word_eq hc]
  simp [hr, hg]

/-- All that a trigger can do, where it answers a next state: wait, pass, or perform. -/
theorem trigger_next {f : Nat → BitVec 3 → Word → State → Option State} (h : trigger s grd src f = .next s') :
    s' = s ∨ ∃ v s1, readSrc s s.cur.1 s.cur.2 src = some (v, s1) ∧
      ((guardHolds (thr s s.cur.1 s.cur.2) grd = true ∧ f s.cur.1 s.cur.2 v s1 = some s') ∨
       (guardHolds (thr s s.cur.1 s.cur.2) grd = false ∧ s' = modThr s1 s.cur.1 s.cur.2 (fun x => advance x 4))) := by
  rcases word_next h with h | ⟨-, h⟩
  · exact .inl h
  · cases hr : readSrc s s.cur.1 s.cur.2 src with
    | none => simp [hr] at h
    | some r =>
      obtain ⟨v, s1⟩ := r
      simp only [hr, Option.bind_some] at h
      refine .inr ⟨v, s1, rfl, ?_⟩
      split at h
      · rename_i hg; exact .inl ⟨hg, h⟩
      · rename_i hg
        simp only [Option.some.injEq] at h
        exact .inr ⟨by simpa using hg, h.symm⟩

/-- A trigger of a unit that is free performs its operation. -/
theorem trigger1_eq {f : Nat → BitVec 3 → Word → State → Option State} (hc : canIssue (thr s s.cur.1 s.cur.2) = true)
    (hr : readSrc s s.cur.1 s.cur.2 src = some (v, s1)) (hg : guardHolds (thr s s.cur.1 s.cur.2) grd = true)
    (hu : unitBusy (thr s s.cur.1 s.cur.2) u = false) :
    trigger1 s grd src u f = .next ((f s.cur.1 s.cur.2 v s1).getD s) := by
  rw [trigger1, trigger_eq hc hr hg, readSrc_thr hr, hu]
  simp

/-- A register-only operation that performs: its result is under way and the PC has moved on (R124). -/
theorem compute_eq {f : Word → Word → Word → Word} (hc : canIssue (thr s s.cur.1 s.cur.2) = true)
    (hr : readSrc s s.cur.1 s.cur.2 src = some (v, s1)) (hg : guardHolds (thr s s.cur.1 s.cur.2) grd = true)
    (hu : unitBusy (thr s s.cur.1 s.cur.2) u = false) :
    compute s grd src u f = .next (modThr s1 s.cur.1 s.cur.2 (fun x => withResult x u (f (rget x.la u) (rget x.lb u) v))) := by
  rw [compute, trigger1_eq hc hr hg hu]
  rfl

end Sys2Proof.Machine
end

