-- ==== Sys2Proof/Laws/PerInstr.lean ====
section
/-! SUPPORT. What holds of each instruction as syntax, one lemma per constructor. -/

namespace Sys2Proof.Laws

/-- R51: bits 1:0 of the first halfword of an encoding say its length: one halfword where they are 0, two where they are not. -/
def LengthAgrees.Statement (i : Instr) : Prop := ∀ h rest, encode i = h :: rest → (isH16 h = true ↔ rest = [])

/-- A 32-bit word whose low two bits are not 0 is two halfwords, and its first is no H16. -/
theorem w32_length (w : BitVec 32) (hw : w.extractLsb' 0 2 ≠ 0#2) :
    ∀ h rest, w32 w = h :: rest → (isH16 h = true ↔ rest = []) := by
  intro h rest he
  obtain ⟨rfl, rfl⟩ := List.cons.inj he
  have e : (w.extractLsb' 0 16).extractLsb' 0 2 = w.extractLsb' 0 2 := by
    ext i hi; simp
  simp [isH16, e, hw]

/-- The low bits of an append are those of its second part. -/
theorem low_append (n k : Nat) (x : BitVec n) (y : BitVec k) (hk : 2 ≤ k) : (x ++ y).extractLsb' 0 2 = y.extractLsb' 0 2 := by
  ext i hi
  have : i < k := by omega
  simp [BitVec.getLsbD_append, this]

/-- A trigger word is two halfwords. -/
theorem trig_length (g : Guard) (m op : BitVec 7) (u : BitVec 4) (s : Src) :
    ∀ h rest, trig g m op u s = h :: rest → (isH16 h = true ↔ rest = []) := by
  refine w32_length _ (fun e => ?_)
  exact absurd ((low_append 29 3 _ 1#3 (by decide)).symm.trans e) (by decide)

/-- An event has no encoding. -/
theorem event_length {i : Instr} (h : encode i = []) : LengthAgrees.Statement i := fun a r e => by rw [h] at e; cases e

theorem LengthAgrees.plainMove (src : Src) (dst : Dst) : LengthAgrees.Statement (.plainMove src dst) := by
  intro h rest he
  obtain ⟨rfl, rfl⟩ := List.cons.inj he
  have e := low_append 14 2 (src.toBits ++ dst.toBits) 0#2 (by decide)
  exact ⟨fun _ => rfl, fun _ => beq_iff_eq.mpr (e.trans (by decide))⟩
theorem LengthAgrees.pairWord (src1 : Src) (dst1 : Dst) (src2 : Src) (dst2 : Dst) : LengthAgrees.Statement (.pairWord src1 dst1 src2 dst2) := by
  refine w32_length _ (fun e => ?_)
  exact absurd ((low_append 28 4 _ 2#4 (by decide)).symm.trans e) (by decide)
theorem LengthAgrees.ldx (imm : BitVec 24) (q : BitVec 2) (n : BitVec 3) : LengthAgrees.Statement (.ldx imm q n) := by
  refine w32_length _ (fun e => ?_)
  exact absurd ((low_append 29 3 _ 3#3 (by decide)).symm.trans e) (by decide)
theorem LengthAgrees.ldi (imm : BitVec 20) (n : BitVec 5) : LengthAgrees.Statement (.ldi imm n) := by
  refine w32_length _ (fun e => ?_)
  exact absurd ((low_append 28 4 _ 7#4 (by decide)).symm.trans e) (by decide)
theorem LengthAgrees.bControl (off : BitVec 22) : LengthAgrees.Statement (.bControl off) := by
  refine w32_length _ (fun e => ?_)
  exact absurd ((low_append 26 6 _ 15#6 (by decide)).symm.trans e) (by decide)
theorem LengthAgrees.callControl (off : BitVec 22) : LengthAgrees.Statement (.callControl off) := by
  refine w32_length _ (fun e => ?_)
  exact absurd ((low_append 26 6 _ 31#6 (by decide)).symm.trans e) (by decide)
theorem LengthAgrees.add (u : IUnit) (grd : Guard) (src : Src) : LengthAgrees.Statement (.add u grd src) := trig_length _ _ _ _ _
theorem LengthAgrees.addw (u : IUnit) (grd : Guard) (src : Src) : LengthAgrees.Statement (.addw u grd src) := trig_length _ _ _ _ _
theorem LengthAgrees.sub (u : IUnit) (grd : Guard) (src : Src) : LengthAgrees.Statement (.sub u grd src) := trig_length _ _ _ _ _
theorem LengthAgrees.subw (u : IUnit) (grd : Guard) (src : Src) : LengthAgrees.Statement (.subw u grd src) := trig_length _ _ _ _ _
theorem LengthAgrees.andi (u : IUnit) (grd : Guard) (src : Src) : LengthAgrees.Statement (.andi u grd src) := trig_length _ _ _ _ _
theorem LengthAgrees.ori (u : IUnit) (grd : Guard) (src : Src) : LengthAgrees.Statement (.ori u grd src) := trig_length _ _ _ _ _
theorem LengthAgrees.xori (u : IUnit) (grd : Guard) (src : Src) : LengthAgrees.Statement (.xori u grd src) := trig_length _ _ _ _ _
theorem LengthAgrees.andn (u : IUnit) (grd : Guard) (src : Src) : LengthAgrees.Statement (.andn u grd src) := trig_length _ _ _ _ _
theorem LengthAgrees.orn (u : IUnit) (grd : Guard) (src : Src) : LengthAgrees.Statement (.orn u grd src) := trig_length _ _ _ _ _
theorem LengthAgrees.min (u : IUnit) (grd : Guard) (src : Src) : LengthAgrees.Statement (.min u grd src) := trig_length _ _ _ _ _
theorem LengthAgrees.max (u : IUnit) (grd : Guard) (src : Src) : LengthAgrees.Statement (.max u grd src) := trig_length _ _ _ _ _
theorem LengthAgrees.minu (u : IUnit) (grd : Guard) (src : Src) : LengthAgrees.Statement (.minu u grd src) := trig_length _ _ _ _ _
theorem LengthAgrees.maxu (u : IUnit) (grd : Guard) (src : Src) : LengthAgrees.Statement (.maxu u grd src) := trig_length _ _ _ _ _
theorem LengthAgrees.abs (u : IUnit) (grd : Guard) (src : Src) : LengthAgrees.Statement (.abs u grd src) := trig_length _ _ _ _ _
theorem LengthAgrees.pass (u : IUnit) (grd : Guard) (src : Src) : LengthAgrees.Statement (.pass u grd src) := trig_length _ _ _ _ _
theorem LengthAgrees.mul (grd : Guard) (src : Src) : LengthAgrees.Statement (.mul grd src) := trig_length _ _ _ _ _
theorem LengthAgrees.mulh (grd : Guard) (src : Src) : LengthAgrees.Statement (.mulh grd src) := trig_length _ _ _ _ _
theorem LengthAgrees.mulhu (grd : Guard) (src : Src) : LengthAgrees.Statement (.mulhu grd src) := trig_length _ _ _ _ _
theorem LengthAgrees.mulw (grd : Guard) (src : Src) : LengthAgrees.Statement (.mulw grd src) := trig_length _ _ _ _ _
theorem LengthAgrees.div (grd : Guard) (src : Src) : LengthAgrees.Statement (.div grd src) := trig_length _ _ _ _ _
theorem LengthAgrees.divu (grd : Guard) (src : Src) : LengthAgrees.Statement (.divu grd src) := trig_length _ _ _ _ _
theorem LengthAgrees.rem (grd : Guard) (src : Src) : LengthAgrees.Statement (.rem grd src) := trig_length _ _ _ _ _
theorem LengthAgrees.remu (grd : Guard) (src : Src) : LengthAgrees.Statement (.remu grd src) := trig_length _ _ _ _ _
theorem LengthAgrees.shl (grd : Guard) (src : Src) : LengthAgrees.Statement (.shl grd src) := trig_length _ _ _ _ _
theorem LengthAgrees.shr (grd : Guard) (src : Src) : LengthAgrees.Statement (.shr grd src) := trig_length _ _ _ _ _
theorem LengthAgrees.sha (grd : Guard) (src : Src) : LengthAgrees.Statement (.sha grd src) := trig_length _ _ _ _ _
theorem LengthAgrees.rol (grd : Guard) (src : Src) : LengthAgrees.Statement (.rol grd src) := trig_length _ _ _ _ _
theorem LengthAgrees.clz (grd : Guard) (src : Src) : LengthAgrees.Statement (.clz grd src) := trig_length _ _ _ _ _
theorem LengthAgrees.ctz (grd : Guard) (src : Src) : LengthAgrees.Statement (.ctz grd src) := trig_length _ _ _ _ _
theorem LengthAgrees.pop (grd : Guard) (src : Src) : LengthAgrees.Statement (.pop grd src) := trig_length _ _ _ _ _
theorem LengthAgrees.ext (grd : Guard) (src : Src) : LengthAgrees.Statement (.ext grd src) := trig_length _ _ _ _ _
theorem LengthAgrees.ins (grd : Guard) (src : Src) : LengthAgrees.Statement (.ins grd src) := trig_length _ _ _ _ _
theorem LengthAgrees.rev (grd : Guard) (src : Src) : LengthAgrees.Statement (.rev grd src) := trig_length _ _ _ _ _
theorem LengthAgrees.ceq (grd : Guard) (src : Src) (p : BitVec 3) : LengthAgrees.Statement (.ceq grd src p) := trig_length _ _ _ _ _
theorem LengthAgrees.cne (grd : Guard) (src : Src) (p : BitVec 3) : LengthAgrees.Statement (.cne grd src p) := trig_length _ _ _ _ _
theorem LengthAgrees.clt (grd : Guard) (src : Src) (p : BitVec 3) : LengthAgrees.Statement (.clt grd src p) := trig_length _ _ _ _ _
theorem LengthAgrees.cltu (grd : Guard) (src : Src) (p : BitVec 3) : LengthAgrees.Statement (.cltu grd src p) := trig_length _ _ _ _ _
theorem LengthAgrees.cge (grd : Guard) (src : Src) (p : BitVec 3) : LengthAgrees.Statement (.cge grd src p) := trig_length _ _ _ _ _
theorem LengthAgrees.cgeu (grd : Guard) (src : Src) (p : BitVec 3) : LengthAgrees.Statement (.cgeu grd src p) := trig_length _ _ _ _ _
theorem LengthAgrees.ctst (grd : Guard) (src : Src) (p : BitVec 3) : LengthAgrees.Statement (.ctst grd src p) := trig_length _ _ _ _ _
theorem LengthAgrees.pand (grd : Guard) (src : Src) (p : BitVec 3) : LengthAgrees.Statement (.pand grd src p) := trig_length _ _ _ _ _
theorem LengthAgrees.por (grd : Guard) (src : Src) (p : BitVec 3) : LengthAgrees.Statement (.por grd src p) := trig_length _ _ _ _ _
theorem LengthAgrees.pnot (grd : Guard) (src : Src) (p : BitVec 3) : LengthAgrees.Statement (.pnot grd src p) := trig_length _ _ _ _ _
theorem LengthAgrees.aadd (grd : Guard) (src : Src) : LengthAgrees.Statement (.aadd grd src) := trig_length _ _ _ _ _
theorem LengthAgrees.asub (grd : Guard) (src : Src) : LengthAgrees.Statement (.asub grd src) := trig_length _ _ _ _ _
theorem LengthAgrees.atag (grd : Guard) (src : Src) : LengthAgrees.Statement (.atag grd src) := trig_length _ _ _ _ _
theorem LengthAgrees.aget (grd : Guard) (src : Src) : LengthAgrees.Statement (.aget grd src) := trig_length _ _ _ _ _
theorem LengthAgrees.aidx (grd : Guard) (src : Src) : LengthAgrees.Statement (.aidx grd src) := trig_length _ _ _ _ _
theorem LengthAgrees.adiff (grd : Guard) (src : Src) : LengthAgrees.Statement (.adiff grd src) := trig_length _ _ _ _ _
theorem LengthAgrees.fadd (grd : Guard) (src : Src) (r : FRound) : LengthAgrees.Statement (.fadd grd src r) := trig_length _ _ _ _ _
theorem LengthAgrees.fsub (grd : Guard) (src : Src) (r : FRound) : LengthAgrees.Statement (.fsub grd src r) := trig_length _ _ _ _ _
theorem LengthAgrees.fmul (grd : Guard) (src : Src) (r : FRound) : LengthAgrees.Statement (.fmul grd src r) := trig_length _ _ _ _ _
theorem LengthAgrees.fma (grd : Guard) (src : Src) (r : FRound) : LengthAgrees.Statement (.fma grd src r) := trig_length _ _ _ _ _
theorem LengthAgrees.fmin (grd : Guard) (src : Src) : LengthAgrees.Statement (.fmin grd src) := trig_length _ _ _ _ _
theorem LengthAgrees.fmax (grd : Guard) (src : Src) : LengthAgrees.Statement (.fmax grd src) := trig_length _ _ _ _ _
theorem LengthAgrees.fabs (grd : Guard) (src : Src) : LengthAgrees.Statement (.fabs grd src) := trig_length _ _ _ _ _
theorem LengthAgrees.fneg (grd : Guard) (src : Src) : LengthAgrees.Statement (.fneg grd src) := trig_length _ _ _ _ _
theorem LengthAgrees.fsqrt (grd : Guard) (src : Src) (r : FRound) : LengthAgrees.Statement (.fsqrt grd src r) := trig_length _ _ _ _ _
theorem LengthAgrees.frcp (grd : Guard) (src : Src) (r : FRound) : LengthAgrees.Statement (.frcp grd src r) := trig_length _ _ _ _ _
theorem LengthAgrees.fdiv (grd : Guard) (src : Src) (r : FRound) : LengthAgrees.Statement (.fdiv grd src r) := trig_length _ _ _ _ _
theorem LengthAgrees.fcmp (grd : Guard) (src : Src) (c : FCond) (p : BitVec 3) : LengthAgrees.Statement (.fcmp grd src c p) := trig_length _ _ _ _ _
theorem LengthAgrees.fcvt (grd : Guard) (src : Src) (s d : Fmt) (nan : Bool) : LengthAgrees.Statement (.fcvt grd src s d nan) := trig_length _ _ _ _ _
theorem LengthAgrees.ld (grd : Guard) (src : Src) (z : Size) (sp : Space) (sx : Bool) : LengthAgrees.Statement (.ld grd src z sp sx) := trig_length _ _ _ _ _
theorem LengthAgrees.st (grd : Guard) (src : Src) (z : Size) (sp : Space) : LengthAgrees.Statement (.st grd src z sp) := trig_length _ _ _ _ _
theorem LengthAgrees.lda (grd : Guard) (src : Src) (z : Size) (sp : Space) (sc : Scope) : LengthAgrees.Statement (.lda grd src z sp sc) := trig_length _ _ _ _ _
theorem LengthAgrees.stl (grd : Guard) (src : Src) (z : Size) (sp : Space) (sc : Scope) : LengthAgrees.Statement (.stl grd src z sp sc) := trig_length _ _ _ _ _
theorem LengthAgrees.cas (grd : Guard) (src : Src) (z : Size) (sp : Space) : LengthAgrees.Statement (.cas grd src z sp) := trig_length _ _ _ _ _
theorem LengthAgrees.swp (grd : Guard) (src : Src) (z : Size) (sp : Space) : LengthAgrees.Statement (.swp grd src z sp) := trig_length _ _ _ _ _
theorem LengthAgrees.amo (grd : Guard) (src : Src) (op : AmoOp) (z : Size) (sp : Space) : LengthAgrees.Statement (.amo grd src op z sp) := trig_length _ _ _ _ _
theorem LengthAgrees.ared (grd : Guard) (src : Src) (op : AmoOp) (z : Size) : LengthAgrees.Statement (.ared grd src op z) := trig_length _ _ _ _ _
theorem LengthAgrees.rbr (grd : Guard) (src : Src) (sp : Space) (c : BitVec 4) : LengthAgrees.Statement (.rbr grd src sp c) := trig_length _ _ _ _ _
theorem LengthAgrees.fence (grd : Guard) (src : Src) (kinds : BitVec 4) (sc : Scope) : LengthAgrees.Statement (.fence grd src kinds sc) := trig_length _ _ _ _ _
theorem LengthAgrees.br (grd : Guard) (src : Src) : LengthAgrees.Statement (.br grd src) := trig_length _ _ _ _ _
theorem LengthAgrees.bi (grd : Guard) (src : Src) : LengthAgrees.Statement (.bi grd src) := trig_length _ _ _ _ _
theorem LengthAgrees.call (grd : Guard) (src : Src) : LengthAgrees.Statement (.call grd src) := trig_length _ _ _ _ _
theorem LengthAgrees.ret (grd : Guard) (src : Src) : LengthAgrees.Statement (.ret grd src) := trig_length _ _ _ _ _
theorem LengthAgrees.loop (grd : Guard) (src : Src) (n : BitVec 1) : LengthAgrees.Statement (.loop grd src n) := trig_length _ _ _ _ _
theorem LengthAgrees.lbrk (grd : Guard) (src : Src) (n : BitVec 1) : LengthAgrees.Statement (.lbrk grd src n) := trig_length _ _ _ _ _
theorem LengthAgrees.chnew (grd : Guard) (src : Src) (hr hs : BitVec 3) : LengthAgrees.Statement (.chnew grd src hr hs) := trig_length _ _ _ _ _
theorem LengthAgrees.snd (grd : Guard) (src : Src) (n : BitVec 3) (c : BitVec 4) : LengthAgrees.Statement (.snd grd src n c) := trig_length _ _ _ _ _
theorem LengthAgrees.sndh (grd : Guard) (src : Src) (n : BitVec 3) (c : BitVec 4) : LengthAgrees.Statement (.sndh grd src n c) := trig_length _ _ _ _ _
theorem LengthAgrees.rtry (grd : Guard) (src : Src) (p : BitVec 3) : LengthAgrees.Statement (.rtry grd src p) := trig_length _ _ _ _ _
theorem LengthAgrees.hmov (grd : Guard) (src : Src) (h : BitVec 3) : LengthAgrees.Statement (.hmov grd src h) := trig_length _ _ _ _ _
theorem LengthAgrees.hdup (grd : Guard) (src : Src) (h : BitVec 3) : LengthAgrees.Statement (.hdup grd src h) := trig_length _ _ _ _ _
theorem LengthAgrees.hclr (grd : Guard) (src : Src) : LengthAgrees.Statement (.hclr grd src) := trig_length _ _ _ _ _
theorem LengthAgrees.close (grd : Guard) (src : Src) : LengthAgrees.Statement (.close grd src) := trig_length _ _ _ _ _
theorem LengthAgrees.hkind (grd : Guard) (src : Src) : LengthAgrees.Statement (.hkind grd src) := trig_length _ _ _ _ _
theorem LengthAgrees.hsave (grd : Guard) (src : Src) (h : BitVec 3) : LengthAgrees.Statement (.hsave grd src h) := trig_length _ _ _ _ _
theorem LengthAgrees.hload (grd : Guard) (src : Src) (h : BitVec 3) : LengthAgrees.Statement (.hload grd src h) := trig_length _ _ _ _ _
theorem LengthAgrees.gsnd (grd : Guard) (src : Src) (n : BitVec 3) (c : BitVec 4) : LengthAgrees.Statement (.gsnd grd src n c) := trig_length _ _ _ _ _
theorem LengthAgrees.slate (grd : Guard) (src : Src) : LengthAgrees.Statement (.slate grd src) := trig_length _ _ _ _ _
theorem LengthAgrees.fin (grd : Guard) (src : Src) : LengthAgrees.Statement (.fin grd src) := trig_length _ _ _ _ _
theorem LengthAgrees.pin (grd : Guard) (src : Src) : LengthAgrees.Statement (.pin grd src) := trig_length _ _ _ _ _
theorem LengthAgrees.retake (grd : Guard) (src : Src) : LengthAgrees.Statement (.retake grd src) := trig_length _ _ _ _ _
theorem LengthAgrees.brk (grd : Guard) (src : Src) : LengthAgrees.Statement (.brk grd src) := trig_length _ _ _ _ _
theorem LengthAgrees.trap (grd : Guard) (src : Src) : LengthAgrees.Statement (.trap grd src) := trig_length _ _ _ _ _
theorem LengthAgrees.gcr (grd : Guard) (src : Src) : LengthAgrees.Statement (.gcr grd src) := trig_length _ _ _ _ _
theorem LengthAgrees.scr (grd : Guard) (src : Src) : LengthAgrees.Statement (.scr grd src) := trig_length _ _ _ _ _
theorem LengthAgrees.sig (grd : Guard) (src : Src) : LengthAgrees.Statement (.sig grd src) := trig_length _ _ _ _ _
theorem LengthAgrees.hset (grd : Guard) (src : Src) : LengthAgrees.Statement (.hset grd src) := trig_length _ _ _ _ _
theorem LengthAgrees.lnch (grd : Guard) (src : Src) : LengthAgrees.Statement (.lnch grd src) := trig_length _ _ _ _ _
theorem LengthAgrees.vld (grd : Guard) (src : Src) (sp : VSpace) (part : Part) (v : BitVec 5) : LengthAgrees.Statement (.vld grd src sp part v) := trig_length _ _ _ _ _
theorem LengthAgrees.vst (grd : Guard) (src : Src) (sp : VSpace) (part : Part) (v : BitVec 5) : LengthAgrees.Statement (.vst grd src sp part v) := trig_length _ _ _ _ _
theorem LengthAgrees.vbcast (grd : Guard) (src : Src) (t : ElTy) (v : BitVec 5) : LengthAgrees.Statement (.vbcast grd src t v) := trig_length _ _ _ _ _
theorem LengthAgrees.vperm (grd : Guard) (src : Src) (t : ElTy) (v : BitVec 5) : LengthAgrees.Statement (.vperm grd src t v) := trig_length _ _ _ _ _
theorem LengthAgrees.vmv (grd : Guard) (src : Src) (v : BitVec 5) : LengthAgrees.Statement (.vmv grd src v) := trig_length _ _ _ _ _
theorem LengthAgrees.vadd (grd : Guard) (src : Src) (t : ElTy) (v : BitVec 5) : LengthAgrees.Statement (.vadd grd src t v) := trig_length _ _ _ _ _
theorem LengthAgrees.vsub (grd : Guard) (src : Src) (t : ElTy) (v : BitVec 5) : LengthAgrees.Statement (.vsub grd src t v) := trig_length _ _ _ _ _
theorem LengthAgrees.vmul (grd : Guard) (src : Src) (t : ElTy) (v : BitVec 5) : LengthAgrees.Statement (.vmul grd src t v) := trig_length _ _ _ _ _
theorem LengthAgrees.vfma (grd : Guard) (src : Src) (t : ElTy) (v : BitVec 5) : LengthAgrees.Statement (.vfma grd src t v) := trig_length _ _ _ _ _
theorem LengthAgrees.vmax (grd : Guard) (src : Src) (t : ElTy) (v : BitVec 5) : LengthAgrees.Statement (.vmax grd src t v) := trig_length _ _ _ _ _
theorem LengthAgrees.vmin (grd : Guard) (src : Src) (t : ElTy) (v : BitVec 5) : LengthAgrees.Statement (.vmin grd src t v) := trig_length _ _ _ _ _
theorem LengthAgrees.vabs (grd : Guard) (src : Src) (t : ElTy) (v : BitVec 5) : LengthAgrees.Statement (.vabs grd src t v) := trig_length _ _ _ _ _
theorem LengthAgrees.vneg (grd : Guard) (src : Src) (t : ElTy) (v : BitVec 5) : LengthAgrees.Statement (.vneg grd src t v) := trig_length _ _ _ _ _
theorem LengthAgrees.vexp2 (grd : Guard) (src : Src) (t : ElTy) (v : BitVec 5) : LengthAgrees.Statement (.vexp2 grd src t v) := trig_length _ _ _ _ _
theorem LengthAgrees.vlog2 (grd : Guard) (src : Src) (t : ElTy) (v : BitVec 5) : LengthAgrees.Statement (.vlog2 grd src t v) := trig_length _ _ _ _ _
theorem LengthAgrees.vrcp (grd : Guard) (src : Src) (t : ElTy) (v : BitVec 5) : LengthAgrees.Statement (.vrcp grd src t v) := trig_length _ _ _ _ _
theorem LengthAgrees.vrsq (grd : Guard) (src : Src) (t : ElTy) (v : BitVec 5) : LengthAgrees.Statement (.vrsq grd src t v) := trig_length _ _ _ _ _
theorem LengthAgrees.vand (grd : Guard) (src : Src) (v : BitVec 5) : LengthAgrees.Statement (.vand grd src v) := trig_length _ _ _ _ _
theorem LengthAgrees.vor (grd : Guard) (src : Src) (v : BitVec 5) : LengthAgrees.Statement (.vor grd src v) := trig_length _ _ _ _ _
theorem LengthAgrees.vxor (grd : Guard) (src : Src) (v : BitVec 5) : LengthAgrees.Statement (.vxor grd src v) := trig_length _ _ _ _ _
theorem LengthAgrees.vsel (grd : Guard) (src : Src) (t : ElTy) (v : BitVec 5) : LengthAgrees.Statement (.vsel grd src t v) := trig_length _ _ _ _ _
theorem LengthAgrees.vcmp (grd : Guard) (src : Src) (c : VCond) (t : ElTy) (v : BitVec 5) : LengthAgrees.Statement (.vcmp grd src c t v) := trig_length _ _ _ _ _
theorem LengthAgrees.vamax (grd : Guard) (src : Src) (k : AmaxKind) : LengthAgrees.Statement (.vamax grd src k) := trig_length _ _ _ _ _
theorem LengthAgrees.vredadd (grd : Guard) (src : Src) (t : ElTy) : LengthAgrees.Statement (.vredadd grd src t) := trig_length _ _ _ _ _
theorem LengthAgrees.vredmax (grd : Guard) (src : Src) (t : ElTy) : LengthAgrees.Statement (.vredmax grd src t) := trig_length _ _ _ _ _
theorem LengthAgrees.vscan (grd : Guard) (src : Src) (t : ElTy) (v : BitVec 5) : LengthAgrees.Statement (.vscan grd src t v) := trig_length _ _ _ _ _
theorem LengthAgrees.vmerge (grd : Guard) (src : Src) (t : ElTy) (v : BitVec 5) : LengthAgrees.Statement (.vmerge grd src t v) := trig_length _ _ _ _ _
theorem LengthAgrees.vrecv (grd : Guard) (src : Src) (t : ElTy) (v : BitVec 5) : LengthAgrees.Statement (.vrecv grd src t v) := trig_length _ _ _ _ _
theorem LengthAgrees.vsnd (grd : Guard) (src : Src) (c : BitVec 4) : LengthAgrees.Statement (.vsnd grd src c) := trig_length _ _ _ _ _
theorem LengthAgrees.vcvt (grd : Guard) (src : Src) (blk : BitVec 2) (k : BitVec 4) (amx sr nan : Bool) (vd : BitVec 4) : LengthAgrees.Statement (.vcvt grd src blk k amx sr nan vd) := trig_length _ _ _ _ _
theorem LengthAgrees.tld (grd : Guard) (src : Src) (sp : VSpace) (t : BitVec 3) : LengthAgrees.Statement (.tld grd src sp t) := trig_length _ _ _ _ _
theorem LengthAgrees.tst (grd : Guard) (src : Src) (sp : VSpace) (t : BitVec 3) : LengthAgrees.Statement (.tst grd src sp t) := trig_length _ _ _ _ _
theorem LengthAgrees.tcst (grd : Guard) (src : Src) (sp : VSpace) (amx sr nan : Bool) (t : BitVec 3) : LengthAgrees.Statement (.tcst grd src sp amx sr nan t) := trig_length _ _ _ _ _
theorem LengthAgrees.tzero (grd : Guard) (src : Src) (t : BitVec 3) : LengthAgrees.Statement (.tzero grd src t) := trig_length _ _ _ _ _
theorem LengthAgrees.tmv (grd : Guard) (src : Src) (t : BitVec 3) : LengthAgrees.Statement (.tmv grd src t) := trig_length _ _ _ _ _
theorem LengthAgrees.mma (grd : Guard) (src : Src) (ta tb : Bool) (t : BitVec 3) (a : BitVec 2) : LengthAgrees.Statement (.mma grd src ta tb t a) := trig_length _ _ _ _ _
theorem LengthAgrees.mmsk (grd : Guard) (src : Src) (sk : BitVec 2) (t : BitVec 3) (a : BitVec 2) : LengthAgrees.Statement (.mmsk grd src sk t a) := trig_length _ _ _ _ _
theorem LengthAgrees.gmma (grd : Guard) (src : Src) (ta tb : Bool) (t : BitVec 3) (a : BitVec 2) : LengthAgrees.Statement (.gmma grd src ta tb t a) := trig_length _ _ _ _ _
theorem LengthAgrees.taccTile (grd : Guard) (src : Src) (amx sr : Bool) (t : BitVec 3) (a : BitVec 2) : LengthAgrees.Statement (.taccTile grd src amx sr t a) := trig_length _ _ _ _ _
theorem LengthAgrees.taccVector (grd : Guard) (src : Src) (v : BitVec 5) (a : BitVec 2) : LengthAgrees.Statement (.taccVector grd src v a) := trig_length _ _ _ _ _
theorem LengthAgrees.aclr (grd : Guard) (src : Src) (a : BitVec 2) : LengthAgrees.Statement (.aclr grd src a) := trig_length _ _ _ _ _
theorem LengthAgrees.skset (grd : Guard) (src : Src) (k : BitVec 2) : LengthAgrees.Statement (.skset grd src k) := trig_length _ _ _ _ _
theorem LengthAgrees.cpush (grd : Guard) (src : Src) : LengthAgrees.Statement (.cpush grd src) := trig_length _ _ _ _ _
theorem LengthAgrees.cpushn (grd : Guard) (src : Src) : LengthAgrees.Statement (.cpushn grd src) := trig_length _ _ _ _ _
theorem LengthAgrees.cpoll (grd : Guard) (src : Src) : LengthAgrees.Statement (.cpoll grd src) := trig_length _ _ _ _ _
theorem LengthAgrees.binit (grd : Guard) (src : Src) : LengthAgrees.Statement (.binit grd src) := trig_length _ _ _ _ _
theorem LengthAgrees.barr (grd : Guard) (src : Src) : LengthAgrees.Statement (.barr grd src) := trig_length _ _ _ _ _
theorem LengthAgrees.bwait (grd : Guard) (src : Src) (ph : BitVec 1) : LengthAgrees.Statement (.bwait grd src ph) := trig_length _ _ _ _ _
theorem LengthAgrees.bexp (grd : Guard) (src : Src) : LengthAgrees.Statement (.bexp grd src) := trig_length _ _ _ _ _
theorem LengthAgrees.hwbar (grd : Guard) (src : Src) : LengthAgrees.Statement (.hwbar grd src) := trig_length _ _ _ _ _
theorem LengthAgrees.gset (grd : Guard) (src : Src) : LengthAgrees.Statement (.gset grd src) := trig_length _ _ _ _ _
theorem LengthAgrees.gdec (grd : Guard) (src : Src) : LengthAgrees.Statement (.gdec grd src) := trig_length _ _ _ _ _
theorem LengthAgrees.rinit (grd : Guard) (src : Src) : LengthAgrees.Statement (.rinit grd src) := trig_length _ _ _ _ _
theorem LengthAgrees.rawait (grd : Guard) (src : Src) : LengthAgrees.Statement (.rawait grd src) := trig_length _ _ _ _ _
theorem LengthAgrees.rrel (grd : Guard) (src : Src) : LengthAgrees.Statement (.rrel grd src) := trig_length _ _ _ _ _
theorem LengthAgrees.rpeek (grd : Guard) (src : Src) : LengthAgrees.Statement (.rpeek grd src) := trig_length _ _ _ _ _
theorem LengthAgrees.mon (grd : Guard) (src : Src) : LengthAgrees.Statement (.mon grd src) := trig_length _ _ _ _ _
theorem LengthAgrees.mwait (grd : Guard) (src : Src) : LengthAgrees.Statement (.mwait grd src) := trig_length _ _ _ _ _
theorem LengthAgrees.dispatch (cell : Nat) : LengthAgrees.Statement (.dispatch cell) := event_length rfl
theorem LengthAgrees.engineFileAcquire (cell : Nat) : LengthAgrees.Statement (.engineFileAcquire cell) := event_length rfl
theorem LengthAgrees.unitOpComplete (cell th : Nat) (u : BitVec 4) : LengthAgrees.Statement (.unitOpComplete cell th u) := event_length rfl
theorem LengthAgrees.vxOpStart (cell : Nat) : LengthAgrees.Statement (.vxOpStart cell) := event_length rfl
theorem LengthAgrees.vxOpComplete (cell : Nat) : LengthAgrees.Statement (.vxOpComplete cell) := event_length rfl
theorem LengthAgrees.mxOpStart (cell : Nat) : LengthAgrees.Statement (.mxOpStart cell) := event_length rfl
theorem LengthAgrees.mxOpComplete (cell : Nat) : LengthAgrees.Statement (.mxOpComplete cell) := event_length rfl
theorem LengthAgrees.gmmaJoinComplete (grove ctx : Nat) : LengthAgrees.Statement (.gmmaJoinComplete grove ctx) := event_length rfl
theorem LengthAgrees.print (cell th : Nat) : LengthAgrees.Statement (.print cell th) := event_length rfl
theorem LengthAgrees.remoteRequestArrival (what : Arrival) : LengthAgrees.Statement (.remoteRequestArrival what) := event_length rfl
theorem LengthAgrees.remoteAnswer (id : Nat) : LengthAgrees.Statement (.remoteAnswer id) := event_length rfl
theorem LengthAgrees.budget (cell th : Nat) : LengthAgrees.Statement (.budget cell th) := event_length rfl
theorem LengthAgrees.tlbWalkComplete (grove ctx : Nat) (va : Word) : LengthAgrees.Statement (.tlbWalkComplete grove ctx va) := event_length rfl
theorem LengthAgrees.dataPkt (id : Nat) : LengthAgrees.Statement (.dataPkt id) := event_length rfl
theorem LengthAgrees.notePkt (id : Nat) : LengthAgrees.Statement (.notePkt id) := event_length rfl
theorem LengthAgrees.fwdPkt (id : Nat) : LengthAgrees.Statement (.fwdPkt id) := event_length rfl
theorem LengthAgrees.freePkt (id : Nat) : LengthAgrees.Statement (.freePkt id) := event_length rfl
theorem LengthAgrees.returnPkt (id : Nat) : LengthAgrees.Statement (.returnPkt id) := event_length rfl
theorem LengthAgrees.creditPkt (id : Nat) : LengthAgrees.Statement (.creditPkt id) := event_length rfl
theorem LengthAgrees.regPkt (id : Nat) : LengthAgrees.Statement (.regPkt id) := event_length rfl
theorem LengthAgrees.movedPkt (id : Nat) : LengthAgrees.Statement (.movedPkt id) := event_length rfl
theorem LengthAgrees.pullPkt (id : Nat) : LengthAgrees.Statement (.pullPkt id) := event_length rfl
theorem LengthAgrees.shipPkt (id : Nat) : LengthAgrees.Statement (.shipPkt id) := event_length rfl
theorem LengthAgrees.movePkt (id : Nat) : LengthAgrees.Statement (.movePkt id) := event_length rfl
theorem LengthAgrees.endPkt (id : Nat) : LengthAgrees.Statement (.endPkt id) := event_length rfl
theorem LengthAgrees.closerPkt (id : Nat) : LengthAgrees.Statement (.closerPkt id) := event_length rfl
theorem LengthAgrees.copyStart (cell : Nat) : LengthAgrees.Statement (.copyStart cell) := event_length rfl
theorem LengthAgrees.copyClaim (cell : Nat) : LengthAgrees.Statement (.copyClaim cell) := event_length rfl
theorem LengthAgrees.copyPublish (cell : Nat) : LengthAgrees.Statement (.copyPublish cell) := event_length rfl
theorem LengthAgrees.landingPacket (cell : Nat) : LengthAgrees.Statement (.landingPacket cell) := event_length rfl
theorem LengthAgrees.launchPlacement (die ctx : Nat) : LengthAgrees.Statement (.launchPlacement die ctx) := event_length rfl
theorem LengthAgrees.completionUp (launch grove : Nat) : LengthAgrees.Statement (.completionUp launch grove) := event_length rfl
theorem LengthAgrees.completionDown (launch grove : Nat) : LengthAgrees.Statement (.completionDown launch grove) := event_length rfl
theorem LengthAgrees.completionConfirm (launch grove : Nat) : LengthAgrees.Statement (.completionConfirm launch grove) := event_length rfl
theorem LengthAgrees.balancerSample (die : Nat) : LengthAgrees.Statement (.balancerSample die) := event_length rfl
theorem LengthAgrees.balancingInterval (die : Nat) : LengthAgrees.Statement (.balancingInterval die) := event_length rfl
theorem LengthAgrees.cellRetarget (cell ctx : Nat) : LengthAgrees.Statement (.cellRetarget cell ctx) := event_length rfl
theorem LengthAgrees.bwaitTimeout (cell th : Nat) : LengthAgrees.Statement (.bwaitTimeout cell th) := event_length rfl
theorem LengthAgrees.wiredCompletionDelivery (die set : Nat) : LengthAgrees.Statement (.wiredCompletionDelivery die set) := event_length rfl
theorem LengthAgrees.hwbarTimeout (cell th : Nat) : LengthAgrees.Statement (.hwbarTimeout cell th) := event_length rfl
theorem LengthAgrees.mwaitTimeout (cell th : Nat) : LengthAgrees.Statement (.mwaitTimeout cell th) := event_length rfl
theorem LengthAgrees.vrecvTimeout (cell : Nat) : LengthAgrees.Statement (.vrecvTimeout cell) := event_length rfl
theorem LengthAgrees.proxyAtomic (id : Nat) : LengthAgrees.Statement (.proxyAtomic id) := event_length rfl
theorem LengthAgrees.hostAtomicCompletion (die lane : Nat) (timedOut : Bool) : LengthAgrees.Statement (.hostAtomicCompletion die lane timedOut) := event_length rfl
theorem LengthAgrees.requestLost (id : Nat) : LengthAgrees.Statement (.requestLost id) := event_length rfl
theorem LengthAgrees.packetLifetimeExpiry (id : Nat) : LengthAgrees.Statement (.packetLifetimeExpiry id) := event_length rfl
theorem LengthAgrees.rdmaAck (cell : Nat) : LengthAgrees.Statement (.rdmaAck cell) := event_length rfl
theorem LengthAgrees.sqDoorbell (f : Nat) (t : BitVec 32) : LengthAgrees.Statement (.sqDoorbell f t) := event_length rfl
theorem LengthAgrees.hostDescriptorRead (f : Nat) : LengthAgrees.Statement (.hostDescriptorRead f) := event_length rfl
theorem LengthAgrees.cqHeadWrite (f : Nat) (v : BitVec 32) : LengthAgrees.Statement (.cqHeadWrite f v) := event_length rfl
theorem LengthAgrees.partitionReset (f : Nat) : LengthAgrees.Statement (.partitionReset f) := event_length rfl
theorem LengthAgrees.functionLevelReset (f : Nat) : LengthAgrees.Statement (.functionLevelReset f) := event_length rfl
theorem LengthAgrees.msixUnmask (f : Nat) (w : MsixWrite) : LengthAgrees.Statement (.msixUnmask f w) := event_length rfl
theorem LengthAgrees.preemptRequest (die ctx : Nat) (pre : Bool) : LengthAgrees.Statement (.preemptRequest die ctx pre) := event_length rfl
theorem LengthAgrees.killFlood (die ctx : Nat) : LengthAgrees.Statement (.killFlood die ctx) := event_length rfl
theorem LengthAgrees.killAtCell (cell ctx : Nat) : LengthAgrees.Statement (.killAtCell cell ctx) := event_length rfl
theorem LengthAgrees.routerSweepEnd (die ctx : Nat) : LengthAgrees.Statement (.routerSweepEnd die ctx) := event_length rfl
theorem LengthAgrees.killDoneReport (cell ctx : Nat) : LengthAgrees.Statement (.killDoneReport cell ctx) := event_length rfl
theorem LengthAgrees.reportRingRidxWrite (die ctx : Nat) (v : BitVec 32) : LengthAgrees.Statement (.reportRingRidxWrite die ctx v) := event_length rfl
theorem LengthAgrees.releaseRegisterWrite (cell : Nat) (w : Word) : LengthAgrees.Statement (.releaseRegisterWrite cell w) := event_length rfl
theorem LengthAgrees.stageHoldWrite (die stage : Nat) : LengthAgrees.Statement (.stageHoldWrite die stage) := event_length rfl
theorem LengthAgrees.groupTableWrite (die idx : Nat) (entry : BitVec 384) : LengthAgrees.Statement (.groupTableWrite die idx entry) := event_length rfl
theorem LengthAgrees.wiredSetWrite (die set : Nat) (w : Word) : LengthAgrees.Statement (.wiredSetWrite die set w) := event_length rfl
theorem LengthAgrees.gateWrite (grove gate : Nat) (w : Word) : LengthAgrees.Statement (.gateWrite grove gate w) := event_length rfl
theorem LengthAgrees.reductionWindowWrite (n : Nat) (w : Word) : LengthAgrees.Statement (.reductionWindowWrite n w) := event_length rfl
theorem LengthAgrees.pinnedRegionWrite (grove idx : Nat) (entry : BitVec 128) : LengthAgrees.Statement (.pinnedRegionWrite grove idx entry) := event_length rfl
theorem LengthAgrees.invalidation (ctx : Nat) (va : Word) (level : BitVec 2) : LengthAgrees.Statement (.invalidation ctx va level) := event_length rfl
theorem LengthAgrees.perfSelectorWrite (cell n : Nat) (w : Word) : LengthAgrees.Statement (.perfSelectorWrite cell n w) := event_length rfl
theorem LengthAgrees.balancerControlWrite (die : Nat) (w : Word) : LengthAgrees.Statement (.balancerControlWrite die w) := event_length rfl
theorem LengthAgrees.managementRegisterWrite (by_ : Writer) (off : Nat) (w : Word) :
    LengthAgrees.Statement (.managementRegisterWrite by_ off w) := event_length rfl
theorem LengthAgrees.createCmd : LengthAgrees.Statement .createCmd := event_length rfl
theorem LengthAgrees.grantCmd : LengthAgrees.Statement .grantCmd := event_length rfl
theorem LengthAgrees.sessionCmd : LengthAgrees.Statement .sessionCmd := event_length rfl
theorem LengthAgrees.keyServiceReply (accept : Bool) (volumes : List (BitVec 6 × BitVec 512))  (tenantKey : BitVec 256) : LengthAgrees.Statement (.keyServiceReply accept volumes tenantKey) := event_length rfl
theorem LengthAgrees.sessionTimeout : LengthAgrees.Statement .sessionTimeout := event_length rfl
theorem LengthAgrees.rangeCmd : LengthAgrees.Statement .rangeCmd := event_length rfl
theorem LengthAgrees.sweepCmd : LengthAgrees.Statement .sweepCmd := event_length rfl
theorem LengthAgrees.sweepBlock (range : Nat) : LengthAgrees.Statement (.sweepBlock range) := event_length rfl
theorem LengthAgrees.readCmd : LengthAgrees.Statement .readCmd := event_length rfl
theorem LengthAgrees.eraseCmd : LengthAgrees.Statement .eraseCmd := event_length rfl
theorem LengthAgrees.sleepCmd : LengthAgrees.Statement .sleepCmd := event_length rfl
theorem LengthAgrees.extendCmd : LengthAgrees.Statement .extendCmd := event_length rfl
theorem LengthAgrees.mailboxInvalidCommand : LengthAgrees.Statement .mailboxInvalidCommand := event_length rfl
theorem LengthAgrees.wake (accepted : List (BitVec 32)) : LengthAgrees.Statement (.wake accepted) := event_length rfl
theorem LengthAgrees.coldBoot (first second : Option (BitVec 256)) (nivar config nivarConfig : BitVec 256) : LengthAgrees.Statement (.coldBoot first second nivar config nivarConfig) := event_length rfl
theorem LengthAgrees.dieTestComplete (die : Nat) (ok : Bool) (digest : BitVec 256) : LengthAgrees.Statement (.dieTestComplete die ok digest) := event_length rfl
theorem LengthAgrees.hbmTrainingComplete (die : Nat) (ok : Bool) : LengthAgrees.Statement (.hbmTrainingComplete die ok) := event_length rfl
theorem LengthAgrees.fourBitTestComplete (die : Nat) (ok : Bool) : LengthAgrees.Statement (.fourBitTestComplete die ok) := event_length rfl
theorem LengthAgrees.clockThrottle (die : Nat) : LengthAgrees.Statement (.clockThrottle die) := event_length rfl
theorem LengthAgrees.clockRestore (die : Nat) : LengthAgrees.Statement (.clockRestore die) := event_length rfl
theorem LengthAgrees.illegalWord : LengthAgrees.Statement .illegalWord := event_length rfl
theorem LengthAgrees.acknowledgement (id : Nat) : LengthAgrees.Statement (.acknowledgement id) := event_length rfl
theorem LengthAgrees.planeLoss (plane : Nat) : LengthAgrees.Statement (.planeLoss plane) := event_length rfl
theorem LengthAgrees.hostCompletionTimeout (what : HostRead) : LengthAgrees.Statement (.hostCompletionTimeout what) := event_length rfl
theorem LengthAgrees.queuePairError (cell : Nat) : LengthAgrees.Statement (.queuePairError cell) := event_length rfl
theorem LengthAgrees.unsupportedRdmaArrival (port : Nat) : LengthAgrees.Statement (.unsupportedRdmaArrival port) := event_length rfl
theorem LengthAgrees.bringupClockRaise (die : Nat) : LengthAgrees.Statement (.bringupClockRaise die) := event_length rfl
theorem LengthAgrees.hostFlushReadComplete (ctx : Nat) : LengthAgrees.Statement (.hostFlushReadComplete ctx) := event_length rfl

end Sys2Proof.Laws
end

