-- ==== Sys2Proof/Laws/Words.lean ====
section
/-! SUPPORT. Every trigger word is a `trigger` of its guard and source: what holds of triggers holds of all of them. -/

namespace Sys2Proof.Machine

theorem exec_trigger {i : Instr} {grd : Guard} {src : Src} (h : i.trigger? = some (grd, src)) (s : State) :
    ∃ f, exec i s = trigger s grd src f := by
  cases i <;> cases h
  case add => simp only [exec_add, execAdd, compute, trigger1]; exact ⟨_, rfl⟩
  case addw => simp only [exec_addw, execAddw, compute, trigger1]; exact ⟨_, rfl⟩
  case sub => simp only [exec_sub, execSub, compute, trigger1]; exact ⟨_, rfl⟩
  case subw => simp only [exec_subw, execSubw, compute, trigger1]; exact ⟨_, rfl⟩
  case andi => simp only [exec_andi, execAndi, compute, trigger1]; exact ⟨_, rfl⟩
  case ori => simp only [exec_ori, execOri, compute, trigger1]; exact ⟨_, rfl⟩
  case xori => simp only [exec_xori, execXori, compute, trigger1]; exact ⟨_, rfl⟩
  case andn => simp only [exec_andn, execAndn, compute, trigger1]; exact ⟨_, rfl⟩
  case orn => simp only [exec_orn, execOrn, compute, trigger1]; exact ⟨_, rfl⟩
  case min => simp only [exec_min, execMin, compute, trigger1]; exact ⟨_, rfl⟩
  case max => simp only [exec_max, execMax, compute, trigger1]; exact ⟨_, rfl⟩
  case minu => simp only [exec_minu, execMinu, compute, trigger1]; exact ⟨_, rfl⟩
  case maxu => simp only [exec_maxu, execMaxu, compute, trigger1]; exact ⟨_, rfl⟩
  case abs => simp only [exec_abs, execAbs, compute, trigger1]; exact ⟨_, rfl⟩
  case pass => simp only [exec_pass, execPass, compute, trigger1]; exact ⟨_, rfl⟩
  case mul => simp only [exec_mul, execMul, compute, trigger1]; exact ⟨_, rfl⟩
  case mulh => simp only [exec_mulh, execMulh, compute, trigger1]; exact ⟨_, rfl⟩
  case mulhu => simp only [exec_mulhu, execMulhu, compute, trigger1]; exact ⟨_, rfl⟩
  case mulw => simp only [exec_mulw, execMulw, compute, trigger1]; exact ⟨_, rfl⟩
  case div => simp only [exec_div, execDiv, compute, trigger1]; exact ⟨_, rfl⟩
  case divu => simp only [exec_divu, execDivu, compute, trigger1]; exact ⟨_, rfl⟩
  case rem => simp only [exec_rem, execRem, compute, trigger1]; exact ⟨_, rfl⟩
  case remu => simp only [exec_remu, execRemu, compute, trigger1]; exact ⟨_, rfl⟩
  case shl => simp only [exec_shl, execShl, compute, trigger1]; exact ⟨_, rfl⟩
  case shr => simp only [exec_shr, execShr, compute, trigger1]; exact ⟨_, rfl⟩
  case sha => simp only [exec_sha, execSha, compute, trigger1]; exact ⟨_, rfl⟩
  case rol => simp only [exec_rol, execRol, compute, trigger1]; exact ⟨_, rfl⟩
  case clz => simp only [exec_clz, execClz, compute, trigger1]; exact ⟨_, rfl⟩
  case ctz => simp only [exec_ctz, execCtz, compute, trigger1]; exact ⟨_, rfl⟩
  case pop => simp only [exec_pop, execPop, compute, trigger1]; exact ⟨_, rfl⟩
  case ext => simp only [exec_ext, execExt, compute, trigger1]; exact ⟨_, rfl⟩
  case ins => simp only [exec_ins, execIns, compute, trigger1]; exact ⟨_, rfl⟩
  case rev => simp only [exec_rev, execRev, compute, trigger1]; exact ⟨_, rfl⟩
  case ceq => simp only [exec_ceq, execCeq, comparePred, trigger1]; exact ⟨_, rfl⟩
  case cne => simp only [exec_cne, execCne, comparePred, trigger1]; exact ⟨_, rfl⟩
  case clt => simp only [exec_clt, execClt, comparePred, trigger1]; exact ⟨_, rfl⟩
  case cltu => simp only [exec_cltu, execCltu, comparePred, trigger1]; exact ⟨_, rfl⟩
  case cge => simp only [exec_cge, execCge, comparePred, trigger1]; exact ⟨_, rfl⟩
  case cgeu => simp only [exec_cgeu, execCgeu, comparePred, trigger1]; exact ⟨_, rfl⟩
  case ctst => simp only [exec_ctst, execCtst, comparePred, trigger1]; exact ⟨_, rfl⟩
  case pand => simp only [exec_pand, execPand, comparePred, trigger1]; exact ⟨_, rfl⟩
  case por => simp only [exec_por, execPor, comparePred, trigger1]; exact ⟨_, rfl⟩
  case pnot => simp only [exec_pnot, execPnot, comparePred, trigger1]; exact ⟨_, rfl⟩
  case aadd => simp only [exec_aadd, execAadd, compute, trigger1]; exact ⟨_, rfl⟩
  case asub => simp only [exec_asub, execAsub, compute, trigger1]; exact ⟨_, rfl⟩
  case atag => simp only [exec_atag, execAtag, compute, trigger1]; exact ⟨_, rfl⟩
  case aget => simp only [exec_aget, execAget, compute, trigger1]; exact ⟨_, rfl⟩
  case aidx => simp only [exec_aidx, execAidx, trigger1]; exact ⟨_, rfl⟩
  case adiff => simp only [exec_adiff, execAdiff, compute, trigger1]; exact ⟨_, rfl⟩
  case fadd => simp only [exec_fadd, execFadd, scalarFp, trigger1]; exact ⟨_, rfl⟩
  case fsub => simp only [exec_fsub, execFsub, scalarFp, trigger1]; exact ⟨_, rfl⟩
  case fmul => simp only [exec_fmul, execFmul, scalarFp, trigger1]; exact ⟨_, rfl⟩
  case fma => simp only [exec_fma, execFma, scalarFp, trigger1]; exact ⟨_, rfl⟩
  case fmin => simp only [exec_fmin, execFmin, scalarFp, trigger1]; exact ⟨_, rfl⟩
  case fmax => simp only [exec_fmax, execFmax, scalarFp, trigger1]; exact ⟨_, rfl⟩
  case fabs => simp only [exec_fabs, execFabs, scalarFp, trigger1]; exact ⟨_, rfl⟩
  case fneg => simp only [exec_fneg, execFneg, scalarFp, trigger1]; exact ⟨_, rfl⟩
  case fsqrt => simp only [exec_fsqrt, execFsqrt, scalarFp, trigger1]; exact ⟨_, rfl⟩
  case frcp => simp only [exec_frcp, execFrcp, scalarFp, trigger1]; exact ⟨_, rfl⟩
  case fdiv => simp only [exec_fdiv, execFdiv, scalarFp, trigger1]; exact ⟨_, rfl⟩
  case fcmp => simp only [exec_fcmp, execFcmp, trigger1]; exact ⟨_, rfl⟩
  case fcvt => simp only [exec_fcvt, execFcvt, trigger1]; exact ⟨_, rfl⟩
  case ld => simp only [exec_ld, execLd, loadWord]; exact ⟨_, rfl⟩
  case st => simp only [exec_st, execSt, storeWord]; exact ⟨_, rfl⟩
  case lda => simp only [exec_lda, execLda, loadWord]; exact ⟨_, rfl⟩
  case stl => simp only [exec_stl, execStl, storeWord]; exact ⟨_, rfl⟩
  case cas => simp only [exec_cas, execCas, atomicWord]; exact ⟨_, rfl⟩
  case swp => simp only [exec_swp, execSwp, atomicWord]; exact ⟨_, rfl⟩
  case amo => simp only [exec_amo, execAmo, atomicWord]; exact ⟨_, rfl⟩
  case ared => simp only [exec_ared, execAred]; exact ⟨_, rfl⟩
  case rbr => simp only [exec_rbr, execRbr]; exact ⟨_, rfl⟩
  case fence => simp only [exec_fence, execFence]; exact ⟨_, rfl⟩
  case br => simp only [exec_br, execBr, trigger1]; exact ⟨_, rfl⟩
  case bi => simp only [exec_bi, execBi, trigger1]; exact ⟨_, rfl⟩
  case call => simp only [exec_call, execCall, trigger1]; exact ⟨_, rfl⟩
  case ret => simp only [exec_ret, execRet, trigger1]; exact ⟨_, rfl⟩
  case loop => simp only [exec_loop, execLoop, trigger1]; exact ⟨_, rfl⟩
  case lbrk => simp only [exec_lbrk, execLbrk, trigger1]; exact ⟨_, rfl⟩
  case chnew => simp only [exec_chnew, execChnew, trigger1]; exact ⟨_, rfl⟩
  case snd => simp only [exec_snd, execSnd, trigger1]; exact ⟨_, rfl⟩
  case sndh => simp only [exec_sndh, execSndh, trigger1]; exact ⟨_, rfl⟩
  case rtry => simp only [exec_rtry, execRtry, trigger1]; exact ⟨_, rfl⟩
  case hmov => simp only [exec_hmov, execHmov, handleWord, trigger1]; exact ⟨_, rfl⟩
  case hdup => simp only [exec_hdup, execHdup, handleWord, trigger1]; exact ⟨_, rfl⟩
  case hclr => simp only [exec_hclr, execHclr, handleWord, trigger1]; exact ⟨_, rfl⟩
  case close => simp only [exec_close, execClose, handleWord, trigger1]; exact ⟨_, rfl⟩
  case hkind => simp only [exec_hkind, execHkind, handleWord, trigger1]; exact ⟨_, rfl⟩
  case hsave => simp only [exec_hsave, execHsave, trigger1]; exact ⟨_, rfl⟩
  case hload => simp only [exec_hload, execHload, trigger1]; exact ⟨_, rfl⟩
  case gsnd => simp only [exec_gsnd, execGsnd, trigger1]; exact ⟨_, rfl⟩
  case slate => simp only [exec_slate, execSlate, trigger1]; exact ⟨_, rfl⟩
  case fin => simp only [exec_fin, execFin, trigger1]; exact ⟨_, rfl⟩
  case pin => simp only [exec_pin, execPin, trigger1]; exact ⟨_, rfl⟩
  case retake => simp only [exec_retake, execRetake, trigger1]; exact ⟨_, rfl⟩
  case brk => simp only [exec_brk, execBrk, trigger1]; exact ⟨_, rfl⟩
  case trap => simp only [exec_trap, execTrap, trigger1]; exact ⟨_, rfl⟩
  case gcr => simp only [exec_gcr, execGcr, controlWord, trigger1]; exact ⟨_, rfl⟩
  case scr => simp only [exec_scr, execScr, controlWord, trigger1]; exact ⟨_, rfl⟩
  case sig => simp only [exec_sig, execSig, trigger1]; exact ⟨_, rfl⟩
  case hset => simp only [exec_hset, execHset, trigger1]; exact ⟨_, rfl⟩
  case lnch => simp only [exec_lnch, execLnch, trigger1]; exact ⟨_, rfl⟩
  case vld => simp only [exec_vld, execVld, engineWord, vxWord]; exact ⟨_, rfl⟩
  case vst => simp only [exec_vst, execVst, engineWord, vxWord]; exact ⟨_, rfl⟩
  case vbcast => simp only [exec_vbcast, execVbcast, engineWord, vxPlain, vxWord]; exact ⟨_, rfl⟩
  case vperm => simp only [exec_vperm, execVperm, engineWord, vxPlain, vxWord]; exact ⟨_, rfl⟩
  case vmv => simp only [exec_vmv, execVmv, engineWord, vxPlain, vxWord]; exact ⟨_, rfl⟩
  case vadd => simp only [exec_vadd, execVadd, engineWord, vxPlain, vxWord]; exact ⟨_, rfl⟩
  case vsub => simp only [exec_vsub, execVsub, engineWord, vxPlain, vxWord]; exact ⟨_, rfl⟩
  case vmul => simp only [exec_vmul, execVmul, engineWord, vxPlain, vxWord]; exact ⟨_, rfl⟩
  case vfma => simp only [exec_vfma, execVfma, engineWord, vxPlain, vxWord]; exact ⟨_, rfl⟩
  case vmax => simp only [exec_vmax, execVmax, engineWord, vxPlain, vxWord]; exact ⟨_, rfl⟩
  case vmin => simp only [exec_vmin, execVmin, engineWord, vxPlain, vxWord]; exact ⟨_, rfl⟩
  case vabs => simp only [exec_vabs, execVabs, engineWord, vxPlain, vxWord]; exact ⟨_, rfl⟩
  case vneg => simp only [exec_vneg, execVneg, engineWord, vxPlain, vxWord]; exact ⟨_, rfl⟩
  case vexp2 => simp only [exec_vexp2, execVexp2, engineWord, vxPlain, vxWord]; exact ⟨_, rfl⟩
  case vlog2 => simp only [exec_vlog2, execVlog2, engineWord, vxPlain, vxWord]; exact ⟨_, rfl⟩
  case vrcp => simp only [exec_vrcp, execVrcp, engineWord, vxPlain, vxWord]; exact ⟨_, rfl⟩
  case vrsq => simp only [exec_vrsq, execVrsq, engineWord, vxPlain, vxWord]; exact ⟨_, rfl⟩
  case vand => simp only [exec_vand, execVand, engineWord, vxPlain, vxWord]; exact ⟨_, rfl⟩
  case vor => simp only [exec_vor, execVor, engineWord, vxPlain, vxWord]; exact ⟨_, rfl⟩
  case vxor => simp only [exec_vxor, execVxor, engineWord, vxPlain, vxWord]; exact ⟨_, rfl⟩
  case vsel => simp only [exec_vsel, execVsel, engineWord, vxPlain, vxWord]; exact ⟨_, rfl⟩
  case vcmp => simp only [exec_vcmp, execVcmp, engineWord, vxPlain, vxWord]; exact ⟨_, rfl⟩
  case vamax => simp only [exec_vamax, execVamax, engineWord, vxPlain, vxWord]; exact ⟨_, rfl⟩
  case vredadd => simp only [exec_vredadd, execVredadd, engineWord, vxPlain, vxWord]; exact ⟨_, rfl⟩
  case vredmax => simp only [exec_vredmax, execVredmax, engineWord, vxPlain, vxWord]; exact ⟨_, rfl⟩
  case vscan => simp only [exec_vscan, execVscan, engineWord, vxPlain, vxWord]; exact ⟨_, rfl⟩
  case vmerge => simp only [exec_vmerge, execVmerge, engineWord, vxPlain, vxWord]; exact ⟨_, rfl⟩
  case vrecv => simp only [exec_vrecv, execVrecv, engineWord, vxWord]; exact ⟨_, rfl⟩
  case vsnd => simp only [exec_vsnd, execVsnd, engineWord, vxWord]; exact ⟨_, rfl⟩
  case vcvt => simp only [exec_vcvt, execVcvt, engineWord, vxPlain, vxWord]; exact ⟨_, rfl⟩
  case tld => simp only [exec_tld, execTld, engineWord, mxWord]; exact ⟨_, rfl⟩
  case tst => simp only [exec_tst, execTst, engineWord, mxWord]; exact ⟨_, rfl⟩
  case tcst => simp only [exec_tcst, execTcst, engineWord, mxWord]; exact ⟨_, rfl⟩
  case tzero => simp only [exec_tzero, execTzero, engineWord, mxPlain, mxWord]; exact ⟨_, rfl⟩
  case tmv => simp only [exec_tmv, execTmv, engineWord, mxPlain, mxWord]; exact ⟨_, rfl⟩
  case mma => simp only [exec_mma, execMma, engineWord, mxPlain, mxWord]; exact ⟨_, rfl⟩
  case mmsk => simp only [exec_mmsk, execMmsk, engineWord, mxWord]; exact ⟨_, rfl⟩
  case gmma => simp only [exec_gmma, execGmma, engineWord, mxWord]; exact ⟨_, rfl⟩
  case taccTile => simp only [exec_taccTile, execTaccTile, engineWord, mxPlain, mxWord]; exact ⟨_, rfl⟩
  case taccVector => simp only [exec_taccVector, execTaccVector, engineWord, mxPlain, mxWord]; exact ⟨_, rfl⟩
  case aclr => simp only [exec_aclr, execAclr, engineWord, mxPlain, mxWord]; exact ⟨_, rfl⟩
  case skset => simp only [exec_skset, execSkset, engineWord, mxPlain, mxWord]; exact ⟨_, rfl⟩
  case cpush => simp only [exec_cpush, execCpush, cpWord]; exact ⟨_, rfl⟩
  case cpushn => simp only [exec_cpushn, execCpushn, cpWord]; exact ⟨_, rfl⟩
  case cpoll => simp only [exec_cpoll, execCpoll, cpWord]; exact ⟨_, rfl⟩
  case binit => simp only [exec_binit, execBinit, barrierWord, trigger1]; exact ⟨_, rfl⟩
  case barr => simp only [exec_barr, execBarr, barrierWord, trigger1]; exact ⟨_, rfl⟩
  case bwait => simp only [exec_bwait, execBwait, barrierWord, trigger1]; exact ⟨_, rfl⟩
  case bexp => simp only [exec_bexp, execBexp, barrierWord, trigger1]; exact ⟨_, rfl⟩
  case hwbar => simp only [exec_hwbar, execHwbar, trigger1]; exact ⟨_, rfl⟩
  case gset => simp only [exec_gset, execGset, trigger1]; exact ⟨_, rfl⟩
  case gdec => simp only [exec_gdec, execGdec, trigger1]; exact ⟨_, rfl⟩
  case rinit => simp only [exec_rinit, execRinit, reelWord, trigger1]; exact ⟨_, rfl⟩
  case rawait => simp only [exec_rawait, execRawait, reelWord, trigger1]; exact ⟨_, rfl⟩
  case rrel => simp only [exec_rrel, execRrel, reelWord, trigger1]; exact ⟨_, rfl⟩
  case rpeek => simp only [exec_rpeek, execRpeek, reelWord, trigger1]; exact ⟨_, rfl⟩
  case mon => simp only [exec_mon, execMon, trigger1]; exact ⟨_, rfl⟩
  case mwait => simp only [exec_mwait, execMwait, trigger1]; exact ⟨_, rfl⟩

end Sys2Proof.Machine
end

