-- ==== Sys2Proof/Safety.lean ====
section
/-! DEFINITION. What counts as a safe run: the machine keeps stepping, stopped neither by a fault of the model nor by a refusal. -/

namespace Sys2Proof

/-- The machine can take a step from `s`. -/
def CanStep (s : Machine.State) : Prop := ∃ t, Machine.step s = .next t

/-- `n` steps from `s` end in a next state. -/
def SafeFor (n : Nat) (s : Machine.State) : Prop := ∃ t, core.run n s = .next t

end Sys2Proof
end

