-- ==== Sys2Proof/Tests/Slice0.lean ====
section
/-! SUPPORT. Tests: decoding of the spec's words, ill-formed terms, single steps with results worked out from the spec, and for every statement
with hypotheses states that meet them. -/

set_option Elab.async false -- one theorem at a time: the tests compile in one thread

namespace Sys2Proof.Tests

open Sys2Proof Sys2Proof.Machine Sys2Proof.Claims

/-! ## Decoding: words written from Tables 3.2 to 3.20

Words of Tables 3.21, 6.2, 7.3, 8.4, 9.8, 10.4, 11.1, 12.5, 12.14, 14.3 and 15.4 stand as printed there; the others are put together by hand
from guard, modifier, opcode, unit and source of Table 3.4. -/

/-- Every word of a list decodes to the instruction beside it, and that instruction is well formed and encodes to the word. -/
def reads (l : List (Nat × Instr)) : Bool := l.all (fun e => decodeTableWord 32 e.1 == some e.2 && e.2.wf && encode e.2 == w32 (BitVec.ofNat 32 e.1))

theorem test_decode_moves : decodeTableWord 16 0x5224 = some (.plainMove (.e 1) (.g 9)) ∧
    decodeTableWord 16 0x00C0 = some (.plainMove (.g 0) (.p 0)) ∧ decodeTableWord 16 0xFFFF = none ∧
    reads [
  (0x422902F2, .pairWord (.m 1) (.g 10) (.m 0) (.a 15)),
  (0x00000013, .ldx 0 0 2), (0x00000053, .ldx 0 1 2), (0x38000093, .ldx 0x380000 2 2),
  (0x000100B7, .ldi 128 11), (0x00200057, .ldi 0x1000 5),
  (0x0FFFFFCF, .bControl 0x3FFFFF), (0x0000005F, .callControl 1)] = true := by decide +kernel

theorem test_decode_ia_add_to_pass : reads [
  (0x00000111, .add .ia .always (.m 2)),
  (0x10004009, .addw .ia (.ifSet 1) (.g 1)),
  (0x00008011, .sub .ia .always (.g 2)),
  (0x1000C019, .subw .ia (.ifSet 1) (.g 3)),
  (0x00010021, .andi .ia .always (.g 4)),
  (0x10014029, .ori .ia (.ifSet 1) (.g 5)),
  (0x00018031, .xori .ia .always (.g 6)),
  (0x1001C039, .andn .ia (.ifSet 1) (.g 7)),
  (0x00020041, .orn .ia .always (.g 8)),
  (0x10024049, .min .ia (.ifSet 1) (.g 9)),
  (0x00028051, .max .ia .always (.g 10)),
  (0x1002C059, .minu .ia (.ifSet 1) (.g 11)),
  (0x00030061, .maxu .ia .always (.g 12)),
  (0x10034069, .abs .ia (.ifSet 1) (.g 13)),
  (0x00038071, .pass .ia .always (.g 14))] = true := by decide +kernel

theorem test_decode_ib_add_to_pass : reads [
  (0x00000609, .add .ib .always (.imm 1)),
  (0xA0004549, .addw .ib (.ifClear 2) (.e 1)),
  (0x00008551, .sub .ib .always (.e 2)),
  (0xA000C559, .subw .ib (.ifClear 2) (.e 3)),
  (0x00010561, .andi .ib .always (.e 4)),
  (0xA0014569, .ori .ib (.ifClear 2) (.e 5)),
  (0x00018571, .xori .ib .always (.e 6)),
  (0xA001C579, .andn .ib (.ifClear 2) (.e 7)),
  (0x00020541, .orn .ib .always (.e 0)),
  (0xA0024549, .min .ib (.ifClear 2) (.e 1)),
  (0x00028551, .max .ib .always (.e 2)),
  (0xA002C559, .minu .ib (.ifClear 2) (.e 3)),
  (0x00030561, .maxu .ib .always (.e 4)),
  (0xA0034569, .abs .ib (.ifClear 2) (.e 5)),
  (0x00038571, .pass .ib .always (.e 6))] = true := by decide +kernel

theorem test_decode_im_multiply_divide : reads [
  (0x00000A01, .mul .always (.imm 0)),
  (0x00004A01, .mulh .always (.imm 0)),
  (0x00008A01, .mulhu .always (.imm 0)),
  (0x0000CA01, .mulw .always (.imm 0)),
  (0x00010A01, .div .always (.imm 0)),
  (0x00014A01, .divu .always (.imm 0)),
  (0x00018A01, .rem .always (.imm 0)),
  (0x0001CA01, .remu .always (.imm 0))] = true := by decide +kernel

theorem test_decode_bs_bits : reads [
  (0x00000FF9, .shl .always (.imm 63)),
  (0x00004FF9, .shr .always (.imm 63)),
  (0x00008FF9, .sha .always (.imm 63)),
  (0x0000CFF9, .rol .always (.imm 63)),
  (0x00010FF9, .clz .always (.imm 63)),
  (0x00014FF9, .ctz .always (.imm 63)),
  (0x00018FF9, .pop .always (.imm 63)),
  (0x0001CC11, .ext .always (.g 2)),
  (0x00020FF9, .ins .always (.imm 63)),
  (0x00024FF9, .rev .always (.imm 63))] = true := by decide +kernel

theorem test_decode_cm_compares : reads [
  (0x00401201, .ceq .always (.imm 0) 2),
  (0x00C05301, .cne .always (.imm 32) 6),
  (0x00A09301, .clt .always (.imm 32) 5),
  (0x0080D301, .cltu .always (.imm 32) 4),
  (0x00211069, .cge .always (.g 13) 1),
  (0x00415301, .cgeu .always (.imm 32) 2),
  (0x00219301, .ctst .always (.imm 32) 1),
  (0x0001D301, .pand .always (.imm 32) 0),
  (0x00E21301, .por .always (.imm 32) 7),
  (0x00C25301, .pnot .always (.imm 32) 6)] = true := by decide +kernel

theorem test_decode_ad_pointers : reads [
  (0x00001439, .aadd .always (.g 7)),
  (0x00005439, .asub .always (.g 7)),
  (0x00009439, .atag .always (.g 7)),
  (0x0000D439, .aget .always (.g 7)),
  (0x00011439, .aidx .always (.g 7)),
  (0x00015439, .adiff .always (.g 7))] = true := by decide +kernel

theorem test_decode_fp_floats : reads [
  (0x00001819, .fadd .always (.g 3) .rne),
  (0x00205819, .fsub .always (.g 3) .rtz),
  (0x00409819, .fmul .always (.g 3) .rdn),
  (0x0020D819, .fma .always (.g 3) .rtz),
  (0x00011819, .fmin .always (.g 3)),
  (0x00015819, .fmax .always (.g 3)),
  (0x00019819, .fabs .always (.g 3)),
  (0x0001D819, .fneg .always (.g 3)),
  (0x006219B1, .fsqrt .always (.y 6) .rup),
  (0x004259B1, .frcp .always (.y 6) .rdn),
  (0x002299B1, .fdiv .always (.y 6) .rtz),
  (0x0162D821, .fcmp .always (.g 4) .lt 3),
  (0x03E2D821, .fcmp .always (.g 4) .un 7),
  (0x01299829, .fcvt .always (.g 5) .f32 .e4m3 false),
  (0x04E99829, .fcvt .always (.g 5) .f32 .bf16 true),
  (0x002D1829, .fcvt .always (.g 5) .i4 .i8 false)] = true := by decide +kernel

theorem test_decode_ls_memory : reads [
  (0x00405C21, .ld .always (.g 4) .w .loc false),
  (0x0060DC29, .ld .always (.g 5) .d .grv false),
  (0x01201C21, .ld .always (.g 4) .h .scr true),
  (0x0062DC29, .st .always (.g 5) .d .grv),
  (0x00829C29, .st .always (.g 5) .q .rem),
  (0x00651C29, .lda .always (.g 5) .d .glb .thr),
  (0x01045C29, .lda .always (.g 5) .b .loc .cel),
  (0x05671C31, .stl .always (.g 6) .d .glb .sys),
  (0x0068DC29, .cas .always (.g 5) .d .grv),
  (0x008A5C29, .swp .always (.g 5) .q .loc),
  (0x006CDC29, .amo .always (.g 5) .add .d .grv),
  (0x082C9C29, .amo .always (.g 5) .fadd .h .rem),
  (0x006F1C29, .ared .always (.g 5) .add .d),
  (0x0130DC39, .rbr .always (.g 7) .grv 9),
  (0x0F921E01, .fence .always (.imm 0) 15 .dev),
  (0x0FB21E01, .fence .always (.imm 0) 15 .sys),
  (0x08B21E01, .fence .always (.imm 0) 8 .sys),
  (0x04921E01, .fence .always (.imm 0) 4 .dev),
  (0x01521E01, .fence .always (.imm 0) 1 .grv)] = true := by decide +kernel

theorem test_decode_br_branches : reads [
  (0x90002341, .br (.ifClear 1) (.imm 40)),
  (0x000060F9, .bi .always (.g 31)),
  (0x7000A2F9, .call (.ifSet 7) (.imm 31)),
  (0x0000E0F9, .ret .always (.g 31)),
  (0x00012239, .loop .always (.imm 7) 0),
  (0x10216201, .lbrk (.ifSet 1) (.imm 0) 1)] = true := by decide +kernel

theorem test_decode_nt_queues : reads [
  (0x00202641, .chnew .always (.imm 8) 0 1),
  (0x04806609, .snd .always (.imm 1) 2 4),
  (0x0000A611, .sndh .always (.imm 2) 0 0),
  (0x0060E601, .rtry .always (.imm 0) 3),
  (0x00612609, .hmov .always (.imm 1) 3),
  (0x00416609, .hdup .always (.imm 1) 2),
  (0x0001A609, .hclr .always (.imm 1)),
  (0x0001E609, .close .always (.imm 1)),
  (0x00022609, .hkind .always (.imm 1)),
  (0x00226631, .hsave .always (.imm 6) 1),
  (0x0022A629, .hload .always (.imm 5) 1),
  (0x0042E449, .gsnd .always (.g 9) 0 2),
  (0x00032601, .slate .always (.imm 0))] = true := by decide +kernel

theorem test_decode_sy_system : reads [
  (0x00002A01, .fin .always (.imm 0)),
  (0x00006A19, .pin .always (.imm 3)),
  (0x0000AA19, .retake .always (.imm 3)),
  (0x0000EA19, .brk .always (.imm 3)),
  (0x00012A19, .trap .always (.imm 3)),
  (0x00016819, .gcr .always (.g 3)),
  (0x0001A821, .scr .always (.g 4)),
  (0x0001E829, .sig .always (.g 5)),
  (0x00022821, .hset .always (.g 4)),
  (0x00026829, .lnch .always (.g 5)),
  (0x00016AC1, .gcr .always (.imm 24))] = true := by decide +kernel

theorem test_decode_vx_vector : reads [
  (0x00206C11, .vld .always (.g 2) .loc .all 1),
  (0x0520AC11, .vld .always (.g 2) .grv .lo 9),
  (0x00816C19, .vst .always (.g 3) .loc .all 4),
  (0x0BE1EC19, .vst .always (.g 3) .glb .hi 31),
  (0x0CA22C19, .vbcast .always (.g 3) .i32 5),
  (0x08C26E31, .vperm .always (.imm 6) .f16 6),
  (0x00E2AE19, .vmv .always (.imm 3) 7),
  (0x01042E39, .vadd .always (.imm 7) .f32 8),
  (0x05246E39, .vsub .always (.imm 7) .bf16 9),
  (0x0944AE39, .vmul .always (.imm 7) .f16 10),
  (0x0464EE39, .vfma .always (.imm 7) .bf16 3),
  (0x01852E39, .vmax .always (.imm 7) .f32 12),
  (0x05A56E39, .vmin .always (.imm 7) .bf16 13),
  (0x09C5AE39, .vabs .always (.imm 7) .f16 14),
  (0x0DE5EE39, .vneg .always (.imm 7) .i32 15),
  (0x00262E11, .vexp2 .always (.imm 2) .f32 1),
  (0x04466E11, .vlog2 .always (.imm 2) .bf16 2),
  (0x0066AE11, .vrcp .always (.imm 2) .f32 3),
  (0x0486EE11, .vrsq .always (.imm 2) .bf16 4),
  (0x00272E11, .vand .always (.imm 2) 1),
  (0x00476E11, .vor .always (.imm 2) 2),
  (0x0067AE11, .vxor .always (.imm 2) 3),
  (0x0D07EE11, .vsel .always (.imm 2) .i32 8),
  (0x03C82E11, .vcmp .always (.imm 2) .eq .f32 30),
  (0x07C86E11, .vcmp .always (.imm 2) .ne .bf16 30),
  (0x0BC8AE11, .vcmp .always (.imm 2) .lt .f16 30),
  (0x0FC8EE11, .vcmp .always (.imm 2) .le .i32 30),
  (0x00492E01, .vamax .always (.imm 0) .rd),
  (0x01092E21, .vamax .always (.imm 4) (.acc .f16)),
  (0x00292E21, .vamax .always (.imm 4) .clr),
  (0x00692E21, .vamax .always (.imm 4) .nanc),
  (0x000A2E11, .vredadd .always (.imm 2) .f32),
  (0x0C0A6E11, .vredmax .always (.imm 2) .i32),
  (0x042AAE11, .vscan .always (.imm 2) .bf16 1),
  (0x0CAAEE11, .vmerge .always (.imm 2) .i32 5),
  (0x0CAB2E11, .vrecv .always (.imm 2) .i32 5),
  (0x008B6E09, .vsnd .always (.imm 1) 4),
  (0x0194EE09, .vcvt .always (.imm 1) 1 3 true false false 1),
  (0x02926E09, .vcvt .always (.imm 1) 0 9 true false false 2),
  (0x00712E09, .vcvt .always (.imm 1) 0 4 false true true 0)] = true := by decide +kernel

theorem test_decode_mx_matrix : reads [
  (0x00007149, .tld .always (.e 1) .loc 0),
  (0x00207151, .tld .always (.e 2) .loc 1),
  (0x00E1B151, .tst .always (.e 2) .grv 7),
  (0x0142B031, .tcst .always (.g 6) .grv true false false 2),
  (0x06A2F031, .tcst .always (.g 6) .glb false true true 5),
  (0x00633201, .tzero .always (.imm 0) 3),
  (0x00837211, .tmv .always (.imm 2) 4),
  (0x01043209, .mma .always (.imm 1) false true 0 0),
  (0x0AE43209, .mma .always (.imm 1) true false 5 3),
  (0x00247209, .mmsk .always (.imm 1) 0 0 1),
  (0x0D847209, .mmsk .always (.imm 1) 3 6 0),
  (0x0004B021, .gmma .always (.g 4) false false 0 0),
  (0x05653029, .taccTile .always (.g 5) true false 3 1),
  (0x0A053029, .taccTile .always (.g 5) false true 0 2),
  (0x00857159, .taccVector .always (.e 3) 4 0),
  (0x0FE57159, .taccVector .always (.e 3) 31 3),
  (0x0005B201, .aclr .always (.imm 0) 0),
  (0x0045F201, .skset .always (.imm 0) 2)] = true := by decide +kernel

theorem test_decode_cp_copy : reads [
  (0x00003419, .cpush .always (.g 3)),
  (0x00007419, .cpushn .always (.g 3)),
  (0x0000B601, .cpoll .always (.imm 0))] = true := by decide +kernel

theorem test_decode_bk_barriers : reads [
  (0x00003821, .binit .always (.g 4)),
  (0x00007821, .barr .always (.g 4)),
  (0x0020B821, .bwait .always (.g 4) 1),
  (0x0000F821, .bexp .always (.g 4)),
  (0x00013821, .hwbar .always (.g 4)),
  (0x00017821, .gset .always (.g 4)),
  (0x0001B821, .gdec .always (.g 4))] = true := by decide +kernel

theorem test_decode_rl_reels : reads [
  (0x00003C21, .rinit .always (.g 4)),
  (0x00007C51, .rawait .always (.g 10)),
  (0x0000BC51, .rrel .always (.g 10)),
  (0x0000FE01, .rpeek .always (.imm 0)),
  (0x00013C19, .mon .always (.g 3)),
  (0x00017C21, .mwait .always (.g 4))] = true := by decide +kernel
/-- Words that the encoding reserves (R53, R54, R56, R63, R66 to R71), unit by unit: no opcode, a bit outside the layout, a reserved value, a
combination the row excludes; then bit 2 of a trigger word, ldi bits 31:29, control op 2, control bits 31:28, pair bits 3:2, equal
pair destinations, a reserved destination. -/
theorem test_reserved_words : [0x0003C201, 0x00020A01, 0x00028E01, 0x00029201, 0x00019601, 0x00031A01, 0x0001A201, 0x00036601, 0x0002AA01, 0x000BAE01,
    0x00063201, 0x0000F601, 0x0001FA01, 0x0001BE01, 0x00200201, 0x01001201, 0x00C99A01, 0x01C99A01, 0x00CB9A01, 0x04299A01,
    0x00A05E01, 0x01805E01, 0x00409E01, 0x00415E01, 0x01425E01, 0x06045E01, 0x00285E01, 0x094C5E01, 0x000C5E01, 0x086C5E01,
    0x006E5E01, 0x00305E01, 0x00B21E01, 0x0FB25E01, 0x01202601, 0x08062E01, 0x040AEE01, 0x01892E01, 0x00A92E01, 0x002A2E01,
    0x0C006E01, 0x00102E01, 0x00146E01, 0x0018AE01, 0x001C2E01, 0x003CEE01, 0x0053AE01, 0x00316E01, 0x0F142E01, 0x01033201,
    0x00000005, 0x200000B7, 0x0000002F, 0x1000000F, 0x00140006, 0x00040012, 0x01400022].all
      (fun w => decodeTableWord 32 w == none) = true := by decide +kernel

/-- One term for each check of `Instr.wf`, which refuses it. -/
theorem test_ill_formed_terms : [
    Instr.add .ia (.ifSet 0) (.imm 0), .pairWord (.g 1) (.g 2) (.g 3) (.g 2), .fcvt .always (.g 1) .f32 .f32 false,
    .fcvt .always (.g 1) .mx4 .f32 false, .fcvt .always (.g 1) .f32 .byte false, .fcvt .always (.g 1) .f32 .i8 true,
    .ld .always (.g 1) .d .rem false, .ld .always (.g 1) .q .loc true, .lda .always (.g 1) .d .rem .dev, .cas .always (.g 1) .h .loc,
    .cas .always (.g 1) .d .rem, .swp .always (.g 1) .b .loc, .swp .always (.g 1) .d .rem, .amo .always (.g 1) .add .h .loc,
    .amo .always (.g 1) .fadd .d .loc, .ared .always (.g 1) .max .q, .rbr .always (.g 1) .loc 0, .fence .always (.g 1) 0 .sys,
    .chnew .always (.g 1) 3 3, .vexp2 .always (.g 1) .f16 0, .vlog2 .always (.g 1) .i32 0, .vrcp .always (.g 1) .f16 0,
    .vrsq .always (.g 1) .i32 0, .vmerge .always (.g 1) .bf16 0, .vamax .always (.g 1) (.acc .i32),
    .vcvt .always (.g 1) 0 0 false false false 0, .vcvt .always (.g 1) 3 1 false false false 0, .vcvt .always (.g 1) 3 5 false true false 0,
    .vcvt .always (.g 1) 0 14 false true false 0, .vcvt .always (.g 1) 0 7 false false true 0, .vcvt .always (.g 1) 1 0 false false false 15
    ].all (fun i => !i.wf) = true := by decide +kernel

/-- The same shapes, well formed; an event has no encoding to break. -/
theorem test_well_formed_terms : [
    Instr.add .ia (.ifClear 0) (.imm 0), .pairWord (.g 1) (.g 0) (.g 3) (.g 0), .pairWord (.g 1) (.p 0) (.g 3) (.p 0),
    .fcvt .always (.g 1) .i4 .f32 false, .fcvt .always (.g 1) .f32 .e5m2 true, .ld .always (.g 1) .q .loc false, .amo .always (.g 1) .fadd .h .rem,
    .fence .always (.g 1) 15 .thr, .vcvt .always (.g 1) 1 0 false false false 14, .vamax .always (.g 1) (.acc .f16), .dispatch 0
    ].all (fun i => i.wf) = true := by decide +kernel

/-! ## States that meet the statements' hypotheses -/

/-- A device whose cell 0 hosts context 1: local bytes 0 to 0xFFFF may be read, written and executed, scratch windows start at 0x10000. -/
def home : State :=
  modCell State.reset 0 (fun x => { x with pos := rset x.pos 0 { Position.reset with
    ctx := some 1, regions := rset Position.reset.regions 0 0xE001000000000000#64, scratch := 0x8000000000010000#64 } })

/-- An operation of thread 0 as its trigger would queue it, with operands of zero. -/
def opOf (i : Instr) (n : Nat) : EngOp :=
  ⟨n, 0, i, 0, 0, 0, 0, Vector.replicate 8 0, 0, 0, 0, 0, 0, none, 0, false, 0, 0x400, 1, [], none, none, 0, 0, 0⟩

/-- A take of context 1 on thread 0 of cell 0: `t` in g4, `a` and `b` in every operand latch. -/
def inTake (s : State) (ph : Phase) (t a b : Word) : State :=
  modThr s 0 0 (fun x => { x with
    phase := ph, ctx := 1, pc := 0x400, bdgt := 64, g := rset x.g 4 t, la := Vector.replicate 16 a, lb := Vector.replicate 16 b })

/-- The state performs a trigger on `g4`, which holds `t`, and has the property `p`. -/
def Meets (s : State) (t : Word) (p : State → Bool) : Prop := Performs s .always (.g 4) t s ∧ p s = true

theorem meets_of {s : State} {t : Word} {p : State → Bool} (h : (canIssue (me s) && rget (me s).g 4#5 == t && p s) = true) : Meets s t p := by
  simp only [Bool.and_eq_true, beq_iff_eq] at h
  refine ⟨⟨h.1.1, ?_, rfl⟩, h.2⟩
  simp [readSrc, readG, ← h.1.2, me]

/-- The thread of cell 0 with one field changed. -/
def tweak (s : State) (f : Thread → Thread) : State := modThr s 0 0 f

theorem test_DecodeOfEncode_met : (Instr.add .ia .always (.imm 5)).wf = true ∧ encode (.add .ia .always (.imm 5)) ≠ [] := by decide

theorem test_EncodeOfDecode_met : decode [0x2A01#16, 0#16, 7#16] = .ok (.fin .always (.imm 0), [7#16]) := by rfl

/-- The next event of a device; a cell with no take; a decoded word that issues, one that waits, one whose second halfword cannot be fetched, one
that is no instruction, and a PC that may not be fetched. -/
theorem test_StepRunsTheDecodedInstruction_met :
    nextEvent { State.reset with agenda := [] } = none ∧
    nextEvent (tweak (inTake home .settling 0 0 0) (fun x => { x with orc := 0 })) = some (.print 0 0) ∧
    (let s := { tweak (inTake home .revocable 0 0 0) (fun x => { x with bdgt := 0 }) with todo := [] }
     nextEvent s = none ∧ lateEvent s = some (.budget 0 0)) ∧ lateEvent State.reset = none ∧
    (∀ t, tryThread home 0 t = none ∧ beginsWait home 0 t = false) ∧
    (let s := State.reset.withFetchWord 32 0x00002A01
     canIssue (thr s 0 0) = true ∧ localOk (posOf s 0 0) 0x402 2 false true = true ∧ localOk (posOf s 0 0) 0x402 4 false true = true ∧
      (tryThread s 0 0).isSome = true ∧ halfAt s 0 0x402 = 0x2A01#16 ∧ halfAt s 0 0x404 = 0#16) ∧
    (let s := tweak (State.reset.withFetchWord 32 0x00002A01) (fun x => { x with y := rset x.y 10 (.busy 0) })
     canIssue (thr s 0 0) = true ∧ (tryThread s 0 0).isNone = true) ∧
    (let s := tweak (State.reset.withFetchWord 32 0x00002A01) (fun x => { x with pc := 0x20000 })
     canIssue (thr s 0 0) = true ∧ localOk (posOf s 0 0) 0x20000 2 false true = false) ∧
    (let s := tweak (State.reset.withFetchWord 32 0x00002A01) (fun x => { x with pc := 0x404 })
     canIssue (thr s 0 0) = true ∧ [halfAt s 0 0x404, halfAt s 0 0x406] = [0#16, 0#16]) ∧
    (match decode [0x2A01#16] with | .error .short => true | _ => false) = true ∧
    localOk (posOf home 0 1) 0xFFFE 2 false true = true ∧ localOk (posOf home 0 1) 0xFFFE 4 false true = false ∧
    (let s := State.reset.withFetchWord 32 0x00002A01
     (match exec (.fin .always (.imm 0)) { s with cur := (0, 0) } with | .next s' => hasIssued s s' 0 0 | _ => false) = true) := by
  refine ⟨?_, ?_, ?_, ?_, ?_, ?_, ?_, ?_, ?_, ?_, ?_, ?_, ?_⟩ <;> decide +kernel

theorem test_StepKeepsMemoryCanonical_met : Memory.wf State.reset.mem = true ∧
    (match step State.reset with | .next s => Memory.wf s.mem | _ => false) = true := by
  constructor <;> decide +kernel

/-- Every unit of IntegerResults to ConversionResults is free for a fresh take. -/
theorem test_scalar_units_met : Meets (inTake home .revocable 5 7 9) 5 (fun s =>
    [0#4, 1, 2, 3, 4, 5, 6, 8].all (fun u => !unitBusy (me s) u)) := meets_of (by decide +kernel)

/-- `aidx` over 4-bit elements (code 13): 1 is half a byte, 2 a byte. -/
theorem test_PointerResults_aidx_met :
    Meets (inTake home .revocable 1 (0x6800000000000100#64) 0) 1 (fun s =>
      let a := rget (me s).la 5#4
      !unitBusy (me s) 5 && decide ((1#64).toInt * (tableWidth (a.extractLsb' 59 5).toNat : Int) % 8 ≠ 0)) ∧
    Meets (inTake home .revocable 2 (0x6800000000000100#64) 0) 2 (fun s =>
      let a := rget (me s).la 5#4
      !unitBusy (me s) 5 && decide ((2#64).toInt * (tableWidth (a.extractLsb' 59 5).toNat : Int) % 8 = 0)) :=
  ⟨meets_of (by decide +kernel), meets_of (by decide +kernel)⟩

theorem test_operations_named_met :
    (integerOp (.sub .ib .always (.g 4))).isSome ∧ (pointerOp (.adiff .always (.g 4))).isSome ∧ (compareOp (.por .always (.g 4) 3)).isSome ∧
    (floatOp (.fdiv .always (.g 4) .rup)).isSome ∧ (exactOp (.fma .always (.g 4) .rdn)).isSome ∧ (intRange .uint8).isSome ∧
    (atomicOp (.cas .always (.g 4) .q .grv)).isSome ∧ registerWord (.fcvt .always (.g 4) .f32 .i8 false) = true := by decide

/-- The largest finite code plus the next to largest of the other sign is finite and within the bound. -/
theorem test_FloatSums_met : f32Finite 0x7F7FFFFF ∧ f32Finite 0xFF7FFFFE ∧ f32Finite 0 ∧
    |f32Val 0x7F7FFFFF + f32Val 0xFF7FFFFE| ≤ f32Val 0x7F7FFFFF := by
  refine ⟨by unfold f32Finite; decide, by unfold f32Finite; decide, by unfold f32Finite; decide, ?_⟩
  norm_num [f32Val, abs_le]

theorem test_FloatSpecialCases_met : (f32Nan 0x7F800001 || f32Nan 0) = true ∧ f32Nan 0xFFC00000 = true ∧ f32Nan 0x7F800000 = false ∧
    2 ^ 31 < 0x80000001 ∧ 0x80000001 ≤ 0xFF800000 := by decide

/-- A guard that does not hold, in its three forms that can fail. -/
theorem test_UnperformedTriggerPasses_met : let s := inTake home .revocable 5 7 9
    canIssue (me s) = true ∧ readSrc s 0 0 (.imm 5) = some (5, s) ∧ readP (me s) 1 = false ∧ readP (me s) 0 = true ∧
    (Instr.add .ia (.ifSet 1) (.imm 5)).trigger? = some (.ifSet 1, .imm 5) := by
  refine ⟨?_, ?_, ?_, ?_, ?_⟩
  · decide +kernel
  · rfl
  all_goals decide +kernel

/-- A source that is not ready, and a unit whose operation has not completed. -/
theorem test_TriggerWaits_met :
    (let s := tweak (inTake home .revocable 5 7 9) (fun x => { x with y := rset x.y 3 (.busy 1) })
     canIssue (me s) = true ∧ readSrc s 0 0 (.y 3) = none ∧ (Instr.mul .always (.y 3)).trigger? = some (.always, .y 3)) ∧
    Meets (tweak (inTake home .revocable 5 7 9) (fun x => { x with y := rset x.y 2 (.busy 1) })) 5 (fun s => unitBusy (me s) 2) ∧
    (encode (.mul .always (.g 4)) = w32 0x00000821#32 ∧ (0x00000821#32).extractLsb' 0 3 = 1#3 ∧ (0x00000821#32).extractLsb' 10 4 = 2#4) := by
  refine ⟨⟨?_, ?_, ?_⟩, meets_of (by decide +kernel), ?_⟩
  · decide +kernel
  · rfl
  · decide
  · decide

theorem test_MoveResults_met : let s := inTake home .revocable 5 7 9
    canIssue (me s) = true ∧ readSrc s 0 0 (.e 1) = some (0, s) ∧ readSrc s 0 0 (.imm 5) = some (5, s) ∧
    dstReady s 0 0 (.a 2) = true ∧ dstReady s 0 0 (.p 0) = true ∧ e3Busy s 0 0 = false := by
  refine ⟨?_, rfl, rfl, ?_, ?_, ?_⟩ <;> decide +kernel

/-- Targets that are odd and even. -/
theorem test_BranchResults_met :
    Meets (inTake home .irrevocable 0x401 0 0) 0x401 (fun s => !unitBusy (me s) 8 && (0x401#64).getLsbD 0) ∧
    Meets (inTake home .revocable 0x402 0 0) 0x402 (fun s => !unitBusy (me s) 8 && !(0x402#64).getLsbD 0) :=
  ⟨meets_of (by decide +kernel), meets_of (by decide +kernel)⟩

/-- A take that sets up a loop of `n` halfwords from count `c` to bound `b` in steps of `p`. -/
def atLoop (n c b p : Word) : State :=
  tweak (inTake home .revocable n c 0) (fun x => { x with e := rset (rset x.e 6 b) 7 p })

theorem test_LoopResults_met :
    Meets (atLoop 1 0 5 1) 1 (fun s => !unitBusy (me s) 8 && decide ((1#64).toInt < 2)) ∧
    Meets (atLoop 2 5 5 1) 2 (fun s => !unitBusy (me s) 8 &&
      decide (((rget (me s).e 6#3).extractLsb' 0 32).toInt ≤ ((rget (me s).la 8#4).extractLsb' 0 32).toInt)) ∧
    Meets (atLoop 0x1FFFFF 4 5 1) 0x1FFFFF (fun s => !unitBusy (me s) 8 && decide ((0x1FFFFF#64).toInt ≤ 2 ^ 21 - 1) &&
      decide (((rget (me s).la 8#4).extractLsb' 0 32).toInt < ((rget (me s).e 6#3).extractLsb' 0 32).toInt)) ∧
    Meets (atLoop 2 5 5 (-1)) 2 (fun s => decide (((rget (me s).e 7#3).extractLsb' 0 32).toInt < 0)) ∧
    Meets (tweak (atLoop 2 0 5 1) (fun x => { x with lc := rset x.lc 1 ⟨3, 5, 1, true, 0x410, 0x404⟩ })) 2 (fun s =>
      !unitBusy (me s) 8 && (rget (me s).lc 1#1).act && !(rget (me s).lc 0#1).act) :=
  ⟨meets_of (by decide +kernel), meets_of (by decide +kernel), meets_of (by decide +kernel), meets_of (by decide +kernel),
    meets_of (by decide +kernel)⟩

/-- A scalar word completes here. -/
theorem test_ScalarWordFrame_met :
    (match exec (.fneg .always (.g 4)) (inTake home .revocable 5 7 9) with | .next s' => hasIssued (inTake home .revocable 5 7 9) s' 0 0 | _ => false)
      = true := by decide +kernel

/-- 0: the place is refused; 1: the cell reaches it; 2: a request goes out. -/
def placeKind : Except Cause Place → Nat
  | .error _ => 0
  | .ok (.here _) => 1
  | .ok (.away _) => 2

/-- Loads and stores that are refused, that the cell can reach, and that go to another cell or to global memory. -/
theorem test_memory_places_met :
    Meets (inTake home .revocable 0x1001 0 0) 0x1001 (fun s => !lsWaits s 0 0 && placeKind (lsPlace s 0 0 .loc 0x1001 2 false) == 0) ∧
    Meets (inTake home .revocable 0xFFF0 0 0) 0xFFF0 (fun s => !lsWaits s 0 0 && placeKind (lsPlace s 0 0 .loc 0xFFF0 16 true) == 1
      && !viewUnknown (me s).effects (identOf (.loc 0 0xFFF0)) 16) ∧
    Meets (inTake home .revocable 0x7F8 0 0) 0x7F8 (fun s => !lsWaits s 0 0 && placeKind (lsPlace s 0 0 .scr 0x7F8 8 true) == 1) ∧
    Meets (inTake home .revocable 0x20000 0 0) 0x20000 (fun s => !lsWaits s 0 0 && canRequest s 0 0
      && placeKind (lsPlace s 0 0 .rem 0x20000 8 true) == 2) ∧
    Meets (inTake home .irrevocable 0x123456789A0 0 0) 0x123456789A0 (fun s => !lsWaits s 0 0 && canRequest s 0 0 && mayPerform s 0 0 s.nextOp
      && (me s).effects.isEmpty && placeKind (lsPlace s 0 0 .glb 0x123456789A0 4 false) == 2) :=
  ⟨meets_of (by decide +kernel), meets_of (by decide +kernel), meets_of (by decide +kernel), meets_of (by decide +kernel),
    meets_of (by decide +kernel)⟩

/-- A deferred effect: held, without room, performed at once; and with its grant to be asked. -/
theorem test_Deferred_met :
    (let s := inTake home .revocable 0 0 0
     (me s).phase = .revocable ∧ fits (me s) [.send (.trap 0 0 0) 0 0 [] 1] = true ∧ canRequest s 0 0 = true) ∧
    (let s := tweak (inTake home .revocable 0 0 0) (fun x => { x with effects := List.replicate 128 (.hsave 0 0) })
     (me s).phase = .revocable ∧ fits (me s) [.marker] = false ∧ workDone s 0 0 = true) ∧
    (let s := inTake home .irrevocable 0 0 0
     (me s).phase = .irrevocable ∧ mayPerform s 0 0 s.nextOp = true ∧
      (performAll 0 0 ((me s).effects ++ [.store [⟨.loc 0 16, [1, 2]⟩] 1 none (some [16, 17]) false 0]) s).2.1 = [] ∧
      (performAll 0 0 ((me s).effects ++ [.hset 0 0]) s).2.1 = []) := by
  refine ⟨⟨?_, ?_, ?_⟩, ⟨?_, ?_, ?_⟩, ⟨?_, ?_, ?_, ?_⟩⟩ <;> decide +kernel

/-- A store of the scratch window runs, and one of local memory is held. -/
theorem test_StoreFrame_met :
    (match exec (.st .always (.g 4) .d .scr) (inTake home .revocable 0x7F8 5 6) with | .next s' => !s'.mem.isEmpty | _ => false) = true ∧
    (match exec (.stl .always (.g 4) .q .loc .sys) (inTake home .revocable 0x7F0 5 6) with | .next s' => s'.mem.isEmpty | _ => false) = true := by
  constructor <;> decide +kernel

/-- Sizes and addresses of a block read at their bounds, its grant, a fence of each kind, a take with a load outstanding. -/
theorem test_ReductionBlockReadFence_met :
    Meets (inTake home .revocable 0x20000 0x100 15) 0x20000 (fun s => !lsWaits s 0 0 && decide ((rget (me s).lb 7#4).toNat < 16)) ∧
    Meets (inTake home .revocable 0x20008 0x100 16) 0x20008 (fun s => !lsWaits s 0 0 && decide ((rget (me s).lb 7#4).toNat = 16)) ∧
    Meets (inTake home .revocable 0x20000 0xF000 4096) 0x20000 (fun s => !lsWaits s 0 0 && tagValid 0x20000 && tagBytes 0x20000 &&
      localOk (posOf s 0 1) 0xF000 4096 true false && placeKind (remPlace 0x20000 4096) == 2 && fits (me s) [.marker] && canRequest s 0 0) ∧
    Meets (inTake home .revocable 0x20000 0xF010 4096) 0x20000 (fun s => !lsWaits s 0 0 && !localOk (posOf s 0 1) 0xF010 4096 true false) ∧
    Meets (inTake home .revocable 0x20000 0 0) 0x20000 (fun s => (me s).phase == .revocable && loadsDone s 0 0 && workDone s 0 0
      && (grvAddr (groveOf 0) 0x1000).isSome) ∧
    Meets (addRequest (inTake home .revocable 0 0 0) 0 0 0x400 1 (.load (.glb 0) 8 false none 0)).1 0 (fun s => !loadsDone s 0 0) :=
  ⟨meets_of (by decide +kernel), meets_of (by decide +kernel), meets_of (by decide +kernel), meets_of (by decide +kernel),
    meets_of (by decide +kernel), meets_of (by decide +kernel)⟩

/-- The last valid code of a tag, and the first one that is none; a local range at the end of its region, and one past it. -/
theorem test_AddressChecks_met : let p := posOf (inTake home .revocable 0 0 0) 0 1
    (0x5000000000000008#64).toNat / 2 ^ 59 = 10 ∧ (0x5800000000000008#64).toNat / 2 ^ 59 = 11 ∧
    localOk p 0xFFF8 8 true false = true ∧ localOk p 0xFFFC 8 true false = false := by
  refine ⟨?_, ?_, ?_, ?_⟩ <;> decide +kernel

/-- A busy `cp` unit, and takes that may settle, print and wait. -/
theorem test_FinAndPin_met :
    Meets (inTake home .revocable 0 0 0) 0 (fun s => !unitBusy (me s) 10 && workDone s 0 0) ∧
    Meets (inTake home .irrevocable 0 0 0) 0 (fun s => !unitBusy (me s) 10 && workDone s 0 0 && (me s).orc == 0) ∧
    Meets (tweak (inTake home .irrevocable 0 0 0) (fun x => { x with orc := 1 })) 0 (fun s => !unitBusy (me s) 10 && workDone s 0 0 && (me s).orc != 0) ∧
    Meets (modCell (inTake home .revocable 0 0 0) 0 (fun x => { x with cpq := [opOf (.cpoll .always (.imm 0)) 13] })) 0 (fun s =>
      !unitBusy (me s) 10 && !workDone s 0 0) :=
  ⟨meets_of (by decide +kernel), meets_of (by decide +kernel), meets_of (by decide +kernel), meets_of (by decide +kernel)⟩

/-- `brk` with the largest code it accepts, and the first it does not; a take of every origin returns its message. -/
theorem test_WordsThatEndTakes_met :
    Meets (inTake home .revocable 0xFFFF 0 0) 0xFFFF (fun s => !unitBusy (me s) 10 && decide ((0xFFFF#64).toNat < 2 ^ 16)) ∧
    Meets (inTake home .irrevocable 0x10000 0 0) 0x10000 (fun s => !unitBusy (me s) 10 && decide (2 ^ 16 ≤ (0x10000#64).toNat)) ∧
    resident home 0 1 = true ∧
    (let s := modDie home 0 (fun d => { d with stages := rset d.stages 3 { Stage.reset with v := true, lid := 9 } })
     (stageAt s (dieOf 0) 3).v = true ∧ (stageAt s (dieOf 0) 3).lid.toNat = 9) := by
  refine ⟨meets_of (by decide +kernel), meets_of (by decide +kernel), ?_, ?_, ?_⟩ <;> decide +kernel

/-- A trap of a revocable take with a request outstanding, whose context has a report ring of 16 entries with room. -/
def trapped : State :=
  modCtxRec (tweak (inTake home .revocable 0 0 0) (fun x => { x with orc := 1 })) 0 1 (fun r => { r with k := 4, base := 8, widx := 15 })

theorem test_traps_met : let s := trapped
    let q := ctxRec s 0 1
    isIrrevocable (thr s 0 0) = false ∧ (thr s 0 0).orc = 1 ∧ (thr s 0 0).undo = [] ∧ (thr s 0 0).consumed = [] ∧ (thr s 0 0).origin = .completion ∧
    (cellAt s 0).reports = [] ∧ 4 ≤ q.k.toNat ∧ q.k.toNat ≤ 12 ∧ (q.widx - q.ridx).toNat < 2 ^ q.k.toNat ∧
    (⟨.align, 0x400, 0, 0xFF, none, 0, 0⟩ : TrapInfo).kind ≠ 2 ∧ isIrrevocable (thr (inTake home .irrevocable 0 0 0) 0 0) = true := by
  refine ⟨?_, ?_, ?_, ?_, ?_, ?_, ?_, ?_, ?_, ?_, ?_⟩ <;> decide +kernel

/-- Release words of each kind, for a receive end, a completion queue and a stage that are held. -/
theorem test_releases_met :
    (0x0000000100000000#64).toNat / 2 ^ 62 = 0 ∧ (0x4000000100000002#64).toNat / 2 ^ 62 = 1 ∧
    (0x8000000100000000#64).toNat / 2 ^ 62 = 2 ∧ (0xC000000100000003#64).toNat / 2 ^ 62 = 3 ∧ resident home 0 1 = true ∧
    (match exec (.releaseRegisterWrite 0 0x8000000100000000#64) (modPos home 0 1 (fun p => { p with cqHeld := true })) with
      | .next s' => !(posOf s' 0 1).cqHeld
      | _ => false) = true := by
  refine ⟨?_, ?_, ?_, ?_, ?_, ?_⟩ <;> decide +kernel

/-- Numbers that are not assigned, a supervisor's, read-only, write-one-to-clear, and an `sk` with its largest value and one past it. -/
theorem test_ControlRegisters_met :
    assigned 7 = false ∧ (assigned 0x301 = true ∧ supervisorReg 0x301 = true ∧ isSupervisor home 1 = false) ∧
    Meets (inTake home .revocable 8 3 0) 8 (fun s => !unitBusy (me s) 10 && assigned 8 && !supervisorReg 8 && !engineWrites (cellAt s 0) 0 8) ∧
    Meets (inTake home .revocable 0x17 0x1FFFF 0) 0x17 (fun s => !engineWrites (cellAt s 0) 0 0x17 && decide ((rget (me s).la 10#4).toNat < 2 ^ 17)) ∧
    Meets (inTake home .revocable 0x14 0x20000 0) 0x14 (fun s => !engineWrites (cellAt s 0) 0 0x14 && decide (2 ^ 17 ≤ (rget (me s).la 10#4).toNat)) ∧
    assigned 0xF00 = true ∧ supervisorReg 0xF00 = false ∧ (0, (thr home 0 0).pc) ∈ controlTable home 0 0 := by
  refine ⟨?_, ?_, meets_of (by decide +kernel), meets_of (by decide +kernel), meets_of (by decide +kernel), ?_, ?_, ?_⟩ <;> decide +kernel

/-- Operands of `trap`, `sig`, `hset` and `lnch` at their bounds. -/
theorem test_DeferredSystemWords_met :
    Meets (inTake home .revocable 0xFFFF 0 0) 0xFFFF (fun s => !unitBusy (me s) 10) ∧
    Meets (inTake home .revocable 0x7FF 0 0) 0x7FF (fun s => decide ((rget s.parts (partOf s 1)).ctl.toNat / 2 ^ 32 % 2 ^ 11 < 0x7FF)) ∧
    Meets (inTake home .revocable 0 0 0) 0 (fun s => decide (0 ≤ (rget s.parts (partOf s 1)).ctl.toNat / 2 ^ 32 % 2 ^ 11)) ∧
    Meets (inTake home .revocable 19 0x8000000200000400#64 0) 19 (fun s => let a := rget (me s).la 10#4
      decide (a.toNat / 2 ^ 53 % 2 ^ 10 = 0) && decide (a.toNat / 2 ^ 17 % 2 ^ 16 = 0) && decide (a.toNat / 2 ^ 33 % 2 ^ 20 ≠ 0)
        && localOk (posOf s 0 1) (a.toNat % 2 ^ 17) 2 false true) ∧
    Meets (inTake home .revocable 0xFFF0 0 0) 0xFFF0 (fun s => localOk (posOf s 0 1) 0xFFF0 16 false false) ∧
    Meets (inTake home .revocable 0x1FFF0 0 0) 0x1FFF0 (fun s => !localOk (posOf s 0 1) 0x1FFF0 16 false false) := by
  refine ⟨meets_of (by decide +kernel), meets_of (by decide +kernel), meets_of (by decide +kernel), meets_of (by decide +kernel),
    meets_of (by decide +kernel), meets_of (by decide +kernel)⟩

theorem low_extract (m b : Word) {i n : Nat} (h : i + n ≤ 64) : (m ++ b : BitVec 128).extractLsb' i n = b.extractLsb' i n := by
  ext j hj
  simp only [BitVec.getElem_extractLsb', BitVec.getLsbD_append]
  split
  · rfl
  · omega

theorem high_extract (m b : Word) : (m ++ b : BitVec 128).extractLsb' 64 64 = m := by
  ext j hj
  simp only [BitVec.getElem_extractLsb', BitVec.getLsbD_append]
  split
  · omega
  · simp only [Nat.add_sub_cancel_left, BitVec.getLsbD_eq_getElem hj]

theorem low_same (m b : Word) (i n : Nat) (h : i + n ≤ 64) : (m ++ b : BitVec 128).extractLsb' i n = (b.setWidth 128).extractLsb' i n := by
  rw [low_extract m b h]
  ext j hj
  simp only [BitVec.getElem_extractLsb', BitVec.getLsbD_setWidth]
  rw [decide_eq_true (by omega), Bool.true_and]

theorem lookupEnd_low (s : State) (c : Nat) (m b : Word) : lookupEnd s c (m ++ b) = lookupEnd s c (b.setWidth 128) := by
  have e1 : hCell (m ++ b) = hCell (b.setWidth 128) := congrArg BitVec.toNat (low_same m b 13 11 (by omega))
  have e2 : hKind (m ++ b) = hKind (b.setWidth 128) := congrArg BitVec.toNat (low_same m b 60 4 (by omega))
  have e3 : hEid (m ++ b) = hEid (b.setWidth 128) := congrArg BitVec.toNat (low_same m b 28 20 (by omega))
  have e4 : hCtx (m ++ b) = hCtx (b.setWidth 128) := congrArg BitVec.toNat (low_same m b 48 12 (by omega))
  unfold lookupEnd
  rw [e1, e2, e3, e4]

theorem macOk_made (b : Word) : macOk (Config.handleMac b ++ b) = true := by
  simp only [macOk, hBody, high_extract]
  rw [low_extract _ _ (by omega)]
  simp

theorem made_ne_zero {m b : Word} (h : b ≠ 0) : ((m ++ b : BitVec 128) == 0) = false := by
  rw [beq_eq_false_iff_ne]
  intro hz
  apply h
  have := low_extract m b (i := 0) (n := 64) (by omega)
  rw [hz] at this
  simpa using this.symm

/-- What a handle whose MAC is right names is decided by its low half. -/
theorem checkEnd_handle {s : State} {c ctx : Nat} {b : Word} {e : EndRef} (h0 : b ≠ 0) (h1 : hCtx (b.setWidth 128) = ctx)
    (h2 : lookupEnd s c (b.setWidth 128) = some e) : checkEnd s c ctx (Config.handleMac b ++ b) = some e := by
  have hc : hCtx (Config.handleMac b ++ b) = ctx := (congrArg BitVec.toNat (low_same _ b 48 12 (by omega))).trans h1
  simp only [checkEnd, made_ne_zero h0, macOk_made, hc, lookupEnd_low, h2, Bool.not_true, Bool.or_self, bne_self_eq_false, Bool.false_eq_true,
    if_false]

/-- A channel of context 1, home and both ends at cell 0, with one message of slot 0 queued where `n` says so. -/
def withChannel (s : State) (orphan : Bool) (m : Option ChanSlot) : State :=
  modCell s 0 (fun x => { x with
    sends := [⟨1, 1, 0, 0, 0, 8, 0, 0, orphan, true⟩]
    recvs := [⟨0, 1, 0, 0, (if m.isSome then [⟨0, 0, 1, 0⟩] else []), 0, 0, .active, false, 8, 1, none, [], none, false, none, (0, [])⟩]
    homes := [⟨0, 1, 8, 1, (m.map (fun y => (0, y))).toList, [⟨1, 0, 0, 0, 0⟩], 0, 0, 0, false, []⟩] })

/-- The bodies of a send end's, a receive end's and a stage's handle (Table 12.4): kind, context 1, eid, cell 0. -/
def bodyOf (kind eid : Nat) : Word := BitVec.ofNat 64 (kind * 2 ^ 60 + 2 ^ 48 + eid * 2 ^ 28)

def made (b : Word) : Handle := Config.handleMac b ++ b

theorem checkEnd_made {s : State} {c ctx : Nat} {h : Handle} {e : EndRef} (b : Word) (h0 : b ≠ 0) (hh : h = made b)
    (h1 : hCtx (b.setWidth 128) = ctx) (h2 : lookupEnd s c (b.setWidth 128) = some e) : checkEnd s c ctx h = some e :=
  hh ▸ checkEnd_handle h0 h1 h2

/-- The take holds the handle of the send end in h1, of the receive end in h2, of stage 3 in h3; h0 is null. -/
def withHandles (s : State) : State :=
  tweak s (fun x => { x with
    h := rset (rset (rset x.h 1 (made (bodyOf 1 1))) 2 (made (bodyOf 2 0))) 3 (made (bodyOf 3 (9 * 32 + 3))) })

/-- A take that names h register `t`, beside an open channel and stage 3. -/
def withEnds (ph : Phase) (t a b : Word) (m : Option ChanSlot) : State :=
  withHandles (withChannel (inTake (modDie home 0 (fun d => { d with
    stages := rset d.stages 3 { Stage.reset with v := true, ctx := 1, cls := 4, lid := 9 } })) ph t a b) false m)

/-- The null handle, and one of each kind of end. -/
theorem test_ends_met : let s := withEnds .revocable 1 0 0 none
    checkEnd s 0 1 (rget (me s).h 0) = none ∧
    checkEnd s 0 1 (rget (me s).h 1) = some (.send ⟨1, 1, 0, 0, 0, 8, 0, 0, false, true⟩) ∧
    checkEnd s 0 1 (rget (me s).h 2) = some (.recv ⟨0, 1, 0, 0, [], 0, 0, .active, false, 8, 1, none, [], none, false, none, (0, [])⟩) ∧
    checkEnd s 0 1 (rget (me s).h 3) = some (.stage 3 9) := by
  refine ⟨?_, ?_, ?_, ?_⟩
  · rfl
  · exact checkEnd_made (bodyOf 1 1) (by decide) rfl rfl rfl
  · exact checkEnd_made (bodyOf 2 0) (by decide) rfl rfl rfl
  · exact checkEnd_made (bodyOf 3 (9 * 32 + 3)) (by decide) rfl rfl rfl

/-- An orphaned send end. -/
theorem test_orphan_met : let s := withHandles (withChannel (inTake home .revocable 1 0 0) true none)
    checkEnd s 0 1 (rget (me s).h 1) = some (.send ⟨1, 1, 0, 0, 0, 8, 0, 0, true, true⟩) :=
  checkEnd_made (bodyOf 1 1) (by decide) rfl rfl rfl

/-- Numbers of h registers, handle-store entries and groups at their bounds; a free unit. -/
theorem test_HandleRegisterWords_met :
    Meets (withEnds .revocable 7 0 0 none) 7 (fun s => !unitBusy (me s) 9 && decide ((7#64).toNat < 8)) ∧
    Meets (withEnds .revocable 63 0 0 none) 63 (fun s => !unitBusy (me s) 9 && decide ((63#64).toNat < 64)) ∧
    Meets (withEnds .revocable 64 0 0 none) 64 (fun s => !unitBusy (me s) 9 && decide ((64#64).toNat = 64)) ∧
    Meets (withEnds .revocable 65 0 0 none) 65 (fun s => !unitBusy (me s) 9 && decide (65 ≤ (65#64).toNat)) :=
  ⟨meets_of (by decide +kernel), meets_of (by decide +kernel), meets_of (by decide +kernel), meets_of (by decide +kernel)⟩

/-- Depths 64 and 65 of `chnew`, a cell with room and one without; `hdup` of 7, 8 and 128 credits of 8; a die with a free eid. -/
theorem test_ChannelsAndDuplicates_met :
    Meets (withEnds .revocable 64 0 0 none) 64 (fun s => !unitBusy (me s) 9 && channelRoom s 0 64 == some 2) ∧
    Meets (withEnds .revocable 65 0 0 none) 65 (fun _ => decide (64 < (65#64).toNat % 128)) ∧
    Meets (modCell (withEnds .revocable 64 0 0 none) 0 (fun x => { x with
      homes := [⟨0, 1, 130, 1, [], [], 0, 0, 0, false, []⟩] })) 64 (fun s => channelRoom s 0 64 == none) ∧
    Meets (withEnds .revocable 1 7 0 none) 1 (fun s => decide ((rget (me s).la 9#4).toNat < 8 - (0 - 0)) && allocEid s 0 1 == some 2
      && fits (me s) [.send (.register 2) 0 0 [] 0]) ∧
    Meets (withEnds .revocable 1 8 0 none) 1 (fun s => decide (8 - (0 - 0) ≤ (rget (me s).la 9#4).toNat)) ∧
    Meets (withEnds .revocable 1 128 0 none) 1 (fun s => decide (128 ≤ (rget (me s).la 9#4).toNat)) :=
  ⟨meets_of (by decide +kernel), meets_of (by decide +kernel), meets_of (by decide +kernel), meets_of (by decide +kernel),
    meets_of (by decide +kernel), meets_of (by decide +kernel)⟩

/-- Sends whose cell, stage and group the grants allow, and not; a group of the context; the last group and the first number past it. -/
theorem test_SendWords_met :
    Meets (withEnds .revocable 1 2 0 none) 1 (fun s => !unitBusy (me s) 9 && grantCell s 0 1 0 && !grantCell s 0 1 5) ∧
    Meets (modPos (withEnds .revocable 3 0 0 none) 0 1 (fun p => { p with grants := [(0, 0xC000000000000003#64), (1, 0xA0000000000000FF#64)] })) 3
      (fun s => grantStage s 0 1 3 && !grantStage s 0 1 4 && grantGroup s 0 1 255 && !grantGroup s 0 1 254 && (stageAt s 0 3).cls.toNat == 4) ∧
    Meets (modDie (withEnds .revocable 255 0 0 none) 0 (fun d => { d with groups := [(255, 0x8001000000000000#384)] })) 255 (fun s =>
      let g := groupAt s (dieOf 0) 255
      g.getLsbD 63 && g.toNat / 2 ^ 48 % 2 ^ 12 == 1) ∧
    Meets (withEnds .revocable 256 0 0 none) 256 (fun _ => decide (256 ≤ (256#64).toNat)) ∧
    (let s := withEnds .revocable 1 2 0 none
     rget (me s).la 9#4 = 2 ∧ ∃ f, checkEnd s 0 1 (rget (me s).h ((2#64).extractLsb' 0 3)) = some (.recv f) ∧ f.eid = 0) := by
  refine ⟨meets_of (by decide +kernel), meets_of (by decide +kernel), meets_of (by decide +kernel), meets_of (by decide +kernel), ?_, ?_⟩
  · decide +kernel
  · exact ⟨⟨0, 1, 0, 0, [], 0, 0, .active, false, 8, 1, none, [], none, false, none, (0, [])⟩, test_ends_met.2.2.1, rfl⟩

/-- The receive end has no message, a message at a held or frozen end, a message, or an event at its head (R247, R395). -/
theorem test_ReceiveTry_met :
    (let r : RecvEnd := ⟨0, 1, 0, 0, [], 0, 0, .active, false, 8, 1, none, [], none, false, none, (0, [])⟩
     headNote r = none) ∧
    (let r : RecvEnd := ⟨0, 1, 0, 0, [⟨0, 0, 1, 0⟩], 0, 0, .active, true, 8, 1, none, [], none, false, none, (0, [])⟩
     headNote r = none ∧ headNote { r with held := false, st := .frozen } = none) ∧
    (let r : RecvEnd := ⟨0, 1, 0, 0, [⟨0, 0, 1, 0⟩], 0, 0, .active, false, 8, 1, none, [], none, false, none, (0, [])⟩
     let m : ChanSlot := ⟨1, 0, false, false, false, ⟨mkSlate 1 4 1 false 0 0 1 1, [7], none, 0⟩⟩
     let s := withEnds .revocable 2 0 0 (some m)
     checkEnd s 0 1 (rget (me s).h 2) = some (.recv r) ∧ headNote r = some ⟨0, 0, 1, 0⟩ ∧ noteSlot s 0 0 ⟨0, 0, 1, 0⟩ = some m ∧
      m.isClose = false ∧ m.msg.lane = none ∧ m.msg.slate.toNat / 2 ^ 47 % 32 ∉ [16, 17]) ∧
    (mkSlate 1 17 1 false 0 0 1 1).toNat / 2 ^ 47 % 32 ∈ [16, 17] := by
  refine ⟨rfl, ⟨rfl, rfl⟩, ⟨?_, rfl, rfl, rfl, rfl, ?_⟩, ?_⟩
  · exact checkEnd_made (bodyOf 2 0) (by decide) rfl rfl rfl
  · decide
  · decide

/-- A take with a reel of 2^k slots of 2^z bytes at local 0x100, indices as given. -/
def withReel (k z : Nat) (r w : BitVec 32) : State :=
  write128 (inTake home .revocable (BitVec.ofNat 64 (z * 256 + k)) 0x0100000000000100#64 0) (locKey 0 0x100) (mkReel 0 z k w r w)

/-- 0: refused; 1: here; 2: away. -/
def reelPlace (s : State) (a : Word) (glb : Bool) (n : Nat) : Nat := placeKind (referenced s 0 0 a glb n true)

/-- `rinit` at its bounds and past them; headers that are good and not; slots that may be released and not; places of each kind. -/
theorem test_ReelWords_met :
    Meets (withReel 12 4 0 0) (4 * 256 + 12) (fun s => !unitBusy (me s) 15 && !acquiring s 0 0 && reelPlace s (rget (me s).la 15#4) false 16 == 1
      && placeKind (referenced s 0 0 (rget (me s).la 15#4) false 16 false) == 1) ∧
    Meets (withReel 13 4 0 0) (4 * 256 + 13) (fun s => !unitBusy (me s) 15 && !acquiring s 0 0) ∧
    Meets (withReel 0 13 0 0) (13 * 256) (fun s => !unitBusy (me s) 15 && !acquiring s 0 0) ∧
    goodHeader (word128At (withReel 12 4 0 0) (locKey 0 0x100)) ∧ ¬goodHeader 0 ∧
    (let h := word128At (withReel 4 4 0 16) (locKey 0 0x100)
     goodHeader h ∧ (15#32 - h.extractLsb' 32 32).toNat < 16 ∧ (15#32 - h.extractLsb' 32 32).toNat < (h.extractLsb' 0 32 - h.extractLsb' 32 32).toNat) ∧
    reelPlace (withReel 4 4 0 0) 0x0200000000000100#64 false 16 = 0 ∧ reelPlace (withReel 4 4 0 0) 0x0200000000000100#64 true 16 = 2 ∧
    reelPlace (withReel 4 4 0 0) 0x0100000000000108#64 false 16 = 0 ∧ (directKeys (.loc 0 0x100) 16).bind (·.head?) = some (locKey 0 0x100) := by
  refine ⟨meets_of (by decide +kernel), meets_of (by decide +kernel), meets_of (by decide +kernel), ?_, ?_, ?_, ?_, ?_, ?_, ?_⟩ <;>
    (try unfold goodHeader) <;> decide +kernel

/-- Barrier word `b` of cell 0 of a take that names it, with `a` in its operand latch. -/
def withBarrier (ph : Phase) (b : Nat) (w : BitVec 128) (a : Word) : State :=
  write128 (inTake home ph (BitVec.ofNat 64 b) a 0) (locKey 0 (0x16000 + 16 * b)) w

/-- References at their bounds, words of the context and of another, a pend at its limit, a wired set of the cell. -/
theorem test_BarrierWords_met :
    Meets (withBarrier .revocable 511 (barrierWordOf 1 false false false 2 0 0 0) 0xFFFF) 511 (fun s =>
      let w := word128At s (locKey 0 (0x16000 + 16 * 511))
      !unitBusy (me s) 14 && w.getLsbD 115 && w.toNat / 2 ^ 116 == 1 && decide ((rget (me s).la 14#4).toNat < 2 ^ 16) && !w.getLsbD 114) ∧
    Meets (withBarrier .revocable 0 (barrierWordOf 2 true false false 2 0 0 0) 0x10000) 0 (fun s =>
      let w := word128At s (locKey 0 0x16000)
      !unitBusy (me s) 14 && w.getLsbD 115 && w.toNat / 2 ^ 116 == 2 && w.getLsbD 114 && decide (2 ^ 16 ≤ (rget (me s).la 14#4).toNat)) ∧
    barrierRef 511 ∧ ¬barrierRef 512 ∧ barrierRef 0x7FF01FF#64 ∧ ¬barrierRef 0x8000000#64 ∧
    Meets (withBarrier .revocable 0 (barrierWordOf 1 false false false 2 0 0 (2 ^ 31 - 2)) 2) 0 (fun s =>
      let w := word128At s (locKey 0 0x16000)
      decide (2 ^ 31 ≤ (w.extractLsb' 0 32).toInt + 2)) ∧
    Meets (withBarrier .revocable 0 (barrierWordOf 1 false false false 2 0 0 (2 ^ 31 - 2)) 1) 0 (fun s =>
      let w := word128At s (locKey 0 0x16000)
      decide ((w.extractLsb' 0 32).toInt + 1 < 2 ^ 31) && fits (me s) [.bexp 0 1]) ∧
    Meets (modDie (inTake home .irrevocable 0xFFFFFFFF 3 0) 0 (fun d => { d with wired := rset d.wired 3 0x8001000100010000#64 })) 0xFFFFFFFF (fun s =>
      let q := rget (dieAt s (dieOf 0)).wired ((rget (me s).la 14#4).extractLsb' 0 2)
      q.getLsbD 63 && q.toNat / 2 ^ 48 % 2 ^ 12 == 1 && q.getLsbD 32 && q.getLsbD 16 && loadsDone s 0 0 && mayPerform s 0 0 s.nextOp) := by
  refine ⟨meets_of (by decide +kernel), meets_of (by decide +kernel), ?_, ?_, ?_, ?_, meets_of (by decide +kernel), meets_of (by decide +kernel),
    meets_of (by decide +kernel)⟩ <;> (try unfold barrierRef) <;> decide

/-- A grove whose gate 127 has word `w`; the take names gate `t`, with `a` and `b` in its operand latches. -/
def withGate (w t a b : Word) : State :=
  modGrove (withEnds .revocable t a b none) (groveOf 0) (fun x => { x with gates := [(127, ⟨w, none⟩)] })

theorem test_GateWords_met :
    Meets (withGate 0x8001000000000001#64 127 0 0) 127 (fun s => let w := (gateAt s (groveOf 0) 127).word
      !unitBusy (me s) 14 && w.getLsbD 63 && w.toNat / 2 ^ 48 % 2 ^ 12 == 1 && decide (0 < w.toNat % 2 ^ 32) && fits (me s) [.gdec 127]) ∧
    Meets (withGate 0x8001000000000000#64 127 0xFFFFFFFF 0x70F01#64) 127 (fun s => let w := (gateAt s (groveOf 0) 127).word
      !unitBusy (me s) 14 && w.toNat % 2 ^ 32 == 0 && !w.getLsbD 62 && rget (me s).lb 14#4 &&& ~~~0x70F07#64 == 0 && grantCell s 0 1 0
        && decide ((rget (me s).la 14#4).toNat < 2 ^ 32) && (me s).effects.isEmpty) ∧
    Meets (withGate 0x8002000000000000#64 127 0x100000000#64 8) 127 (fun s => let w := (gateAt s (groveOf 0) 127).word
      w.toNat / 2 ^ 48 % 2 ^ 12 == 2 && decide (2 ^ 32 ≤ (rget (me s).la 14#4).toNat)) ∧
    Meets (withGate 0 128 0 0) 128 (fun s => !unitBusy (me s) 14) ∧
    (let s := withGate 0x8001000000000000#64 127 5 1
     checkEnd s 0 1 (rget (me s).h ((1#64).extractLsb' 0 3)) = some (.send ⟨1, 1, 0, 0, 0, 8, 0, 0, false, true⟩)) := by
  refine ⟨meets_of (by decide +kernel), meets_of (by decide +kernel), meets_of (by decide +kernel), meets_of (by decide +kernel), ?_⟩
  exact checkEnd_made (bodyOf 1 1) (by decide) rfl rfl rfl

/-- Thread 0's take holds the engine files of cell 0, whose engines and queues stand as given. -/
def withEngines (s : State) (f : Cell → Cell) : State := modCell s 0 (fun x => f { x with efOwner := some 0, efCtx := some 1 })

/-- A queue with room and a full one, for a take that holds the files, one that does not, and one that waits. -/
theorem test_EngineWordsEnterQueues_met :
    Meets (withEngines (inTake home .revocable 5 0 0) (fun x => { x with vxq := [opOf (.vmv .always (.g 4) 1) 1] })) 5 (fun s =>
      (cellAt s 0).efOwner == some 0 && decide ((cellAt s 0).efReady ≤ s.cyc.toNat) &&
        queueRoom s 0 0 11 (cellAt s 0).vxq.length && !acquiring s 0 0 && !e3Busy s 0 0 && fits (me s) []) ∧
    Meets (withEngines (inTake home .irrevocable 5 0 0) (fun x => { x with
      mxq := [opOf (.tmv .always (.g 4) 1) 1, opOf (.tmv .always (.g 4) 2) 2] })) 5 (fun s =>
      (cellAt s 0).efOwner == some 0 && decide (2 ≤ (cellAt s 0).mxq.length) && !e3Busy s 0 0) ∧
    Meets (withEngines (inTake home .revocable 5 0 0) (fun x => { x with efReady := 256 })) 5 (fun s =>
      decide (s.cyc.toNat < (cellAt s 0).efReady) && (cellAt s 0).efOwner == some 0) ∧
    Meets (inTake home .revocable 5 0 0) 5 (fun s => (cellAt s 0).efOwner == none && !(cellAt s 0).efWait.contains 0) ∧
    Meets (modCell (inTake home .revocable 5 0 0) 0 (fun x => { x with efWait := [0] })) 5 (fun s => (cellAt s 0).efWait.contains 0) ∧
    engineUnit (.vsnd .always (.g 4) 3) = some 11 ∧ engineUnit (.gmma .always (.g 4) true false 1 2) = some 12 ∧ engineUnit (.cpoll .always (.g 4)) = some 13 :=
  ⟨meets_of (by decide +kernel), meets_of (by decide +kernel), meets_of (by decide +kernel), meets_of (by decide +kernel), meets_of (by decide +kernel),
    rfl, rfl, rfl⟩

/-- The operation `i` of thread 0 in flight in the vector engine. -/
def vxFlight (i : Instr) : EngOp := { opOf i 1 with keys := some [] }

def inVx (i : Instr) : State := withEngines (inTake home .revocable 0 0 0) (fun x => { x with vxf := some (vxFlight i) })

def inMx (i : Instr) : State := withEngines (inTake home .revocable 0 0 0) (fun x => { x with mxf := some (vxFlight i) })

theorem test_VectorLanes_met :
    vxReady (inVx (.vadd .always (.g 4) .bf16 31)) 0 (vxFlight (.vadd .always (.g 4) .bf16 31)) ∧
    (lanewise (vxFlight (.vadd .always (.g 4) .bf16 31)).insn).isSome ∧
    vxReady (inVx (.vperm .always (.g 4) .f16 0)) 0 (vxFlight (.vperm .always (.g 4) .f16 0)) ∧
    vxReady (inVx (.vbcast .always (.g 4) .i32 0)) 0 (vxFlight (.vbcast .always (.g 4) .i32 0)) ∧
    vxReady (inVx (.vcmp .always (.g 4) .le .f32 0)) 0 (vxFlight (.vcmp .always (.g 4) .le .f32 0)) :=
  ⟨⟨rfl, rfl, [], rfl⟩, rfl, ⟨rfl, rfl, [], rfl⟩, ⟨rfl, rfl, [], rfl⟩, ⟨rfl, rfl, [], rfl⟩⟩

/-- A `gmma` of FP32 tiles of one element whose B lies in grove memory at 0. -/
def joinOp : EngOp := { opOf (.gmma .always (.g 4) false false 0 0) 1 with tcfgA := 0x30000000000 }

/-- Files free with a take waiting; operations that start, and fault; a join of 16 cells whose B is read; a `vrecv` whose time is up. -/
theorem test_EngineStarts_met :
    (let s := modCell (inTake home .revocable 0 0 0) 0 (fun x => { x with efWait := [0, 3] })
     (cellAt s 0).efOwner = none ∧ (cellAt s 0).efWait = [0, 3]) ∧
    (let o := opOf (.vadd .always (.g 4) .f32 1) 1
     let s := { withEngines (inTake home .revocable 0 0 0) (fun x => { x with vxq := [o] }) with cyc := 1 }
     (cellAt s 0).vxf = none ∧ o.pushed < s.cyc.toNat ∧ crossWaits ((cellAt s 0).mxf.toList ++ (cellAt s 0).mxq) o = false ∧
      withNarrow (vxNarrow s 0 o) (vxOperandFault s 0 1 o) = none ∧ engineMemory o.insn = false) ∧
    (let o := { opOf (.vadd .always (.g 4) .f32 1) 1 with t := 32 }
     withNarrow (vxNarrow home 0 o) (vxOperandFault home 0 1 o) ≠ none) ∧
    (let o := opOf (.tzero .always (.g 4) 1) 1
     let s := { withEngines (inTake home .revocable 0 0 0) (fun x => { x with mxq := [o] }) with cyc := 1 }
     (cellAt s 0).mxf = none ∧ o.pushed < s.cyc.toNat ∧ crossWaits ((cellAt s 0).vxf.toList ++ (cellAt s 0).vxq) o = false ∧
      withNarrow (mxNarrow s 0 o) (mxOperandFault o) = none ∧ engineMemory o.insn = false) ∧
    (let o := { opOf (.tmv .always (.g 4) 1) 1 with t := 8 }
     withNarrow (mxNarrow home 0 o) (mxOperandFault o) ≠ none) ∧
    (let j : Join := ⟨1, 0, 0, false, 0, 0, List.range 16⟩
     (modGrove home 0 (fun g => { g with joins := [j] })).groves.length = 1 ∧
      (groveAt (modGrove home 0 (fun g => { g with joins := [j] })) 0).joins.find? (fun j => j.ctx == 1 && j.cells.length == 16) = some j ∧
      (match joinRead (modGrove home 0 (fun g => { g with joins := [j] })) j 0 with | .bytes _ => true | _ => false) = true) ∧
    (let o := { vxFlight (.vrecv .always (.g 4) .i32 5) with a := 10, start := 0 }
     let s := { withEngines (inTake home .revocable 0 0 0) (fun x => { x with vxf := some o }) with cyc := 10 }
     (cellAt s 0).vxf = some o ∧ (recvHead s 0 o).isNone = true ∧ o.a.toNat % 2 ^ 32 ≠ 0 ∧ o.a.toNat % 2 ^ 32 ≤ s.cyc.toNat - o.start) := by
  refine ⟨⟨?_, ?_⟩, ⟨?_, ?_, ?_, ?_, ?_⟩, ?_, ⟨?_, ?_, ?_, ?_, ?_⟩, ?_, ⟨?_, ?_, ?_⟩, ⟨?_, ?_, ?_, ?_⟩⟩ <;> decide +kernel

/-- A whole vector of local memory, read and written through the engine. -/
theorem test_EngineCompletions_met :
    (vxResult (thr home 0 0) (cellAt home 0).v (vxFlight (.vredmax .always (.g 4) .i32))).isSome = true ∧
    (let o := { vxFlight (.vld .always (.g 4) .loc .all 1) with runs := [(.loc 0 0x100, 256)], keys := some (keysFrom (locKey 0 0x100) 256) }
     let s := withEngines (inTake home .revocable 0 0 0) (fun x => { x with vxf := some o })
     (match readRuns s 0 0 o (keysFrom (locKey 0 0x100) 256) with | .ok bss => bss.flatten.length == 256 | _ => false) = true) ∧
    mxReady (inMx (.tzero .always (.g 4) 7)) 0 (vxFlight (.tzero .always (.g 4) 7)) ∧
    mxReady (inMx (.tmv .always (.g 4) 0)) 0 (vxFlight (.tmv .always (.g 4) 0)) ∧
    mxReady (inMx (.aclr .always (.g 4) 3)) 0 (vxFlight (.aclr .always (.g 4) 3)) ∧
    mxReady (inMx (.skset .always (.g 4) 3)) 0 (vxFlight (.skset .always (.g 4) 3)) := by
  refine ⟨?_, ?_, ⟨rfl, rfl, [], rfl⟩, ⟨rfl, rfl, [], rfl⟩, ⟨rfl, rfl, [], rfl⟩, ⟨rfl, rfl, [], rfl⟩⟩ <;> decide +kernel

theorem test_MatrixProducts_met :
    mxReady (inMx (.mma .always (.g 4) false false 0 3)) 0 (vxFlight (.mma .always (.g 4) false false 0 3)) ∧
    bandsOk (opShape 0) (cellAt (inMx (.mma .always (.g 4) false false 0 3)) 0).t 0 = true ∧ (∃ cl, classInt cl = true) ∧
    (2 ^ 32 - 1 : Nat) < 2 ^ 32 :=
  ⟨⟨rfl, rfl, [], rfl⟩, by decide +kernel, ⟨classFor .i8, by decide⟩, by decide⟩

/-- A take whose latch `u` waits for `p`. -/
def waitsOn (u : BitVec 4) (p : Pending) : State := { tweak (inTake home .revocable 0 0 0) (fun x => { x with y := rset x.y u (.pending p) }) with cyc := 10 }

/-- Each wait with its end at hand and not: results, reel slots, watches, times, the budget. -/
theorem test_WaitsEnd_met :
    rget (thr (tweak home (fun x => { x with y := rset x.y 3 (.busy 7) })) 0 0).y 3 = .busy 7 ∧
    rget (thr (tweak home (fun x => { x with y := rset x.y 3 (.ready 7) })) 0 0).y 3 = .ready 7 ∧
    (let s := write128 (waitsOn 15 (.rawait (.loc 0 0x100) 0 5 true)) (locKey 0 0x100) (mkReel 0 4 4 6 0 6)
     let h := sixteenAt s (.loc 0 0x100)
     headerWait s 0 0 = false ∧ directKeys (.loc 0 0x100) 16 ≠ none ∧ goodHeader h ∧ (h.extractLsb' 0 32 - 5#32).toNat = 1 ∧
      (h.extractLsb' 0 32 - 6#32).toNat = 0) ∧
    rget (thr (waitsOn 15 (.mwait 0 10)) 0 0).y 15 = .pending (.mwait 0 10) ∧
    rget (thr (waitsOn 14 (.bwait 3 true 0 10)) 0 0).y 14 = .pending (.bwait 3 true 0 10) ∧
    (waitsOn 14 (.bwait 3 true 0 10)).cyc.toNat - 0 = 10 ∧
    (thr (inTake home .revocable 0 0 0) 0 0).bdgt = 64 ∧ (thr (tweak (inTake home .revocable 0 0 0) (fun x => { x with bdgt := 0 })) 0 0).bdgt = 0 := by
  refine ⟨?_, ?_, ⟨?_, ?_, ?_, ?_, ?_⟩, ?_, ?_, ?_, ?_, ?_⟩ <;> (try unfold goodHeader) <;> decide +kernel

/-- Thread 0 of cell 0 waits on wired set 3, whose word is `w`. -/
def onSet (w : Word) : State := modDie (waitsOn 14 (.hwbar 3 0 10)) 0 (fun d => { d with wired := rset d.wired 3 w })

theorem undelivered (ctx : Nat) : ¬comesTo (onSet 0x8001000100010000#64) 0 ctx 3 := by
  have z : rget (dieAt (onSet 0x8001000100010000#64) (dieOf 0)).wiredAt 3 = [] := by decide +kernel
  rintro ⟨e, h, _⟩
  rw [z] at h
  cases h

/-- A set of one cell that is complete, one of two that is not, and a completion that comes to a cell in 4 cycles, or across groves in 12. -/
theorem test_WaitsEnd_wired_met :
    (waitsFor (thr (onSet 0x8001000100010000#64) 0 0) 3 ∧ setComplete (onSet 0x8001000100010000#64) 0 3 ∧ ¬comesTo (onSet 0x8001000100010000#64) 0 1 3) ∧
    (waitsFor (thr (onSet 0x8001000100030000#64) 0 0) 3 ∧ ¬setComplete (onSet 0x8001000100030000#64) 0 3) ∧
    comesTo (modDie home 0 (fun d => { d with wiredAt := rset d.wiredAt 3 [⟨6, [0], 1, 1⟩] })) 0 1 3 ∧ (9 : Nat) < 6 + 4 ∧ (6 : Nat) + 4 ≤ 10 ∧
    groveOf 0 = groveOf 3 ∧ groveOf 0 ≠ groveOf 4 := by
  have nc := undelivered
  refine ⟨⟨⟨0, 10, ?_⟩, ⟨?_, ⟨0, ?_⟩, fun c hc => ?_⟩, nc 1⟩, ⟨⟨0, 10, ?_⟩, ?_⟩, ⟨⟨6, [0], 1, 1⟩, ?_, by decide, by decide⟩, by decide, by decide, by decide, by decide⟩
  case refine_4 =>
    have hw : rget (dieAt (onSet 0x8001000100010000#64) 0).wired 3 = 0x8001000100010000#64 := by decide +kernel
    rw [hw] at hc
    have h0 : c = 0 := by
      have hl : c < 256 := by
        simp only [takesPart, Bool.and_eq_true, decide_eq_true_eq] at hc; omega
      revert hc
      revert c
      decide +kernel
    subst h0
    exact ⟨0, ⟨0, 10, by decide +kernel⟩, nc _⟩
  case refine_6 =>
    rintro ⟨_, _, h⟩
    obtain ⟨t, ⟨start, lim, ht⟩, _⟩ := h 1 (by decide +kernel)
    have hn : ∀ t, rget (thr (onSet 0x8001000100030000#64) 1 t).y 14#4 = .untriggered := by decide +kernel
    rw [hn t] at ht
    cases ht
  all_goals decide +kernel


/-- Takes that settle, print, print with sends last, turn irrevocable, wait, and are free. -/
theorem test_TakesPrint_met :
    (let x := thr (tweak (inTake home .settling 0 0 0) (fun x => { x with orc := 1 })) 0 0
     x.phase = .settling ∧ x.orc ≠ 0) ∧
    (let x := thr (inTake home .printing 0 0 0) 0 0
     x.phase = .printing ∧ x.effects = [] ∧ x.consumed = [] ∧ x.msg.lane = none ∧ x.origin = .completion) ∧
    (let x := thr (tweak (inTake home .settling 0 0 0) (fun x => { x with origin := .landing 0x200 48 })) 0 0
     x.phase = .settling ∧ x.orc = 0 ∧ x.origin = .landing 0x200 48) ∧
    (let s := tweak (inTake home .printing 0 0 0) (fun x => { x with effects := [.hsave 0 0, .send (.chan 5) 0 0 [] 1] })
     let x := thr s 0 0
     let s1 := (performAll 0 0 (x.effects.filter (fun e => !isSend e)) s).1
     let s2 := modThr s1 0 0 (fun x => { x with consumed := [] })
     (performAll 0 0 (x.effects.filter (fun e => !isSend e)) s).2.1 = [] ∧ (thr s1 0 0).consumed = [] ∧
      (performAll 0 0 (x.effects.filter isSend) s2).2.1 = [] ∧ (thr (performAll 0 0 (x.effects.filter isSend) s2).1 0 0).msg.lane = none) ∧
    (let s := tweak (inTake home .revocable 0 0 0) (fun x => { x with pinning := true })
     (thr s 0 0).pinning = true ∧ (thr s 0 0).orc = 0 ∧ enginesIdle (cellAt s 0) 0 = true ∧ (thr s 0 0).effects = []) ∧
    (thr home 0 0).phase = .idle := by
  refine ⟨⟨?_, ?_⟩, ⟨?_, ?_, ?_, ?_, ?_⟩, ⟨?_, ?_, ?_⟩, ⟨?_, ?_, ?_, ?_⟩, ⟨?_, ?_, ?_, ?_⟩, ?_⟩ <;> decide +kernel

/-- Sends with credit, without, and of an end that is closed; barrier words one arrival from a phase, and two; gates of count 0, 1 and 2. -/
theorem test_EffectsPerformed_met :
    postedOf home 0 0 = [] ∧ postedOf (addSilent (inTake home .printing 0 0 0) 0 0 1 (.posted [hostKey 64] [1] none)) 0 0 = [[hostKey 64]] ∧
    isSystemKey (locKey 0 16) = false ∧ isProtected home 1 = false ∧
    (let s := withChannel (inTake home .printing 0 0 0) false none
     findSend (cellAt s 0) 1 = some ⟨1, 1, 0, 0, 0, 8, 0, 0, false, true⟩ ∧ findSend (cellAt s 0) 9 = none) ∧
    findSend (cellAt (withChannel home true none) 0) 1 = some ⟨1, 1, 0, 0, 0, 8, 0, 0, true, true⟩ ∧
    (let e : SendEnd := ⟨1, 1, 0, 0, 8, 8, 0, 0, false, true⟩
     e.w ≤ e.ns - e.ck) ∧
    (let w := barrierWordOf 1 false false false 2 0 0 0
     w.getLsbD 115 = true ∧ w.toNat / 2 ^ 116 = 1 ∧ w.toNat / 2 ^ 48 % 2 ^ 32 + 1 < w.toNat / 2 ^ 96 % 2 ^ 16) ∧
    (let w := barrierWordOf 1 false false false 2 0 1 7
     w.toNat / 2 ^ 48 % 2 ^ 32 + 1 = w.toNat / 2 ^ 96 % 2 ^ 16 ∧ (w.extractLsb' 0 32).toInt - (7 : Nat) = 0 ∧
      2 ^ 31 ≤ (w.extractLsb' 0 32).toInt + ((2 ^ 31 - 7 : Nat) : Int) ∧ (w.extractLsb' 0 32).toInt + ((2 ^ 31 - 8 : Nat) : Int) < 2 ^ 31) ∧
    (let g : GateMsg := ⟨0, 1, 0, 1, 0, 0, Msg.none⟩
     let s := modGrove (inTake home .printing 0 0 0) (groveOf 0) (fun x => { x with
       gates := [(0, ⟨0x8001000000000000#64, none⟩), (1, ⟨0xC001000000000001#64, some g⟩), (127, ⟨0x8001000000000002#64, none⟩)] })
     (gateAt s (groveOf 0) 0).word.toNat % 2 ^ 32 = 0 ∧ (gateAt s (groveOf 0) 1).word.toNat % 2 ^ 32 = 1 ∧
      (gateAt s (groveOf 0) 1).word.getLsbD 62 = true ∧ (gateAt s (groveOf 0) 1).held = some g ∧
      1 < (gateAt s (groveOf 0) 127).word.toNat % 2 ^ 32) := by
  refine ⟨?_, ?_, ?_, ?_, ⟨?_, ?_⟩, ?_, ?_, ⟨?_, ?_, ?_⟩, ⟨?_, ?_, ?_, ?_⟩, ⟨?_, ?_, ?_, ?_, ?_⟩⟩ <;> decide +kernel

/-- A request of thread 0 of cell 0 in flight. -/
def asks (k : ReqKind) (g : ReqStage) : State :=
  { inTake home .revocable 0 0 0 with reqs := [⟨1, 0, 0, 1, 0, 1, 1, 0x400, k, g, false, [], 0, 0, [], 15⟩], nextReq := 2, cyc := 0x400000 }

/-- Requests at each stage: at a peer cell that may be read and may not, at a barrier, answered, refused, lost, to a host lane, waiting for a
walk that finds no root; a peer whose writes the inbound table allows. -/
theorem test_RemoteRequests_met :
    (let s := asks (.load (.loc 0 0x100) 8 false none 0) .sent
     let r : Req := ⟨1, 0, 0, 1, 0, 1, 1, 0x400, .load (.loc 0 0x100) 8 false none 0, .sent, false, [], 0, 0, [], 15⟩
     findReq s 1 = some r ∧ firstInLine s r = true ∧ peerCheck s 0 1 0x100 8 false = none ∧ (peerCheck s 0 1 0x10000 8 false).isSome = true ∧
      isProtected s 1 = false ∧ viewUnknown ((thr s 0 0).effects.take 0) (locKey 0 0x100) 8 = false) ∧
    (findReq (asks (.barr 0 511) .sent) 1).isSome = true ∧
    inboundAllows { State.reset with inbound := [(0, BitVec.ofNat 128 (2 ^ 127 + 2 ^ 126 + 3 * 2 ^ 117 + 2 ^ 48))] } 3 0 1 true
      = true ∧
    (findReq (asks (.load (.glb 64) 16 false none 0) (.answered (.data 5))) 1).map (·.stage) = some (.answered (.data 5)) ∧
    (findReq (asks (.load (.glb 64) 8 true none 0) (.answered (.refused .notMapped))) 1).map (·.discarded) = some false ∧
    (findReq (asks (.load (.glb 64) 8 true none 0) .ecc) 1).map (·.stage) = some .ecc ∧
    1 ∈ ({ asks (.load (.loc 0 0x100) 8 false none 0) .sent with reqErrors := [1] }).reqErrors ∧
      1 ∉ (asks (.load (.loc 0 0x100) 8 false none 0) .sent).reqErrors ∧
    (findReq (asks (.posted [hostKey 64] [1] none) .applied) 1).map (·.stage) = some .applied ∧
    (findReq (asks (.posted [peerKey 3 64] [1] none) .expired) 1).map (·.stage) = some .expired ∧
    (let s := asks (.posted [peerKey 3 64] [1] none) .sent
     ∀ r, findReq s 1 = some r → reqLeaves s r = true ∧ r.born + 2 ^ 22 ≤ s.cyc.toNat ∧ r.born + 2 ^ 21 ≤ s.cyc.toNat) ∧
    (let s := asks (.posted [hostKey 64] [1, 0, 0, 0] (some (4, .swp 7))) .sent
     ∀ r, findReq s 1 = some r → (hostCarries 4 (.swp 7) = true → (hostAtomic s r).isSome = true) ∧ (laneAt s 0 (laneOf 64)).length < 32) ∧
    (let s := asks (.load (.glb 64) 8 false none 0) .sent
     (s.reqs.filter (waitsWalk s 0 1 64)).map (·.id) = [1] ∧ (1, (64#64 : Word).toNat / 2 ^ 16) ∈ (missQueue s 0).take 16 ∧ walk s 0 1 64 = none) ∧
    (let r : Req := ⟨1, 0, 0, 1, 0, 1, 1, 0x400, .posted [hostKey 64] [1, 0, 0, 0] (some (4, .swp 7)), .lane, false, [], 0, 0, [], 15⟩
     let s := setLane (asks (.posted [hostKey 64] [1, 0, 0, 0] (some (4, .swp 7))) .lane) 0 5 [⟨1, true, [hostKey 64]⟩]
     laneAt s 0 5 = [⟨1, true, [hostKey 64]⟩] ∧ findReq s 1 = some r ∧ rmwNew (.swp 7) 4 0 = some 7 ∧
      rmwNew (.cas 1 7) 4 0 = none) := by
  refine ⟨⟨?_, ?_, ?_, ?_, ?_, ?_⟩, ?_, ?_, ?_, ?_, ?_, ?_, ?_, ?_, ?_, ?_, ?_, ⟨?_, ?_, ?_⟩, ⟨?_, ?_, ?_, ?_⟩⟩
  case refine_16 =>
    intro s r h
    have : r = ⟨1, 0, 0, 1, 0, 1, 1, 0x400, .posted [peerKey 3 64] [1] none, .sent, false, [], 0, 0, [], 15⟩ := by
      have e : findReq s 1 = some ⟨1, 0, 0, 1, 0, 1, 1, 0x400, .posted [peerKey 3 64] [1] none, .sent, false, [], 0, 0, [], 15⟩ := by decide +kernel
      rw [e] at h; exact (Option.some.inj h).symm
    subst this
    refine ⟨?_, ?_, ?_⟩ <;> decide +kernel
  case refine_17 =>
    intro s r h
    have : r = ⟨1, 0, 0, 1, 0, 1, 1, 0x400, .posted [hostKey 64] [1, 0, 0, 0] (some (4, .swp 7)), .sent, false, [], 0, 0, [], 15⟩ := by
      have e : findReq s 1 = some ⟨1, 0, 0, 1, 0, 1, 1, 0x400, .posted [hostKey 64] [1, 0, 0, 0] (some (4, .swp 7)), .sent, false, [], 0, 0, [], 15⟩ := by
        decide +kernel
      rw [e] at h; exact (Option.some.inj h).symm
    subst this
    refine ⟨fun h => ?_, by decide +kernel⟩
    have hk : [hostKey 64].any isHostKey = true := by decide
    simp only [hostAtomic, hk, h]
    rfl
  all_goals decide +kernel

/-- A packet in flight to cell 0 of a device with a channel there. -/
def flying (s : State) (p : Packet) : State := { s with flights := [⟨1, 0, p, 0⟩], nextFlight := 2 }

/-- Packets at homes that are open, closed and missing, at senders known and not, at holders active, inbound and with their last generation. -/
theorem test_SplicePackets_met :
    (let s := withChannel home false none
     let h : Home := ⟨0, 1, 8, 1, [], [⟨1, 0, 0, 0, 0⟩], 0, 0, 0, false, []⟩
     let r : RecvEnd := ⟨0, 1, 0, 0, [], 0, 0, .active, false, 8, 1, none, [], none, false, none, (0, [])⟩
     let u : Stub := ⟨0, 1, 0, 5, 0, [], none, 0, 0⟩
     findHome (cellAt s 0) 0 = some h ∧ findSender h 1 = some ⟨1, 0, 0, 0, 0⟩ ∧ findSender h 9 = none ∧ freeSlotOf h = some 0 ∧
      tenantOk s 1 (holderCtx s h) = true ∧ findStub (cellAt s 0) 0 = none ∧ findRecv (cellAt s 0) 0 = some r ∧ noteSlot s r.home r.eid ⟨0, 0, 1, 0⟩ = none ∧
      findHome (cellAt home 0) 0 = none ∧ findSend (cellAt s 0) 1 = some ⟨1, 1, 0, 0, 0, 8, 0, 0, false, true⟩ ∧ resident s 0 1 = true ∧
      cqFull s 0 1 = false ∧ cqFull (modPos s 0 1 (fun p => { p with cq := List.replicate 64 Msg.none })) 0 1 = true ∧
      (modCell s 0 (fun x => { x with stubs := [u] })).cells.length = 1 ∧
      (cellAt (modCell s 0 (fun x => { x with stubs := [u] })) 0).stubs.filter (fun u => u.chan == 0) = [u]) ∧
    InFlight (flying home (.credit 1 1 3)) 1 0 (.credit 1 1 3) ∧
    InFlight (flying home (.data 0 1 0 1 0 0 false Msg.none)) 1 0 (.data 0 1 0 1 0 0 false Msg.none) ∧
    InFlight (flying home (.ship 0 1 0 1 0 [] [] 0 false)) 1 0 (.ship 0 1 0 1 0 [] [] 0 false) ∧
    InFlight (flying home (.move 0 1 0 5 1)) 1 0 (.move 0 1 0 5 1) ∧
    (let s := { flying home (.credit 1 1 3) with kills := [⟨1, 0, [], [1], [], false⟩] }
     let k : Kill := ⟨1, 0, [], [1], [], false⟩
     findFlight s 1 = some ⟨1, 0, .credit 1 1 3, 0⟩ ∧ k ∈ s.kills ∧ sweptCtx (.credit 1 1 3) = some k.ctx ∧ dieOf 0 ∉ k.routers) ∧
    (let s := modCell home 0 (fun x => { x with stubs := [⟨0, 1, 0, 5, 0, [], some 0, 0, 0⟩] })
     stubDone s 0 ⟨0, 1, 0, 5, 0, [], some 0, 0, 0⟩ = true) ∧
    (let s := withChannel home false none
     (∀ w, (posOf s 0 1).cqWait.head? = some w → w = .closure 1) ∧
      ¬∀ w, (posOf (modPos s 0 1 (fun p => { p with cqWait := [.retarget] })) 0 1).cqWait.head? = some w → w = .closure 1) := by
  have fly : ∀ p, InFlight (flying home p) 1 0 p := fun p => ⟨⟨0, rfl⟩, fun k hk => absurd hk (by simp [flying, home, modCell, putCell, State.reset])⟩
  refine ⟨⟨?_, ?_, ?_, ?_, ?_, ?_, ?_, ?_, ?_, ?_, ?_, ?_, ?_, ?_, ?_⟩, fly _, fly _, fly _, fly _, ⟨?_, ?_, ?_, ?_⟩, ?_, ⟨?_, ?_⟩⟩
  case refine_21 =>
    intro w hw
    have h : (posOf (withChannel home false none) 0 1).cqWait = [] := by decide +kernel
    rw [h] at hw
    cases hw
  case refine_22 =>
    intro h
    have e := h .retarget (by decide +kernel)
    cases e
  all_goals decide +kernel

/-- A note whose message stands in its slot, carries no handle and closes nothing. -/
theorem test_Plain_met : Plain (withChannel home false (some ⟨1, 0, false, false, false, Msg.none⟩))
    ⟨0, 1, 0, 0, [], 0, 0, .active, false, 8, 1, none, [], none, false, none, (0, [])⟩ [⟨0, 0, 1, 0⟩] := by
  intro n hn m hm
  have e : n = ⟨0, 0, 1, 0⟩ := List.mem_singleton.1 hn
  subst e
  have h : noteSlot (withChannel home false (some ⟨1, 0, false, false, false, Msg.none⟩)) 0 0 ⟨0, 0, 1, 0⟩ =
    some ⟨1, 0, false, false, false, Msg.none⟩ := by decide +kernel
  cases h.symm.trans hm
  exact ⟨rfl, rfl⟩

/-- A cell whose die runs and whose context binds classes 4 and 18; it has a message of each origin, and a thread for it. -/
def bindsTwo (f : Position → Position) : State :=
  { modPos home 0 1 (fun p => f { p with handlers := [(4, 0x8000000200000400#64), (17, 0x8000000200000400#64), (18, 0x8000000200000400#64)] }) with
    cap := 0x1000000000, cyc := 2 }

/-- What a pick is: 0 channel, 1 completion, 2 stage, 3 landing. -/
def pickKind : Pick → Nat
  | .chan _ _ _ => 0
  | .completion _ => 1
  | .stage _ _ => 2
  | .landing _ _ _ => 3

theorem test_DispatchStartsTakes_met :
    (cellPick (bindsTwo id) 0).isNone = true ∧
    ((cellPick (bindsTwo (fun p => { p with cq := [⟨mkSlate 1 17 0 false 0 0 2 0, [], none, 0⟩], cqSince := some 0 })) 0).map (fun e => (e.1, e.2.1, pickKind e.2.2)))
      = some (1, 0, 1) ∧
    ((cellPick (bindsTwo (fun p => { p with landings := [(0x200, ⟨mkSlate 1 18 4 false 0 0 2 0, [], none, 0⟩, 48)], landSince := some 0 })) 0).map
      (fun e => (e.1, e.2.1, pickKind e.2.2))) = some (1, 7, 3) ∧
    ((cellPick (modCell (withChannel (bindsTwo id) false (some ⟨1, 0, false, false, false, ⟨mkSlate 1 4 1 false 0 0 1 1, [7], none, 0⟩⟩)) 0
      (fun x => { x with recvs := x.recvs.map (fun r => { r with since := some 0 }) })) 0).map
      (fun e => (e.1, e.2.1, pickKind e.2.2))) = some (1, 0, 0) := by
  refine ⟨?_, ?_, ?_, ?_⟩ <;> decide +kernel

/-- The copy of "A clipped tile, transposed and converted" (11_copy): the source at 0, the descriptor at 0x40, the reel of 4 slots at 0x200. -/
def clipped : State :=
  let s := inTake home .idle 0 0 0
  let s := applyWrite s (keysFrom (locKey 0 0) 12) ([0x3F80, 0xC000, 0x3F00, 0x4040, 0x3E80, 0x43FA].flatMap (leBytes 2))
  let s := applyWrite s (keysFrom (locKey 0 0x40) 80)
    ([0x00090702, 0x38, 0, 0, 3, 4, 0x0000000100000001, 2, 2, 0x0000000200000003].flatMap (leBytes 8))
  write128 s (locKey 0 0x200) (mkReel 0 4 2 0 0 0)

/-- Its request, as started. -/
def clippedJob : CopyJob :=
  ⟨0, 1, 1, 0, 0x0C00000020000007, 0x3800000000000000, 0x4800000000000010, 0x40, 0, none, [], false, 0, 0, false, false, none, readDesc clipped 0 0x40⟩

def withJob (s : State) (j : CopyJob) : State := modCell s 0 (fun x => { x with jobs := [j] })

theorem test_CopyEngineRuns_met :
    (let x := cellAt (modCell clipped 0 (fun x => { x with fifo := rset x.fifo 15 ⟨.kicked 7 0, 0, 1, 0, 0, 0, 0, 0⟩ })) 0
     (rget x.fifo 15).st = .kicked 7 0 ∧ x.jobs = [] ∧ ∀ i : BitVec 4, i ≠ 15 → (rget x.fifo i).st = .free) ∧
    (let s := withJob clipped clippedJob
     let h := word128At s (jobReel 0 clippedJob)
     (cellAt s 0).jobs.find? (fun j => j.claim.isNone) = some clippedJob ∧ goodHeader h ∧ reelRoom h 1 = true ∧ 1 ≤ 2 ^ reelK h ∧
      netSource s 0 clippedJob = false ∧ netDest s 0 clippedJob = false ∧ reqLanding clippedJob = false ∧ reqSeal clippedJob ≠ 1 ∧
      copyError s 0 clippedJob = 0 ∧ isProtected s 1 = false ∧ ¬goodHeader (word128At home (jobReel 0 clippedJob))) ∧
    (let j := { clippedJob with claim := some (0, 1), moved := true }
     let s := withJob clipped j
     publishable s 0 j = true ∧ (cellAt s 0).jobs.find? (publishable s 0) = some j ∧ j.dead = false) ∧
    (let j := { clippedJob with packets := [([1, 2, 3], 0, 0)], w2 := 0x100 }
     let s := write128 (withJob clipped j) (locKey 0 0x100) (BitVec.ofNat 128 (9 * 2 ^ 64))
     (cellAt s 0).jobs.find? (fun j => !j.packets.isEmpty) = some j ∧ remPlace (j.w2.toNat % 2 ^ 56) 16 = .ok (.away (.loc 0 0x100)) ∧
      ringOk (word128At s (locKey 0 0x100)) = true ∧ peerCheck s 0 1 0x100 (16 + 2 ^ 9) true = none) ∧
    ((cellAt (withJob clipped { clippedJob with network := true }) 0).jobs.find? (fun j => j.network)).isSome = true := by
  refine ⟨⟨?_, ?_, ?_⟩, ⟨?_, ?_, ?_, ?_, ?_, ?_, ?_, ?_, ?_, ?_, ?_⟩, ⟨?_, ?_, ?_⟩, ⟨?_, ?_, ?_, ?_⟩, ?_⟩
  case refine_18 => rfl
  all_goals ((try unfold goodHeader); decide +kernel)

/-- "A clipped tile, transposed and converted": the destination bytes as the chapter gives them, and the completion record's two words. -/
theorem test_clipped_copy :
    (match exec (.copyClaim 0) (withJob clipped clippedJob) with
      | .next s => (readKeys s.mem (keysFrom (locKey 0 0x10) 8) == [0x38, 0x44, 0xC0, 0x28, 0x30, 0x7E, 0x38, 0x38]) &&
        (match exec (.copyPublish 0) s with
          | .next s' => word64At s' (locKey 0 0x210) == 0x0007000000000008#64 && word64At s' (locKey 0 0x218) == 0x43FA0000#64 && (cellAt s' 0).jobs.isEmpty
          | _ => false)
      | _ => false) = true := by decide +kernel

/-- A launch descriptor of one stage of class 4 for die `place`: reel of 4 slots at grove offset 0x100, allotment 1 of 1 to 2, size and tile 1. -/
def descOf (place init : Nat) : List Byte :=
  leBytes 8 (place + 7 * 2 ^ 48) ++ List.replicate 40 0 ++ leBytes 4 1 ++ List.replicate 12 0 ++ leBytes 4 1 ++ List.replicate 12 0 ++
    List.replicate 16 0 ++ leBytes 16 (4 + 2 * 2 ^ 8 + 2 ^ 16 + init * 2 ^ 32 + 2 * 2 ^ 48 + 0x100 * 2 ^ 80)

def launchOf (d : List Byte) : Launch := ⟨1, 1, .take 0 1, d, [0], [], [], [], [], 0, none, none⟩

/-- Cell 0 free for context 1 on a running die, with a window on its grove's memory, and the launch waiting. -/
def launching (d : List Byte) : State :=
  { modGrove home 0 (fun g => { g with windows := [(0, 0xC001000000000000#64)] }) with cap := 0x1000000000, launches := [launchOf d], nextLaunch := 2 }

/-- A launch that meets each case: a descriptor that fits, one that is malformed (allotment 3 of 1 to 2), one whose done reel lies outside the window,
one that asks for more cells than the context has; a die that does not run; no kill. -/
theorem test_LaunchIsPlaced_met :
    (let s := launching (descOf 0 1)
     let l := launchOf (descOf 0 1)
     s.launches.find? (fun l => l.ctx == 1 && l.waiting.contains 0) = some l ∧ s.kills = [] ∧ descOk (isTake l.by_) l.desc = true ∧
      doneBad s l = false ∧ doneReel s l = none ∧ capBit s 56 0 = false ∧ (dieCells s 0 1).length = 1 ∧ cellsNeeded l = 1 ∧ dieRuns s 0 = true ∧
      descStages l.desc ≤ (freeStages s 0).length ∧ (freeCells s 0 1).length = 1 ∧ (freeStages s 0)[0]? = some 0) ∧
    descOk true (descOf 0 3) = false ∧ doneReel (launching (descOf 0 3)) (launchOf (descOf 0 3)) = none ∧
    (let d := (descOf 0 1).set 18 2
     descOk true d = true ∧ doneBad (launching d) (launchOf d) = true) ∧
    (descOk true (descOf 0 2) = true ∧ (dieCells (launching (descOf 0 2)) 0 1).length < cellsNeeded (launchOf (descOf 0 2))) ∧
    dieRuns { launching (descOf 0 1) with cap := 0 } 0 = false := by
  refine ⟨⟨?_, ?_, ?_, ?_, ?_, ?_, ?_, ?_, ?_, ?_, ?_, ?_⟩, ?_, ?_, ⟨?_, ?_⟩, ⟨?_, ?_⟩, ?_⟩ <;> decide +kernel

/-- The launch with its stages and cells on die 0 allotted, cells `todo` still to write. -/
def allotted (todo : List Nat) : Launch := { launchOf (descOf 0 1) with placed := [⟨0, 0, [0], [0], [], todo⟩] }

/-- A share whose cells all wait for takes, some do, and none does. -/
theorem test_LaunchIsPlaced_cells_met :
    (let s := { launching (descOf 0 1) with launches := [allotted [0]] }
     (allotted [0]).placed.find? (fun p => p.die == 0) = some ⟨0, 0, [0], [0], [], [0]⟩ ∧ takesRun s 0 1 = false ∧ resident s 0 1 = true ∧
      (writeGroups 0 1 (groupRecs (allotted [0]).desc) [] s).2.2 = true ∧ reelsOk s (allotted [0]) 0 = true ∧
      (lotsOf (allotted [0]) ⟨0, 0, [0], [0], [], [0]⟩)[0]? = some [0] ∧ (lotsOf (allotted [0]) ⟨0, 0, [0], [0], [], [0]⟩).flatten.count 0 = 1) ∧
    (let s := inTake { launching (descOf 0 1) with launches := [allotted [0, 1]] } .revocable 0 0 0
     [0, 1].filter (fun c => takesRun s c 1) = [0] ∧ [0].filter (fun c => takesRun s c 1) = [0] ∧ ∀ k ∈ s.launches, k.ctx = 1 → k.status = 0) := by
  refine ⟨⟨?_, ?_, ?_, ?_, ?_, ?_, ?_⟩, ⟨?_, ?_, ?_⟩⟩ <;> decide +kernel

/-- The launch placed, with its grove's counter up and confirmed. -/
def running : Launch := { launchOf (descOf 0 1) with waiting := [], up := [0], confirmed := [0], armed := [0], placed := [⟨0, 0, [], [], [], []⟩] }

/-- Counters of a launch that rise, are confirmed and fall to none; sample and interval cycles; a donor and a recipient 2^13 apart; a cell to move. -/
theorem test_LaunchesCompleteAndBalance_met :
    (let s := { launching (descOf 0 1) with launches := [running] }
     findLaunch s 1 = some running ∧ groveBusy s 1 0 = false ∧ groveBusy (tweak (inTake s .revocable 0 0 0) (fun x => { x with
      msg := { Msg.none with launch := 1 } })) 1 0 = true ∧ running.status = 0 ∧ running.claim = none ∧ canEnd s running ∧
      settleLaunch { launching (descOf 0 1) with launches := [{ running with up := [0, 1] }] } 1 = none) ∧
    (let l := { running with confirmed := [], armed := [] }
     (0 : Nat) = 0 / 16 * 16 + (stageRec l.desc 0).grove ∧ (∃ p ∈ l.placed, p.die = 0 / 16) ∧ 0 ∉ l.armed ∧ 0 ∉ l.confirmed ∧ 0 ∈ l.up) ∧
    (64#64).toNat % 64 = 0 ∧ (65#64).toNat % 64 ≠ 0 ∧ (65536#64).toNat % 2 ^ ((dieAt State.reset 0).balancer.toNat / 2 ^ 32 % 32) = 0 ∧
    (let g : Stage := { Stage.reset with v := true, k := 1, min := 1, max := 9, cur := 9 }
     let s := modDie home 0 (fun d => { d with stages := rset (rset d.stages 0 g) 31 { g with cur := 1, acc := 1 } })
     balanceMove s 0 1 = some (0, 31, 8)) ∧
    (let s := modPos home 0 1 (fun p => { p with retarget := [(3, 4, 7)] })
     (posOf s 0 1).retarget = [(3, 4, 7)] ∧ donorRuns s 0 1 3 = false ∧ cqFull s 0 1 = false ∧ (posOf s 0 1).cqWait.head? = none ∧
      (posOf s 0 1).idstage ≠ BitVec.ofNat 64 (2 ^ 63 + 4)) ∧
    (posOf (modPos home 0 1 (fun p => { p with cqWait := [.closure 1], idstage := 0x8000000000000004#64 })) 0 1).cqWait.head? = some (.closure 1) := by
  refine ⟨⟨?_, ?_, ?_, ?_, ?_, ?_, ?_⟩, ⟨?_, ⟨⟨0, 0, [], [], [], []⟩, ?_, ?_⟩, ?_, ?_, ?_⟩, ?_, ?_, ?_, ?_, ⟨?_, ?_, ?_, ?_, ?_⟩, ?_⟩
  case refine_6 =>
    intro k hk
    have : doneReel { launching (descOf 0 1) with launches := [running] } running = none := by decide +kernel
    cases this.symm.trans hk
  all_goals decide +kernel

/-- Partition 0 is enabled with rings of 16 entries; it owns context 1; entry 0 of its ring stands in host memory at 0x1000 as given. -/
def host (w0 w1 : Word) (tail : BitVec 32) : State :=
  let s := modPart { State.reset with secWords := [(1, 0x8000000000000000#64)] } 0 (fun p => { p with
    ctl := 0x8000000F00000000#64, sqbase := 0x1000, sqk := 4, cqbase := 0x2000, cqk := 4, sqtail := tail })
  applyWrite s (keysFrom (hostKey 0x1000) 16) (leBytes 8 w0.toNat ++ leBytes 8 w1.toNat)

/-- Doorbells taken and ignored; entries of the context, of a foreign one, with a reserved bit; a descriptor being read; rings full and not. -/
theorem test_HostInterface_met :
    (let s := host 1 0x3000 0
     ¬doorbellIgnored (part s 0) 16 ∧ doorbellIgnored (part s 0) 17 ∧ nextSubmitter s = none ∧ owns s 0 1 ∧ ¬owns s 0 2) ∧
    nextSubmitter (host 1 0x3000 1) = some 0 ∧
    (let w : Word := 0x1001#64
     w.toNat / 2 ^ 12 % 2 ^ 36 ≠ 0) ∧
    (let s := modPart (host 1 0x3000 1) 0 (fun p => { p with reading := some (0, 1, 0x3000) })
     (part s 0).reading = some (0, 1, 0x3000)) ∧
    (let p := { part (host 1 0x3000 1) 0 with cqtail := 16, cqhead := 0 }
     ringOf p.cqk = some 4 ∧ 2 ^ 4 ≤ (p.cqtail - p.cqhead).toNat ∧ (p.cqtail - (1 : BitVec 32)).toNat < 2 ^ 4) ∧
    (let p := { part (host 1 0x3000 1) 0 with pend := [15], msixOn := true }
     15 ∈ p.pend ∧ 15 ≤ p.ctl.toNat / 2 ^ 32 % 2 ^ 11 ∧ 3 ∉ p.pend ∧ p.msixOn = true ∧ p.msixMask = false ∧ 15 ∉ p.unmasked) ∧
    partContexts State.reset 0 = [] ∧ (part (host 1 0 0) 0).ctl.getLsbD 61 = false ∧
    (part (match exec (.sqDoorbell 0 16) (host 1 0x3000 0) with | .next s => s | _ => home) 0).rang = some 0 ∧
    ringOf (part State.reset 0).cqk = none ∧
    (let s := { asks (.load (.glb 64) 8 false none 0) .sent with inbound := [] }
     ∀ r, findReq s 1 = some r → r.id = 1 ∧ r.stage = .sent ∧ readsHost s r = false) := by
  have h : ringOf (part (host 1 0x3000 0) 0).sqk = some 4 := by decide +kernel
  refine ⟨⟨?_, ?_, ?_, ?_, ?_⟩, ?_, ?_, ?_, ⟨?_, ?_, ?_⟩, ⟨?_, ?_, ?_, ?_, ?_, ?_⟩, ?_, ?_, ?_, ?_, ?_⟩ <;>
    (try simp only [doorbellIgnored, owns, h]) <;> decide +kernel

/-- Entries that management writes find in use and free: groups, wired sets, gates, windows, pinned regions, pages. -/
theorem test_ManagementWrites_met :
    (let s := modDie home 0 (fun d => { d with groups := (List.range 4).map (fun i => (i, (1#384 <<< 383) ||| 0x8001000000000000#384)) })
     inFourGroups s 0 9 255 ∧ ¬inFourGroups s 0 3 255) ∧
    setBusy (onSet 0x8001000100010000#64) 0 3 ∧
    ((dieAt home 0).wiredWrites = [] ∧ home.windowWrites = [] ∧ pinnedWaiting home 0 4095 = [] ∧
      ({ home with windowWrites := [(3, 0)] }).windowWrites.head? = some (3, 0)) ∧
    gateTaken ⟨0xC001000000000001#64, none⟩ 0x8002000000000000#64 ∧ ¬gateTaken ⟨0xC001000000000001#64, none⟩ 0x8001000000000000#64 ∧
    reductionOpen (asks (.posted [1] [1] (some (1, .swp 7))) .sent) ∧ ¬reductionOpen home ∧
    pinnedInUse (withJob home { clippedJob with w0 := 0x0020000000000000#64, w1 := 0x0FFF000000000000#64 }) 0 4095 = true ∧
    pinnedInUse home 0 4095 = false ∧
    pageIdle (asks (.posted [1] [1] none) .sent) 1 0 3 = false ∧ pageIdle home 1 0 3 = true := by
  refine ⟨⟨?_, ?_⟩, ⟨0, ?_, 0, ⟨0, 10, ?_⟩, undelivered _⟩, ⟨?_, ?_, ?_, ?_⟩, ?_, ?_, .inl ⟨_, List.mem_singleton.2 rfl, [1], [1], _, rfl⟩, ?_,
    ?_, ?_, ?_, ?_⟩
  case refine_11 =>
    rintro (⟨r, hr, _⟩ | ⟨e, he, x, hx, _, _, _, _, _, _, h⟩)
    · exact absurd hr (by simp [home, modCell, putCell, State.reset])
    · have z : (home.cells.all (fun e => e.2.threads.toList.all (fun x => x.effects.isEmpty))) = true := by decide +kernel
      simp only [List.all_eq_true, List.isEmpty_iff] at z
      rw [z e he x hx] at h
      cases h
  all_goals ((try unfold inFourGroups); (try unfold gateTaken); decide +kernel)

theorem test_ManagementWindow_met :
    (rget (cellAt home 0).pos 0).ctx = some 1 ∧ (rget (cellAt home 0).pos 3).ctx = none ∧ State.reset.mailbox.go = false ∧
    ({ State.reset with mailbox := { Mailbox.reset with go := true } }).mailbox.go = true := by
  refine ⟨?_, ?_, ?_, ?_⟩ <;> decide +kernel

/-- A kill flood of context 1 with what it has done so far. -/
def killing (swept routers done : List Nat) (flushed : Bool) : State :=
  { inTake home .irrevocable 0 0 0 with kills := [⟨1, 0, swept, routers, done, flushed⟩], cyc := 4096 }

theorem test_KillRemovesTheContext_met :
    findKill (killing [] [] [] false) 1 = some ⟨1, 0, [], [], [], false⟩ ∧ (∀ k ∈ home.kills, k.ctx ≠ 1) ∧
    resident (killing [] [] [] false) 0 1 = true ∧ (killing [] [] [] false).cyc.toNat - 0 = 4096 ∧
    unsettled (killing [0] [] [] false) 1 (fun _ => true) = false ∧
    unsettled (asks (.posted [1] [1] none) .sent) 1 (fun _ => true) = true ∧
    (let s := killing [0] [0, 1, 2, 3] [] true
     ∀ d ∈ killCells s 1, d = 0 ∨ d ∈ ([] : List Nat)) := by
  refine ⟨?_, ?_, ?_, ?_, ?_, ?_, ?_⟩ <;> decide +kernel

/-- The mailbox with command `n` and its arguments. -/
def asked (s : State) (n : BitVec 16) (a0 a1 a2 a3 a4 : Word) : State :=
  { s with mailbox := { s.mailbox with go := true, cmd := n, args := rset (rset (rset (rset (rset s.mailbox.args 0 a0) 1 a1) 2 a2) 3 a3) 4 a4 } }

/-- Key slot 1 holds a tenant's volume key and slot 2 its tenant key. -/
def keyed : State :=
  { State.reset with keys := rset (rset State.reset.keys 1 ⟨true, 2, false, 5, 1, 77, 0⟩) 2 ⟨true, 1, false, 5, 1, 78, 7⟩ }

/-- Each command with arguments that are well formed, and what makes it wait, fail and succeed. -/
theorem test_TrustCommands_met :
    ((asked State.reset 10 0 0 0 0 0).mailbox.go = true ∧ commandOk (asked State.reset 10 0 0 0 0 0) = false) ∧
    commanded (asked State.reset 1 0x1000FFF 0 0 0 0) 1 ∧ commanded (asked keyed 1 0x0202000001#64 0 0 0 0) 1 ∧
    (secWord State.reset 0xFFF).getLsbD 63 = false ∧ (rget keyed.keys 2).kind = 1 ∧
    (commanded (asked home 2 1 0 0 0 0) 2 ∧ resident home 0 1 = true ∧ takesRun home 0 1 = false ∧ takesRun (inTake home .revocable 0 0 0) 0 1 = true ∧
      resident home 0 2 = false) ∧
    (commanded (asked State.reset 3 0x500000000#64 0 0 0 2) 3 ∧ State.reset.mailbox.session = none) ∧ (2 ^ 36 : Nat) ≤ (0x1000000000#64).toNat - 0 ∧
    (foreign keyed 6 1 ∧ ¬foreign keyed 5 1 ∧ ¬foreign keyed 6 3) ∧
    (commanded (asked keyed 4 0 0x10000 0x10000 0x40000 1) 4 ∧ (rget keyed.keys 1).kind = 2 ∧ rangeFits keyed 0 0x10000 0x10000 0x40000 = true ∧
      rangeFits keyed 0 0x10000 0x10000 0x10000 = false) ∧
    (let s := { keyed with ranges := rset keyed.ranges 0 ⟨true, true, 1, 1, false, 0, 0x40000, 0x10000, 0x10000⟩ }
     rangeHeld s (rget s.ranges 0) = false ∧ someSweep s ∧ commanded (asked s 5 0 1 0 0 0) 5 ∧ named s 1 ∧ ¬named State.reset 1 ∧
      (rget s.ranges 0).sptr.toNat < (rget s.ranges 0).len.toNat / 256) ∧
    commanded (asked State.reset 6 15 0 0 0 0) 6 ∧ commanded (asked State.reset 6 0x40 0 0 0 0) 6 ∧ commanded (asked State.reset 7 63 0 0 0 0) 7 ∧
    (commanded (asked State.reset 8 0 0x1000 0 0 0) 8 ∧ State.reset.secWords = [] ∧ 264 * saveBlocks (asked State.reset 8 0 0x1000 0 0 0) ≤ (0x1000#64).toNat) ∧
    commanded (asked State.reset 9 8 0 0 0 0) 9 ∧ ({ State.reset with asleep := some (0, 0) }).asleep = some (0, 0) := by
  refine ⟨⟨?_, ?_⟩, ⟨?_, ?_, ?_⟩, ⟨?_, ?_, ?_⟩, ?_, ?_, ⟨⟨?_, ?_, ?_⟩, ?_, ?_, ?_, ?_⟩, ⟨⟨?_, ?_, ?_⟩, ?_⟩, ?_, ⟨⟨?_, ?_⟩, ?_, ?_⟩,
    ⟨⟨?_, ?_, ?_⟩, ?_, ?_, ?_⟩, ⟨?_, ⟨0, ?_, ?_⟩, ⟨?_, ?_, ?_⟩, Or.inr ⟨0, ?_, Or.inl ?_⟩, ?_, ?_⟩, ⟨?_, ?_, ?_⟩, ⟨?_, ?_, ?_⟩, ⟨?_, ?_, ?_⟩,
    ⟨⟨?_, ?_, ?_⟩, ?_, ?_⟩, ⟨?_, ?_, ?_⟩, ?_⟩ <;> (try unfold foreign) <;> (try unfold named) <;> decide +kernel

/-- A die at each step of its bring-up, its clock full, at its least and between. -/
theorem test_BringUpAndClocks_met :
    (let s := { State.reset with cap := 0x4000000000000000#64 }
     capIs s 62 = true ∧ (dieAt s 3).bringup = 0) ∧
    (dieAt (modDie State.reset 3 (fun d => { d with bringup := 1 })) 3).bringup = 1 ∧
    (let s := { modDie State.reset 3 (fun d => { d with bringup := 3, raised := true }) with cap := 0x8000008000#64 }
     capIs s (36 + 3) = true ∧ (dieAt s 3).raised = true ∧ 4 < clkField s 3 ∧ clkField s 3 = 8) ∧
    (let s := { modDie State.reset 0 (fun d => { d with raised := true }) with cap := 0x1000000007#64 }
     capIs s 36 = true ∧ clkField s 0 = 7 ∧ (∀ e, e < 4 → (dieAt s e).raised = true → e = 0)) ∧
    (let s := { State.reset with cap := 0x1000000004#64 }
     capIs s 36 = true ∧ (dieAt s 0).raised = false ∧ clkField s 0 ≤ 4) := by
  refine ⟨⟨?_, ?_⟩, ?_, ⟨?_, ?_, ?_, ?_⟩, ⟨?_, ?_, ?_⟩, ⟨?_, ?_, ?_⟩⟩ <;> decide +kernel

/-- A handle of another context names no end here: it is stale (R239). -/
theorem test_stale_met : checkEnd home 0 1 (made (0x1002000010000000#64)) = none := by
  have h : hCtx (made (0x1002000010000000#64)) = 2 :=
    (congrArg BitVec.toNat (low_same _ _ 48 12 (by omega))).trans (by decide)
  rw [checkEnd, h]; simp

/-- A host read whose leaf names host memory; a copy that meets an error, one that is not moved, and two that are. -/
theorem test_outside_errors_met :
    (let r : Req := ⟨1, 0, 0, 1, 0, 1, 1, 0x400, .load (.glb 64) 8 false none 0, .sent, false, [⟨1, 1, 0, 0x0800000000000000⟩], 0, 0, [], 15⟩
     readsHost { home with reqs := [r] } r = true) ∧
    7 ∈ ({ home with copyErrors := [7] }).copyErrors ∧ clippedJob.order ∉ home.copyErrors ∧
    (∃ j ∈ (cellAt (withJob clipped clippedJob) 0).jobs, j.moved = false) ∧
    2 ≤ (cellAt (modCell home 0 (fun x => { x with jobs := [{ clippedJob with moved := true }, { clippedJob with moved := true, order := 2 }] })) 0).jobs.length := by
  refine ⟨?_, ?_, ?_, ⟨clippedJob, ?_, ?_⟩, ?_⟩ <;> decide +kernel

/-- A killed context whose print waits, and one whose cells on a die have all performed the kill. -/
theorem test_kill_waits_met :
    (let s := tweak (killing [] [] [] false) (fun x => { x with phase := .printing, waits := some 0, effects := [.hsave 0 0] })
     (thr s 0 0).waits ≠ none ∧ printHolds s 0 1 0 = true) ∧
    printHolds (tweak (killing [] [] [] false) (fun x => { x with phase := .printing, waits := some 0, effects := [.marker] })) 0 1 0 = false ∧
    (∀ c ∈ killCells (killing [0] [] [] false) 1, dieOf c = 0 → c ∈ [0]) ∧
    (∀ t, printHolds (killing [] [] [] false) 0 1 t = false ∧ (thr (killing [] [] [] false) 0 t).phase ≠ .printing) := by
  refine ⟨⟨?_, ?_⟩, ?_, ?_, ?_⟩ <;> decide +kernel

/-! ## Single steps with results that the spec works out -/

/-- What unit `u` computes for the word, T, A and B; with the flags of fpst. -/
def computes (i : Instr) (u : BitVec 4) (t a b : Word) : Option (Word × Word) :=
  match exec i (inTake home .revocable t a b) with
  | .next s => match rget (me s).y u with
    | .busy v => some (v, (me s).fpst)
    | _ => none
  | _ => none

/-- The cause in the trap frame of thread 0, where the word traps. -/
def trapsWith (i : Instr) (t a : Word) : Option (Nat × Phase) :=
  match exec i (inTake home .revocable t a 0) with
  | .next s => if (thr s 0 0).phase == .idle || (thr s 0 0).phase == .reporting then
      some ((rget (thr s 0 0).frame 0).toNat % 256, .idle) else none
  | _ => none

/-- R129 and the end of chapter 06: division by zero, and of the most negative number by -1. -/
theorem test_division_corners :
    computes (.div .always (.g 4)) 2 0 22 0 = some (0xFFFFFFFFFFFFFFFF, 0) ∧ computes (.rem .always (.g 4)) 2 0 22 0 = some (22, 0) ∧
    computes (.div .always (.g 4)) 2 (-1) 0x8000000000000000 0 = some (0x8000000000000000, 0) ∧
    computes (.rem .always (.g 4)) 2 (-1) 0x8000000000000000 0 = some (0, 0) := by decide +kernel

/-- R130's example. -/
theorem test_ext_ins : computes (.ext .always (.g 4)) 3 0x12C8 0xABCDEF 0 = some (0xFFFFFFFFFFFFFBCD, 0) ∧
    computes (.ins .always (.g 4)) 3 0x12C8 0xABCDEF 0x123 = some (0xA123EF, 0) := by decide +kernel

/-- R132's example: half a byte traps ALIGN. -/
theorem test_aidx : computes (.aidx .always (.g 4)) 5 6 0x6800000000001000 0 = some (0x6800000000001003, 0) ∧
    (trapsWith (.aidx .always (.g 4)) 5 0x6800000000001000).map (·.1) = some (causeCode .align) := by decide +kernel

/-- R134's example of `fma`, and the sum of two infinities: a NaN with nv. -/
theorem test_fma : computes (.fma .always (.g 4) .rne) 6 0xBF800000 0x3F800800 0x3F800800 = some (0x3A000400, 0) ∧
    computes (.fadd .always (.g 4) .rne) 6 0xFF800000 0x7F800000 0 = some (0x7FC00000, 16) := by decide +kernel

/-- R137's three cases: 500.0 and 464.0 to E4M3 (of and nx; nx alone), 128.0 to INT8 (nv); and 5.1's tie to BF16. -/
theorem test_fcvt : computes (.fcvt .always (.g 4) .f32 .e4m3 false) 6 0x43FA0000 0 0 = some (0x7E, 5) ∧
    computes (.fcvt .always (.g 4) .f32 .e4m3 false) 6 0x43E80000 0 0 = some (0x7E, 1) ∧
    computes (.fcvt .always (.g 4) .f32 .i8 false) 6 0x43000000 0 0 = some (0x7F, 16) ∧
    (computes (.fcvt .always (.g 4) .f32 .bf16 false) 6 0x3F808000 0 0).map (·.1) = some 0x3F80 := by decide +kernel

/-- R113's draw of chapter 05. -/
theorem test_draw : draw 1 0 0 = 0x00042021 := by decide +kernel

/-- Table 5.6: one group of a BF16 product, truncated below q, rounds to 1.0. -/
theorem test_group_sum :
    (groupSum 0x3F800000 ((mulV (decodeElem .bf16 0x3980) (decodeElem .bf16 0x3980)) :: (mulV (decodeElem .bf16 0x3780) (decodeElem .bf16 0x3780))
      :: List.replicate 14 (mulV (decodeElem .bf16 0) (decodeElem .bf16 0)))).1 = 0x3F800000 := by decide +kernel

/-- R156's tree: 2^24 + 1 + 1 + 1 sums to 0x4B800001. -/
theorem test_vredadd_tree :
    (let o := vxFlight (.vredadd .always (.g 4) .f32)
     let v : Vec := BitVec.ofNat 2048 (0x4B800000 + 2 ^ 32 * 0x3F800000 + 2 ^ 64 * 0x3F800000 + 2 ^ 96 * 0x3F800000)
     (vxResult (thr home 0 0) (rset (cellAt home 0).v 0 v) o).map (·.y)) = some 0x4B800001 := by decide +kernel

/-- Chapter 07's `vcvt.f32.mx8e4.amx`: the elements of Table 7.8, the two scales, the saturation. -/
theorem test_vcvt_mx8e4 :
    (let o := vxFlight (.vcvt .always (.g 4) 0 9 true false false 2)
     let v : Vec := BitVec.ofNat 2048 (0x447A0000 + 2 ^ 32 * 0x40400000 + 2 ^ 64 * 0xBD800000 + 2 ^ 1024 * 0x3F000000)
     (vxResult (thr home 0 0) (rset (cellAt home 0).v 0 v) o).map (fun r => (r.y, r.v.map (fun e => (e.1, [0, 1, 2, 32, 64, 65].map (lane 8 e.2))))))
      = some (1, [(4, [0x7E, 0x3C, 0x90, 0x78, 0x80, 0x76])]) := by decide +kernel

/-- R140, R139: the loop word of chapter 06 at 0x06 with T = 7, and the wrap of its last halfword. -/
theorem test_loop :
    (match exec (.loop .always (.g 4) 0) (tweak (inTake home .revocable 7 10 0) (fun x => { x with pc := 6, e := rset (rset x.e 6 0) 7 (-4) })) with
      | .next s => (rget (me s).lc 0).fin == 0x14 && (rget (me s).lc 0).beg == 0x0A && (me s).pc == 0x0A
      | _ => false) = true ∧
    (let x := completed { Thread.reset with pc := 0x14, lc := rset Thread.reset.lc 0 ⟨10, 0, -4, true, 0x14, 0x0A⟩ } 2
     x.pc = 0x0A ∧ (rget x.lc 0).cnt = 6) := by
  refine ⟨?_, ?_, ?_⟩ <;> decide +kernel

/-- R195: a signed byte load extends; its address is checked: a misaligned one traps ALIGN. -/
theorem test_load : (match exec (.ld .always (.g 4) .b .loc true) (applyWrite (inTake home .revocable 0x103 0 0) [locKey 0 0x103] [0x80]) with
      | .next s => rget (me s).y 7 == .busy 0xFFFFFFFFFFFFFF80
      | _ => false) = true ∧ (trapsWith (.ld .always (.g 4) .h .loc false) 0x103 0).map (·.1) = some (causeCode .align) := by decide +kernel

/-- R16: a later load of the take sees its own held store. -/
theorem test_store_forwards : (match exec (.st .always (.g 4) .d .loc) (inTake home .revocable 0x100 0x1122334455667788 0) with
      | .next s => match exec (.ld .always (.g 4) .w .loc false) (tweak s (fun x => { x with y := rset x.y 7 (.ready 0) })) with
        | .next s' => rget (me s').y 7 == .busy 0x55667788 && s'.mem.isEmpty
        | _ => false
      | _ => false) = true := by decide +kernel

/-- R304, R305, R306: the second of two arrivals flips ph and steps gen. -/
theorem test_barrier_phase :
    (match performEffect (write128 (inTake home .printing 0 0 0) (locKey 0 0x16000) (barrierWordOf 1 false false false 2 0 1 16)) 0 0 (.barr 0 0 16) with
      | .done s => word128At s (locKey 0 0x16000) == barrierWordOf 1 true false false 2 1 0 0
      | _ => false) = true := by decide +kernel

/-- R268, R263: releases out of order wait in rmask; the oldest one frees both. -/
theorem test_reel_release : let h := mkReel 0 4 2 3 0 3
    reelR (reelRelease h 1) = 0 ∧ reelR (reelRelease (reelRelease h 1) 0) = 2 := by decide +kernel

/-- R94: a register that no number names, and a supervisor's in another context (ILLEGAL and PERM). -/
theorem test_gcr_traps : (trapsWith (.gcr .always (.g 4)) 7 0).map (·.1) = some (causeCode .illegal) ∧
    (trapsWith (.gcr .always (.g 4)) 0x301 0).map (·.1) = some (causeCode .perm) := by decide +kernel

/-- R61: the all-zero word at a multiple of 4 is refused; a zero halfword at 4k + 2 moves g0 to g0. -/
theorem test_zero_words :
    (match step (tweak (State.reset.withFetchWord 32 0) (fun x => { x with pc := 0x404 })) with
      | .next s => (thr s 0 0).phase == .idle || (thr s 0 0).phase == .reporting
      | _ => false) = true ∧
    (match step (State.reset.withFetchWord 16 0) with
      | .next s => (thr s 0 0).phase == .revocable && (thr s 0 0).pc == 0x404
      | _ => false) = true := by decide +kernel

/-! ## Witnesses of single clauses -/

/-- Sums that round, that overflow in each direction and stay at the largest value, and products below the least normal value; a root. -/
theorem test_FloatSums_rounded_met :
    f32Finite 0x7F7FFFFF ∧ f32Finite 0x80000001 ∧ ¬f32Finite 0x7F800000 ∧ (exactOp (.fdiv .always (.g 4) .rup)).isSome = true ∧ f32Val 1 ≠ 0 ∧
    ¬overflows .rne (f32Top + 2 ^ (102 : ℤ)) ∧ overflows .rne (f32Top + 2 ^ (103 : ℤ)) ∧ ¬overflows .rtz (f32Top + 2 ^ (103 : ℤ)) ∧
    overflows .rtz (-2 ^ (128 : ℤ)) ∧ overflows .rdn (2 ^ (128 : ℤ)) ∧ ¬overflows .rup (-f32Top) ∧ overflows .rup (f32Top + 1) ∧
    tinyRounded .rtz (2 ^ (-127 : ℤ)) ∧ ¬tinyRounded .rtz (2 ^ (-126 : ℤ)) ∧ tinyRounded .rup (2 ^ (-149 : ℤ)) ∧ ¬tinyRounded .rne 0 ∧
    0 ≤ f32Val 0x40000000 ∧ 0 ≤ f32Val 0 := by
  have h : f32Top = 340282346638528859811704183484516925440 := by
    simp only [f32Top, f32Val]; norm_num
  refine ⟨?_, ?_, ?_, rfl, ?_, ?_, ?_, ?_, ?_, ?_, ?_, ?_, ?_, ?_, ?_, ?_, ?_, ?_⟩
  all_goals (first
    | (simp only [f32Finite]; norm_num)
    | (simp only [f32Val]; norm_num)
    | (simp only [overflows, h]; norm_num)
    | (simp only [tinyRounded]; norm_num))

/-- A finite source of each sign, the least one that exceeds the largest E4M3 value and the last that does not, infinities and NaNs; integers. -/
theorem test_ConversionResults_float_met :
    (floatShape .e4m3).isSome = true ∧ (∀ f, floatShape .e4m3 = some f → ¬exceeds f 464 ∧ exceeds f (464 + 1)) ∧
    (∀ f, floatShape .f16 = some f → exceeds f 65520 ∧ ¬exceeds f 65519) ∧
    (sourceValue .f32 0xC0000000).isSome = true ∧ (sourceValue .i8 0xFF).isSome = true ∧ sourceInf .f32 0xFF800000 = some true ∧
    sourceInf .e5m2 0x7C = some false ∧ sourceInf .e4m3 0x7F = none ∧ sourceNan .f32 0x7FC00000 ∧ sourceNan .e4m3 0xFF ∧
    (∃ f, floatShape .e2m1 = some f ∧ f.nan = none) ∧ intRange .i8 ≠ none := by
  refine ⟨rfl, ?_, ?_, rfl, rfl, rfl, rfl, rfl, ⟨rfl, rfl, rfl⟩, ⟨rfl, rfl, rfl⟩, ⟨_, rfl, rfl⟩, by decide⟩
  · intro f hf
    cases hf
    simp only [exceeds, shapeVal, signAt]
    norm_num
  · intro f hf
    cases hf
    simp only [exceeds, shapeVal, signAt]
    norm_num

/-- A take with an `lda` of scope `.cel` out: loads of its own cell wait, those of its grove do not; and the two floating adds of an atomic. -/
theorem test_LoadResults_scopes_met :
    (let s := (addRequest (inTake home .revocable 0x100 0 0) 0 0 0x400 1 (.load (.glb 64) 8 false (some .cel) 0)).1
     awaitsAcquire (thr s 0 0) = false ∧ engineMem (cellAt s 0) 0 = false ∧ loadWaits s 0 0 (.loc 0 0x100) 8 = true ∧
      loadWaits s 0 0 (.grv 0 0x100) 8 = false ∧ loadWaits s 0 0 (.glb 0x100) 8 = false) ∧
    awaitsAcquire (thr (tweak home (fun x => { x with y := rset x.y 14 (.pending (.hwbar 0 0 0)) })) 0 0) = true ∧
    (∃ f, floatShape .bf16 = some f ∧ finiteCode f 0x7F7F ∧ ¬finiteCode f 0x7F80 ∧ f.top + 1 < 0x7F81 % 2 ^ signAt f) := by
  refine ⟨⟨?_, ?_, ?_, ?_, ?_⟩, ?_, ⟨_, rfl, ?_, ?_, ?_⟩⟩ <;> (try simp only [finiteCode, signAt]) <;> decide +kernel

/-- Stores of a take that is irrevocable, of which one is performed at once and one sends its check. -/
theorem test_StoreFrame_irrevocable_met :
    (match exec (.st .always (.g 4) .d .loc) (inTake home .irrevocable 0x7F8 5 6) with | .next s' => !s'.mem.isEmpty | _ => false) = true ∧
    (match exec (.st .always (.g 4) .d .glb) (inTake home .irrevocable 0x10000 5 6) with | .next s' => s'.reqs.length == 1 | _ => false) = true := by
  constructor <;> decide +kernel

/-- Grove addresses of the own grove under a window that may be written, at its end and past it, under one that may not, under none, and of
another grove; addresses in no grove; the last byte of global memory. -/
theorem test_AddressChecks_spaces_met :
    let s := modGrove (inTake home .revocable 0 0 0) 0 (fun g => { g with windows := [(0, 0xC001000000000000#64), (1, 0x8001000000010000#64)] })
    let w := fun (a n : Nat) (wr : Bool) => placeKind (lsPlace s 0 0 .grv (BitVec.ofNat 64 a) n wr)
    w 0xFFF8 8 true = 1 ∧ w 0xFFFC 8 true = 0 ∧ w 0x10000 8 false = 1 ∧ w 0x10000 8 true = 0 ∧ w 0x20000 8 false = 0 ∧ w 0x43000000 8 true = 2 ∧
    w 0x80000000 8 false = 0 ∧ w 0x01000000 8 false = 0 ∧ (0x43000000 : Nat) / 2 ^ 30 = 1 ∧ (0x43000000 : Nat) / 2 ^ 24 % 64 = 3 ∧ groveOf 0 ≠ 3 ∧
    ¬2 ^ 56 < 0xFFFFFFFFFFFFFF + 1 ∧ 2 ^ 56 < 0xFFFFFFFFFFFFFF + 2 := by
  refine ⟨?_, ?_, ?_, ?_, ?_, ?_, ?_, ?_, ?_, ?_, ?_, ?_, ?_⟩ <;> decide +kernel

/-- Messages that came from a receive end: of one that is active, of one that has moved on behind a stub, and of one that is gone. -/
theorem test_ReturnedTo_channel_met :
    let r : RecvEnd := ⟨0, 1, 0, 0, [], 0, 1, .active, false, 8, 1, none, [], none, false, none, (0, [])⟩
    let n : Note := ⟨0, 0, 1, 0⟩
    let x := thr (tweak (inTake home .revocable 0 0 0) (fun x => { x with origin := .channel 0 n 0 })) 0 0
    x.undo = [] ∧ x.origin = .channel 0 n 0 ∧ x.consumed = [] ∧
    findRecv (cellAt (modCell home 0 (fun y => { y with recvs := [r] })) 0) 0 = some r ∧ r.closing = false ∧ findStub (cellAt home 0) 0 = none ∧
    (let s := modCell home 0 (fun y => { y with stubs := [⟨0, 1, 0, 5, 0, [], none, 1, 0⟩] })
     findStub (cellAt s 0) 0 = some ⟨0, 1, 0, 5, 0, [], none, 1, 0⟩ ∧ atStub s 0 0 n = true) := by
  refine ⟨?_, ?_, ?_, ?_, ?_, ?_, ?_, ?_⟩ <;> decide +kernel

/-- `hset` of an odd entry, and of one that lies outside every executable region. -/
theorem test_DeferredSystemWords_hset_met :
    Meets (inTake home .revocable 19 0x8000000200000401#64 0) 19 (fun s => let a := rget (me s).la 10#4
      decide (a.toNat / 2 ^ 53 % 2 ^ 10 = 0) && decide (a.toNat / 2 ^ 17 % 2 ^ 16 = 0) && a[63] && decide (a.toNat % 2 = 1)) ∧
    Meets (inTake home .revocable 0 0x800000020001FFFE#64 0) 0 (fun s => let a := rget (me s).la 10#4
      decide (a.toNat / 2 ^ 17 % 2 ^ 16 = 0) && decide (a.toNat / 2 ^ 33 % 2 ^ 20 ≠ 0) && !localOk (posOf s 0 1) (a.toNat % 2 ^ 17) 2 false true) :=
  ⟨meets_of (by decide +kernel), meets_of (by decide +kernel)⟩

/-- The take holds the engine files and names control register `n`, with `a` in the operand latch. -/
def withControl (n : Nat) (a : Word) : State :=
  modCell (inTake home .revocable (BitVec.ofNat 64 n) a 0) 0 (fun x => { x with efOwner := some 0, efCtx := some 1 })

/-- Tile configurations that are valid, at the largest, too large, and with a reserved bit; amax values at the largest and past it. -/
theorem test_ControlRegisters_values_met :
    Meets (withControl 0x107 0x7F40) 0x107 (fun s => (cellAt s 0).efOwner == some 0 && decide ((cellAt s 0).efReady ≤ s.cyc.toNat) &&
      !engineWrites (cellAt s 0) 0 0x107) ∧
    (let a := 0x07E0
     ¬(20 < a % 32 ∨ 8192 < (a / 32 % 256 + 1) * (32 * 2 ^ (a / 2 ^ 13 % 4))) ∧ 8192 < (0x7FE0 / 32 % 256 + 1) * (32 * 2 ^ (0x7FE0 / 2 ^ 13 % 4)) ∧
      20 < 21 % 32 ∧ 2 ^ 15 ≤ 0x8000) ∧
    Meets (withControl 0x10 0x7F800000) 0x10 (fun s => let a := rget (me s).la 10#4
      !a.getLsbD 31 && decide (a.toNat % 2 ^ 31 ≤ 0x7F800000) && !engineWrites (cellAt s 0) 0 0x10) ∧
    Meets (withControl 0x13 0x7F800001) 0x13 (fun s => let a := rget (me s).la 10#4
      decide (0x7F800000 < a.toNat % 2 ^ 31) && !engineWrites (cellAt s 0) 0 0x13) ∧
    Meets (modCell (inTake home .revocable 9 1 0) 0 (fun x => { x with vxq := [opOf (.vmv .always (.g 4) 1) 1] })) 9 (fun s =>
      !enginesIdle (cellAt s 0) 0 && !engineWrites (cellAt s 0) 0 9) := by
  refine ⟨meets_of (by decide +kernel), ?_, meets_of (by decide +kernel), meets_of (by decide +kernel), meets_of (by decide +kernel)⟩
  decide

/-- A head that was queued in this cycle. -/
theorem test_ReceiveTry_news_met : let r : RecvEnd := ⟨0, 1, 0, 0, [⟨0, 0, 1, 0⟩], 0, 0, .active, false, 8, 1, none, [], none, false, none, (0, [0])⟩
    headNote r = some ⟨0, 0, 1, 0⟩ ∧ r.news.1 = home.cyc.toNat ∧ (⟨0, 0, 1, 0⟩ : Note).ai ∈ r.news.2 := by
  refine ⟨rfl, rfl, ?_⟩
  decide

/-- `gset` of a message for a receive end, for a stage of its class and another, and on a gate that is armed, or that the take has armed. -/
theorem test_GateWords_ends_met :
    (let s := withGate 0x8001000000000000#64 127 5 0x402
     checkEnd s 0 1 (rget (me s).h ((0x402#64).extractLsb' 0 3)) = some (.recv ⟨0, 1, 0, 0, [], 0, 0, .active, false, 8, 1, none, [], none, false, none, (0, [])⟩) ∧
     checkEnd s 0 1 (rget (me s).h ((0x403#64).extractLsb' 0 3)) = some (.stage 3 9) ∧ (stageAt s (dieOf 0) 3).cls.toNat = (0x403#64).toNat / 2 ^ 8 % 16 ∧
     (stageAt s (dieOf 0) 3).cls.toNat ≠ (0x503#64).toNat / 2 ^ 8 % 16 ∧ grantStage s 0 1 3 = false) ∧
    (gateAt (withGate 0xC001000000000001#64 127 5 1) (groveOf 0) 127).word.getLsbD 62 = true ∧
    (let x := me (tweak (withGate 0x8001000000000000#64 127 5 1) (fun x => { x with effects := [.send (.gate (groveOf 0) 127 5 1) 4 0 [] 1] }))
     ∃ n k cls sub ws m, Effect.send (.gate (groveOf 0) 127 n k) cls sub ws m ∈ x.effects) := by
  refine ⟨⟨?_, ?_, ?_, ?_, ?_⟩, ?_, ⟨5, 1, 4, 0, [], 1, ?_⟩⟩
  · exact checkEnd_made (bodyOf 2 0) (by decide) rfl rfl rfl
  · exact checkEnd_made (bodyOf 3 (9 * 32 + 3)) (by decide) rfl rfl rfl
  all_goals decide +kernel

/-- Vector operations in flight, one for each shape of statement, and the operands of `vmerge` and `vcvt`. -/
theorem test_VectorLanes_shapes_met :
    (∀ i ∈ [Instr.vadd .always (.g 4) .f32 1, .vredadd .always (.g 4) .bf16, .vredmax .always (.g 4) .i32, .vscan .always (.g 4) .f16 2,
      .vmerge .always (.g 4) .f32 3, .vamax .always (.g 4) (.acc .bf16), .vamax .always (.g 4) .clr, .vamax .always (.g 4) .rd,
      .vamax .always (.g 4) .nanc, .vcvt .always (.g 4) 3 8 true true false 15], vxReady (inVx i) 0 (vxFlight i)) ∧
    (laneInvalid (.vfma .always (.g 4) .f16 1)).isSome = true ∧
    (let o := { vxFlight (.vmerge .always (.g 4) .f32 3) with a := 3, b := 0x2003 }
     o.a.toNat % 2 ^ 10 = o.b.toNat % 2 ^ 10 ∧ o.a.toNat % 2 ^ 10 + 1 = 2 ^ (o.b.toNat / 2 ^ 12 % 16)) ∧
    (let o := { vxFlight (.vmerge .always (.g 4) .f32 3) with a := 1, b := 0x2002 }
     o.a.toNat % 2 ^ 10 ≠ o.b.toNat % 2 ^ 10) ∧
    (floatShape .e4m3).isSome = true ∧ (intRange .e4m3).isSome = false ∧ (0x80 : Nat) ≤ 0x3F80 ∧ (0x3F80 : Nat) ≤ 0x7F7F := by
  refine ⟨fun i hi => ?_, rfl, ?_, ?_, rfl, rfl, ?_, ?_⟩
  · simp only [List.mem_cons, List.not_mem_nil, or_false] at hi
    rcases hi with rfl | rfl | rfl | rfl | rfl | rfl | rfl | rfl | rfl | rfl <;> exact ⟨rfl, rfl, [], rfl⟩
  all_goals decide

/-- An `mx` queue whose head meets an operation in flight that writes its tile, and one that does not. -/
theorem test_EngineStarts_overlap_met :
    let p := { vxFlight (.tzero .always (.g 4) 1) with id := 2 }
    mxClash p (opOf (.tst .always (.g 4) .scr 1) 1) = true ∧ mxClash p (opOf (.aclr .always (.g 4) 1) 1) = false ∧
    mxClash (vxFlight (.gmma .always (.g 4) false false 0 0)) (opOf (.gmma .always (.g 4) false false 4 3) 2) = true := by
  refine ⟨?_, ?_, ?_⟩ <;> decide +kernel

/-- Thread 0 has one copy trigger queued, for a descriptor at 0x40 and a reel at 0x200; `fill` says which entries of the FIFO are taken. -/
def inCp (i : Instr) (es : List Effect) (fill : BitVec 4 → FifoState) : State :=
  let o := { opOf i 1 with a := 0x0000000020000000, e := rset (Vector.replicate 8 0) 3 0x40 }
  let s := tweak (inTake home .revocable 0 0 0) (fun x => { x with y := rset x.y 13 (.pending .engine), effects := es })
  { modCell s 0 (fun x => { x with cpq := [o], fifo := Vector.ofFn (fun i => { rget x.fifo (BitVec.ofFin i) with st := fill (BitVec.ofFin i) }) }) with cyc := 1 }

/-- The request of a copy trigger that can be served, with an entry free, none free, all its own; and one with a bad descriptor address. -/
theorem test_EngineStarts_copy_met :
    (let s := inCp (.cpush .always (.g 4)) [.kick 1 none] (fun i => if i = 15 then .free else .kicked 1 0)
     let o := (cellAt s 0).cpq.headD (opOf (.cpoll .always (.g 4)) 9)
     (cellAt s 0).cpq = [o] ∧ o.pushed < s.cyc.toNat ∧ rget (thr s 0 0).y 13 = .pending .engine ∧ (rget o.e 3).toNat / 2 ^ 17 = 0 ∧
      (rget o.e 3).toNat % 16 = 0 ∧ localOk (posOf s 0 1) ((rget o.e 3).toNat % 2 ^ 17) 32 false false = true ∧
      placeKind (locPlace s 0 1 (o.a.toNat / 2 ^ 24 % 2 ^ 20 * 16) 16 true) = 1 ∧ (rget (cellAt s 0).fifo 15).st = .free ∧
      (rget (cellAt s 0).fifo 15).since ≤ s.cyc.toNat ∧ (thr s 0 0).effects.contains (.kick o.id none) = true) ∧
    (∀ k, (rget (cellAt (inCp (.cpushn .always (.g 4)) [] (fun _ => .reserved 3)) 0).fifo k).st ≠ .free) ∧
    (∀ k, (rget (cellAt (inCp (.cpush .always (.g 4)) [] (fun _ => .reserved 0)) 0).fifo k).st = .reserved (0#3).toNat) ∧
    (0x20000#64).toNat / 2 ^ 17 ≠ 0 ∧ (0x48#64).toNat % 16 ≠ 0 ∧ localOk (posOf home 0 1) 0xFFF0 32 false false = false := by
  refine ⟨⟨?_, ?_, ?_, ?_, ?_, ?_, ?_, ?_, ?_, ?_⟩, ?_, ?_, ?_, ?_, ?_⟩ <;> decide +kernel

/-- An operation in flight whose runs are the 16-B parts of one range of local memory. -/
def withRuns (o : EngOp) (runs : List (Target × Nat)) : EngOp := { o with runs := runs, keys := some (runs.flatMap (fun e => ((directKeys e.1 e.2).getD []))) }

/-- A message of two words, and a `vrecv` of 16-bit elements with room for four more, which stops at the word 8. -/
def twoWords : ChanSlot := ⟨1, 0, false, false, false, ⟨mkSlate 1 4 2 false 0 0 1 1, [7, 8], none, 0⟩⟩

def receives : EngOp := { vxFlight (.vrecv .always (.g 4) .f16 5) with h := made (bodyOf 2 0), b := 8, cnt := 124 }

def receiving : State := modCell (withChannel (inTake home .revocable 0 0 0) false (some twoWords)) 0 (fun x => { x with vxf := some receives })

theorem receiving_head : recvHead receiving 0 receives =
    some (⟨0, 1, 0, 0, [⟨0, 0, 1, 0⟩], 0, 0, .active, false, 8, 1, none, [], none, false, none, (0, [])⟩, ⟨0, 0, 1, 0⟩, twoWords) := by
  have h : hEid receives.h = 0 := (congrArg BitVec.toNat (low_same _ _ 28 20 (by omega))).trans (by decide)
  rw [recvHead, h]
  rfl

/-- A store of a vector in a revocable take, and in an irrevocable one that may store; a message whose first word fills a vector; a `vsnd` of four
messages; a receive end that names nothing. -/
theorem test_EngineCompletions_vector_met :
    (let o := withRuns (vxFlight (.vst .always (.g 4) .loc .hi 1)) [(.loc 0 0x100, 128)]
     let s := withEngines (inTake home .irrevocable 0 0 0) (fun x => { x with vxf := some o })
     (cellAt s 0).vxf = some o ∧ o.req = none ∧ mayPerform s 0 0 o.id = true ∧
      (performAll 0 0 [storeOf o (o.keys.getD []) [List.replicate 128 7]] s).2.1 = []) ∧
    (thr (inVx (.vst .always (.g 4) .loc .hi 1)) 0 0).phase ≠ .irrevocable ∧
    (vxReady receiving 0 receives ∧ twoWords.isClose = false ∧ twoWords.msg.lane = none ∧ twoWords.msg.slate.toNat / 2 ^ 47 % 32 ∉ [16, 17] ∧
      receives.cnt + (twoWords.msg.payload.takeWhile (fun z => z != receives.b)).length * (64 / elWidth .f16) = 2048 / elWidth .f16 ∧
      receives.b ∈ twoWords.msg.payload) ∧
    (let o := { vxFlight (.vsnd .always (.g 4) 3) with b := 32 }
     o.b.toNat ≤ 32 ∧ (o.b.toNat + 7) / 8 = 4) ∧
    (recvHead (inVx (.vrecv .always (.g 4) .f16 5)) 0 (vxFlight (.vrecv .always (.g 4) .f16 5))).isNone = true := by
  refine ⟨⟨rfl, rfl, ?_, ?_⟩, ?_, ⟨⟨rfl, rfl, [], rfl⟩, ?_, ?_, ?_, ?_, ?_⟩, ⟨?_, ?_⟩, ?_⟩ <;> decide +kernel

/-- An operation in flight whose tile operand, pointer and runs are given. -/
def tileOp (i : Instr) (w t : Word) (runs : List (Target × Nat)) : EngOp := withRuns { vxFlight i with tcfgA := w, tcfgB := w, t := t } runs

def inTile (o : EngOp) : State := withEngines (inTake home .revocable 0 0 0) (fun x => { x with mxf := some o })

/-- One row of 16 BF16 elements, loaded from FP32, from bytes and stored; one row of 64 LBF4 elements with its band scale; 32 rows converted to blocks. -/
theorem test_EngineCompletions_tiles_met :
    (let o := tileOp (.tld .always (.g 4) .loc 1) 7 0x3000000000000100#64 [(.loc 0 0x100, 64)]
     mxReady (inTile o) 0 o ∧ ptrFmt o.t = some .f32 ∧ (opShape o.tcfgA).fmt = .bf16 ∧ shapeOf o.tcfgA = some (opShape o.tcfgA) ∧ spanOk (opShape o.tcfgA) 1 = true ∧
      (match readRuns (inTile o) 0 0 o (o.keys.getD []) with
        | .ok bss => bss.length == (opShape o.tcfgA).rows && (bss.getD 0 []).length == imageLen .f32 (opShape o.tcfgA).e
        | _ => false) = true) ∧
    (let o := tileOp (.tld .always (.g 4) .loc 7) 14 0x100 [(.loc 0 0x100, 40), (.loc 0 0x200, 2)]
     ptrFmt o.t = some .byte ∧ (opShape o.tcfgA).fmt = .lbf4 ∧ spanOk (opShape o.tcfgA) 7 = true ∧
      (let s := applyWrite (inTile o) (keysFrom (locKey 0 0x200) 2) [0x80, 0x3F]
       match readRuns s 0 0 o (o.keys.getD []) with
        | .ok bss => bss.length == 2 && (bss.getD 0 []).length == imageLen .lbf4 (opShape o.tcfgA).e && leNat (bss.getD 1 []) == 0x3F80
        | _ => false) = true) ∧
    (let o := tileOp (.tst .always (.g 4) .loc 1) 7 0x100 [(.loc 0 0x100, 32)]
     mxReady (inTile o) 0 o ∧ spanOk (opShape o.tcfgA) 1 = true) ∧
    (let o := tileOp (.tcst .always (.g 4) .loc true false false 0) (7 + 31 * 32) 0x4800000000000100#64 []
     mxReady (inTile o) 0 o ∧ ptrFmt o.t = some .e4m3 ∧ (opShape o.tcfgA).rows % 32 = 0 ∧ blockLen (opShape o.tcfgA).fmt = 0) := by
  refine ⟨⟨⟨rfl, rfl, _, rfl⟩, ?_, ?_, ?_, ?_, ?_⟩, ⟨?_, ?_, ?_, ?_⟩, ⟨⟨rfl, rfl, _, rfl⟩, ?_⟩, ⟨rfl, rfl, _, rfl⟩, ?_, ?_, ?_⟩ <;> decide +kernel

/-- Row walks that keep and skip all; a skip list in local memory; the operand of a `gmma` whose B has come; `tacc` of a span at the last row and column. -/
theorem test_MatrixProducts_forms_met :
    (RowWalk 1 8 [0x01] ∧ RowWalk 15 0 [0xF0] ∧ ¬RowWalk 2 8 [0x02]) ∧
    (let o := tileOp (.mmsk .always (.g 4) 2 0 3) 6 1 []
     let s := applyWrite (inTile o) [locKey 0 0] [0x01]
     mxReady (inTile o) 0 o ∧ bandsOk (opShape o.tcfgA) (cellAt s 0).t 0 = true ∧ (opShape o.tcfgB).e % 8 = 0 ∧ (opShape o.tcfgA).rows = 1 ∧
      (rget (thr s 0 0).sk 2).toNat % 2 ^ 17 + 1 ≤ 0x16000 ∧ localOk (posOf s 0 1) 0 1 false false = true ∧
      leNat (viewDirect s [] (.loc 0 0) 1) = 0x01 ∧ viewUnknown [] (locKey 0 0) 1 = false) ∧
    (let o := { joinOp with tcfgA := 6, data := some (List.replicate 256 0) }
     o.data = some (List.replicate 256 0) ∧ bandsOk (opShape o.tcfgA) (cellAt (inTile o) 0).t 0 = true ∧ opFmt o ≠ .lbf4) ∧
    (let o := { vxFlight (.taccTile .always (.g 4) true false 1 0) with tcfgA := 6, e := rset (Vector.replicate 8 0) 0 (63 + 256 * 56) }
     shapeOf o.tcfgA = some (opShape o.tcfgA) ∧ spanOk (opShape o.tcfgA) 1 = true ∧ (rget o.e 0).toNat % 64 + (opShape o.tcfgA).rows = 64 ∧
      (rget o.e 0).toNat / 256 % 64 + (opShape o.tcfgA).e = 64) ∧
    mxReady (inMx (.taccVector .always (.g 4) 31 3)) 0 (vxFlight (.taccVector .always (.g 4) 31 3)) ∧
    (classInt (classFor .bf16) = false ∧ (64 : Nat) % classG (classFor .bf16) = 0) := by
  refine ⟨⟨?_, ?_, ?_⟩, ⟨⟨rfl, rfl, _, rfl⟩, ?_, ?_, ?_, ?_, ?_, ?_, ?_⟩, ⟨rfl, ?_, ?_⟩, ⟨rfl, ?_, ?_, ?_⟩, ⟨rfl, rfl, [], rfl⟩, ?_, ?_⟩ <;>
    (try unfold RowWalk) <;> decide +kernel

/-- An answer whose take was cut, one to a take that runs; a host atomic behind a posted write of its line, and one of an irrevocable take in its lane. -/
theorem test_RemoteRequests_clauses_met :
    ((findReq { asks (.load (.glb 64) 8 false none 0) (.answered (.data 5)) with
      reqs := [⟨1, 0, 0, 1, 0, 1, 1, 0x400, .load (.glb 64) 8 false none 0, .answered (.data 5), true, [], 0, 0, [], 15⟩] } 1).map (·.discarded) = some true) ∧
    (thr (asks (.load (.glb 64) 8 true none 0) .ecc) 0 0).phase ≠ .reporting ∧
    (let p : Req := ⟨1, 0, 0, 1, 0, 1, 1, 0x400, .posted [hostKey 64] [1] none, .sent, false, [], 0, 0, [], 15⟩
     let q : Req := { p with id := 2, kind := .posted [hostKey 72, hostKey 73, hostKey 74, hostKey 75] [0, 0, 0, 0] (some (4, .swp 7)) }
     ∃ r ∈ [p, q], r.id < q.id ∧ r.cell = q.cell ∧ r.th = q.th ∧ ∃ ks bs w, r.kind = .posted ks bs w ∧ ∃ a ∈ ks, ∃ b ∈ [hostKey 72], a / 64 = b / 64) ∧
    (let s := setLane (asks (.atomic (.glb 64) 4 (.swp 7)) .lane) 0 5 [⟨1, true, [hostKey 64, hostKey 65, hostKey 66, hostKey 67]⟩]
     laneAt s 0 5 = [⟨1, true, [hostKey 64, hostKey 65, hostKey 66, hostKey 67]⟩] ∧ (findReq s 1).map (·.stage) = some .lane ∧
      rmwNew (.swp 7) 4 (leNat (readKeys s.mem [hostKey 64, hostKey 65, hostKey 66, hostKey 67])) = some 7) := by
  refine ⟨?_, ?_, ⟨_, List.mem_cons_self, ?_, rfl, rfl, _, _, _, rfl, hostKey 64, List.mem_cons_self, hostKey 72, List.mem_cons_self, ?_⟩, ?_, ?_, ?_⟩ <;>
    decide +kernel

/-- A note at a stub whose end has moved on, at one whose END is out and has come back, and at one that has its END. -/
theorem test_SplicePackets_stub_met :
    let u : Stub := ⟨0, 1, 0, 5, 0, [], none, 0, 0⟩
    let s := modCell home 0 (fun x => { x with stubs := [u] })
    let b := modCell (withChannel home false none) 0 (fun x => { x with stubs := [u] })
    InFlight (flying s (.note 0 1 ⟨0, 0, 1, 0⟩)) 1 0 (.note 0 1 ⟨0, 0, 1, 0⟩) ∧ findStub (cellAt s 0) 0 = some u ∧ u.start ≤ 0 ∧ 0 ∉ u.passed ∧
    u.limit = none ∧ (findRecv (cellAt s 0) 0).isNone = true ∧ (findRecv (cellAt b 0) 0).isSome = true ∧ findStub (cellAt b 0) 0 = some u ∧
    (let v : Stub := { u with limit := some 1 }
     findStub (cellAt (modCell home 0 (fun x => { x with stubs := [v] })) 0) 0 = some v ∧ v.limit = some 1) := by
  refine ⟨⟨⟨0, rfl⟩, fun k hk => absurd hk (by simp [flying, home, modCell, putCell, State.reset])⟩, ?_, ?_, ?_, ?_, ?_, ?_, ?_, ?_, ?_⟩ <;> decide +kernel

/-- A copy request that waits for its reel behind another that has waited longer, and a landing packet behind another. -/
theorem test_CopyEngineRuns_turns_met :
    (let j := { clippedJob with waits := some 3 }
     let s := withJob clipped j
     reelWaiter s (jobReel 0 j) 4 ∧ j ∈ (cellAt s 0).jobs ∧ ¬reelWaiter home (jobReel 0 j) 4) ∧
    (let j := { clippedJob with packets := [([1, 2, 3], 0, 0)], w2 := 0x100, waits := some 3 }
     ringWaiter (withJob clipped j) 0 0x100 4 ∧ ¬ringWaiter home 0 0x100 4) := by
  have hj : ∀ e ∈ home.cells, e.2.jobs = [] := by decide +kernel
  have ht : ∀ e ∈ home.cells, ∀ x ∈ e.2.threads.toList, headReel home e.1 x = none := by decide +kernel
  refine ⟨⟨Or.inl ⟨(0, cellAt (withJob clipped { clippedJob with waits := some 3 }) 0), ?_, { clippedJob with waits := some 3 }, ?_, rfl, rfl, 3, rfl, ?_⟩, ?_, ?_⟩,
    ⟨(0, cellAt (withJob clipped { clippedJob with packets := [([1, 2, 3], 0, 0)], w2 := 0x100, waits := some 3 }) 0), ?_,
      { clippedJob with packets := [([1, 2, 3], 0, 0)], w2 := 0x100, waits := some 3 }, ?_, ?_, ?_, 3, rfl, ?_⟩, ?_⟩
  case refine_5 =>
    rintro (⟨e, he, j, hm, _⟩ | ⟨e, he, x, hx, h, _⟩ | ⟨l, hl, _⟩)
    · rw [hj e he] at hm; cases hm
    · rw [ht e he x hx] at h; cases h
    · exact absurd hl (by simp [home, modCell, putCell, State.reset])
  case refine_11 =>
    rintro ⟨e, he, j, hm, _⟩
    rw [hj e he] at hm; cases hm
  all_goals decide +kernel

/-- A function that the host port does not present yet, one that it does; a completion ring that is exactly full, and one whose head has passed its tail. -/
theorem test_HostInterface_presented_met :
    (1 % 16 ≠ 0 ∧ State.reset.cap.getLsbD 62 = false ∧ 0 % 16 = 0 ∧ ({ State.reset with cap := 0x4000000000000000#64 }).cap.getLsbD 62 = true) ∧
    (let p := { part (host 1 0x3000 1) 0 with cqtail := 16, cqhead := 0 }
     ringOf p.cqk = some 4 ∧ (p.cqtail - p.cqhead).toNat = 2 ^ 4 ∧ (p.cqtail - (17 : BitVec 32)).toNat ≠ 2 ^ 4) := by
  refine ⟨⟨?_, ?_, ?_, ?_⟩, ?_, ?_, ?_⟩ <;> decide +kernel

/-- Writes that wait: of a wired set, of windows, of a pinned-region entry in use. -/
theorem test_ManagementWrites_waiting_met :
    (∃ v ∈ (dieAt (modDie home 0 (fun d => { d with wiredWrites := [(3, 5)] })) 0).wiredWrites, v.1 = (3#2).toNat) ∧
    (∀ v ∈ ({ home with windowWrites := [(3, 0), (7, 1)] }).windowWrites, v.1 < 8) ∧
    (let s := { withJob home { clippedJob with w0 := 0x0020000000000000#64, w1 := 0x0FFF000000000000#64 } with pinnedWrites := [(0, 4095, 5)] }
     s.pinnedWrites.filter (fun p => pinnedInUse s p.1 p.2.1) = [(0, 4095, 5)]) := by
  refine ⟨⟨(3, 5), ?_, ?_⟩, ?_, ?_⟩ <;> decide +kernel

/-- A killed context with a print that waits for nothing the kill ends, a take on thread 1, and a queued completion message. -/
def killedPrint : State :=
  let s := tweak (killing [] [] [] false) (fun x => { x with phase := .printing, waits := some 0, effects := [.hsave 0 0] })
  modPos (modThr s 0 1 (fun x => { x with phase := .revocable, ctx := 1 })) 0 1 (fun p => { p with cq := [Msg.none] })

theorem killedPrint_effects : (thr killedPrint 0 0).effects = [.hsave 0 0] := by decide +kernel

theorem killedPrint_reqs : killedPrint.reqs = [] := by decide +kernel

/-- A print that the kill waits for, beside a take that ends at once; effects at which a print ends. -/
theorem test_KillRemovesTheContext_prints_met :
    (printStays killedPrint 0 1 0 ∧
      printsWait killedPrint 0 1 ∧
      (thr killedPrint 0 1).phase ≠ .idle ∧ (thr killedPrint 0 1).ctx.toNat = 1 ∧ ¬printStays killedPrint 0 1 1 ∧ (posOf killedPrint 0 1).cq ≠ []) ∧
    endsWithKill (tweak home (fun x => { x with effects := [.send (.stage 3 9) 4 0 [] 1] })) 0 0 ∧
    endsWithKill (tweak home (fun x => { x with effects := [.store [⟨.loc 0 16, [1]⟩] 1 none (some [16]) true 0] })) 0 0 := by
  refine ⟨⟨⟨?_, ?_, ?_⟩, ?_, ?_, ?_, ?_, ?_⟩, ?_, ?_⟩
  case refine_3 =>
    intro h
    have h2 := h (.hsave 0 0) (by rw [killedPrint_effects]; decide)
    simp [killedPrint_reqs] at h2
  case refine_4 => unfold printsWait; decide +kernel
  case refine_9 =>
    have z : (thr (tweak home (fun x => { x with effects := [.send (.stage 3 9) 4 0 [] 1] })) 0 0).effects = [.send (.stage 3 9) 4 0 [] 1] := by decide +kernel
    intro e h
    rw [z] at h
    cases h
    exact .inr (.inr (.inl ⟨.stage 3 9, 4, 0, [], 1, rfl, .inr (.inr (.inr (.inr (.inl ⟨3, 9, rfl⟩))))⟩))
  case refine_10 =>
    have z : (thr (tweak home (fun x => { x with effects := [.store [⟨.loc 0 16, [1]⟩] 1 none (some [16]) true 0] })) 0 0).effects =
      [.store [⟨.loc 0 16, [1]⟩] 1 none (some [16]) true 0] := by decide +kernel
    intro e h
    rw [z] at h
    cases h
    exact .inr (.inl ⟨_, _, _, _, _, rfl⟩)
  case refine_7 =>
    rintro ⟨h, _⟩
    revert h
    decide +kernel
  all_goals decide +kernel

/-- RANGE with a base and a MAC array that end where HBM ends, and 64 KiB further on; save areas that fit and do not. -/
theorem test_TrustCommands_bounds_met :
    (let base := 384 * 2 ^ 30 - 0x10000
     base % 0x10000 = 0 ∧ ¬384 * 2 ^ 30 < base + 0x10000 ∧ 384 * 2 ^ 30 < base + 0x20000 ∧ ¬384 * 2 ^ 30 < 384 * 2 ^ 30 - 0x800 + 0x10000 / 256 * 8) ∧
    (let s := { keyed with secWords := [(1, 0xA000000000000000#64)] }
     ¬(384 * 2 ^ 30 - 264 * saveBlocks s + 1 + 264 * saveBlocks s ≤ 384 * 2 ^ 30) ∧ (384 * 2 ^ 30 - 264 * saveBlocks s + 264 * saveBlocks s ≤ 384 * 2 ^ 30 ∨
      384 * 2 ^ 30 < 264 * saveBlocks s)) := by
  refine ⟨?_, ?_⟩
  · decide
  · simp only
    omega

/-- A partition that is enabled, and none; both images verify, the second alone, neither; Nivar's does and does not. -/
theorem test_BringUpAndClocks_boot_met :
    (rget (host 1 0x3000 0).parts 0).ctl.getLsbD 63 = true ∧ (∀ f, (rget State.reset.parts f).ctl.getLsbD 63 = false) ∧
    (match exec (.coldBoot none (some 5) (some 6) 7 8) State.reset with | .next s => s.step3 == some 8 && !s.cap.getLsbD 62 | _ => false) = true ∧
    (match exec (.coldBoot (some 4) (some 5) none 7 8) State.reset with | .next s => s.step3.isNone | _ => false) = true ∧
    (match exec (.coldBoot none none (some 6) 7 8) State.reset with | .next s => s.step3.isNone | _ => false) = true ∧
    (let s := { host 1 0x3000 0 with step3 := some 8 }
     s.step3 = some 8 ∧ (s.parts.toList.any (fun p => p.ctl.getLsbD 63)) = true) := by
  refine ⟨?_, ?_, ?_, ?_, ?_, ?_, ?_⟩ <;> decide +kernel

/-! ## Witnesses of the clauses on held effects, arrivals and what else was added last -/

/-- Codes of FP32 at the bounds of the clauses on infinities and NaNs. -/
theorem test_FloatSums_infinite_met :
    f32Finite 0 ∧ f32Finite 0xFF7FFFFF ∧ f32Nan 0x7F800001 = true ∧ f32Nan 0xFF800000 = false ∧ f32Val 1 ≠ 0 ∧ (2 ^ 31 : Nat) < 0x80000001 := by
  refine ⟨?_, ?_, ?_, ?_, ?_, ?_⟩ <;> (first | (simp only [f32Finite]; norm_num) | (simp only [f32Val]; norm_num) | decide)

/-- A fence of an irrevocable take that holds a reduction within its scope, one outside it, and one that waits for a posted write. -/
theorem test_Fence_held_met :
    (let e : Effect := .rmw (.glb 0) 4 (.amo .add 1) (some [hbmKey 0, hbmKey 1, hbmKey 2, hbmKey 3]) true none 0
     let s := tweak (inTake home .irrevocable 5 0 0) (fun x => { x with effects := [e] })
     (me s).effects.any (aredWithin 0 .dev) = true ∧ (me s).effects.any (aredWithin 0 .grv) = false ∧ loadsDone s 0 0 = true ∧
      mayPerform s 0 0 s.nextOp = true ∧ (performAll 0 0 (me s).effects s).2.1 = []) ∧
    effectsDone (asks (.posted [hostKey 64] [1] none) .sent) 0 0 .sys = false ∧ effectsDone (inTake home .irrevocable 5 0 0) 0 0 .sys = true := by
  refine ⟨⟨?_, ?_, ?_, ?_, ?_⟩, ?_, ?_⟩ <;> decide +kernel

/-- A cell whose homes have promised 192 slots, one slot less, and 255 ends. -/
theorem test_ChannelRoom_full_met :
    (let h : Home := ⟨0, 1, 64, 1, [], [], 0, 0, 0, false, []⟩
     let s := fun n => modCell home 0 (fun x => { x with homes := [h, h, { h with depth := n }] })
     channelRoom (s 64) 0 1 = none ∧ (channelRoom (s 63) 0 1).isSome = true) ∧
    (let e : SendEnd := ⟨1, 1, 0, 0, 0, 8, 0, 0, false, true⟩
     channelRoom (modCell home 0 (fun x => { x with sends := List.replicate 255 e })) 0 1 = none ∧
      (channelRoom (modCell home 0 (fun x => { x with sends := List.replicate 254 e })) 0 1).isSome = true) := by
  refine ⟨⟨?_, ?_⟩, ?_, ?_⟩ <;> decide +kernel

/-- An engine word whose held places do not fit, with its engines idle; a queue whose entry was freed in this cycle, and one freed before. -/
theorem test_EngineWordsEnterQueues_full_met :
    (let o := { opOf (.vsnd .always (.g 4) 3) 1 with b := 32 }
     let s := tweak home (fun x => { x with effects := List.replicate 16 (.send (.chan 1) 0 0 [] 1) })
     fits (thr s 0 0) (heldPlaces o 0) = false) ∧
    workDone (inTake home .revocable 5 0 0) 0 0 = true ∧
    (let s := fun (n : Nat) => { modCell home 0 (fun x => { x with qFreed := (n, [11]), qWait := [(11, 3)] }) with cyc := 5 }
     queueRoom (s 5) 0 3 11 1 = false ∧ queueRoom (s 4) 0 3 11 1 = true ∧ queueRoom (s 4) 0 0 11 0 = false) := by
  refine ⟨?_, ?_, ?_, ?_, ?_⟩ <;> decide +kernel

/-- The lanes at which `vcmp` and `vlog2` part: a NaN, a zero, an infinity of each sign. -/
theorem test_VectorLanes_special_met :
    extNan (codeVal .f32 0x7FC00000) = true ∧ extNan (codeVal .f32 0xFF800000) = false ∧
    compared .lt .f32 0xFF800000 0x7F800000 = true ∧ compared .eq .f32 0x7FC00000 0x7FC00000 = false := by
  refine ⟨?_, ?_, ?_, ?_⟩ <;> simp [codeVal, floatShape, signAt, extNan, compared, tyFmt, extLt, extEq]

/-- A request of thread 0 of cell 0 that asks `k`, as it leaves. -/
def asked1 (k : ReqKind) (cut : Bool) : Req := ⟨1, 0, 0, 1, 0, 1, 1, 0x400, k, .sent, cut, [], 0, 0, [], 15⟩

/-- It is the one request of a device whose grove 1 has a window of context 1 that may be read and written, and one that may be read. -/
def asking (k : ReqKind) (cut : Bool) : State :=
  { modGrove (asks k .sent) 1 (fun g => { g with windows := [(0, 0xC001000000000000#64), (1, 0x8001000000010000#64)] }) with reqs := [asked1 k cut] }

def atHome (k : ReqKind) (cut : Bool) : Bool :=
  let s := asking k cut
  let r := asked1 k cut
  findReq s 1 == some r && !outlived s r && (missing s r).isNone && firstInLine s r

theorem at_home {k : ReqKind} {cut : Bool} (h : atHome k cut = true) : AtHome (asking k cut) 1 (asked1 k cut) ∧ firstInLine (asking k cut) (asked1 k cut) = true := by
  simp only [atHome, Bool.and_eq_true, beq_iff_eq, Bool.not_eq_true', Option.isNone_iff_eq_none] at h
  exact ⟨⟨h.1.1.1, rfl, rfl, h.1.1.2, h.1.2⟩, h.2⟩

/-- Requests of every kind at their homes: a load and a check that pass and that do not, an `ared` outside the windows, an atomic, header reads, an
engine's request, a block read, posted accesses, and one whose take was cut. -/
theorem test_RemoteRequests_arrivals_met :
    (atHome (.load (.grv 1 0x10008) 8 false none 0) false = true ∧ atHome (.check (.grv 1 0x10008) 8 none 1 0) false = true ∧
      atHome (.check (.grv 1 8) 8 (some (.swp 7)) 1 0) false = true ∧ atHome (.atomic (.grv 1 8) 8 (.swp 7)) true = true ∧
      atHome (.header (.grv 1 16) 16 false .peek) false = true ∧ atHome (.engine 9) false = true ∧ atHome (.block (.grv 1 0) [grvKey 1 0] 0x100 4 7) false = true ∧
      atHome (.posted [hostKey 64] [1] none) false = true ∧ atHome (.posted [hostKey 64] [] (some (1, .swp 7))) true = true ∧
      atHome (.load (.grv 1 0) 8 false none 0) true = true) ∧
    (let s := asking (.engine 9) false
     let ok := fun (w : Bool) (a : Nat) => match targetKeys s (asked1 (.engine 9) false) w (.grv 1 a) 8 with | .ok ks => ks == keysFrom (grvKey 1 a) 8 | .error _ => false
     ok false 0x10008 = true ∧ ok true 0x10008 = false ∧ ok true 0xFFF8 = true ∧ ok true 0x10000 = false ∧ isProtected s 1 = false ∧ resident s 0 1 = true ∧
      haltedKeys s 1 [hbmKey 0] = false ∧ windowOf s 0 = none ∧ (engineOp s 0 9).isNone = true ∧ s.reqErrors = [] ∧ viewUnknown [] (grvKey 1 8) 8 = false ∧
      isAredAt s (asked1 (.engine 9) false) 1 = false ∧ cqFull s 0 1 = false ∧ (posOf s 0 1).cqWait.head? = none ∧ (grvKey 1 0) % 2 ^ 24 = 0 ∧
      [grvKey 1 0].any isHostKey = false ∧ [hostKey 64].any isHostKey = true ∧ peerRefuses s (hostKey 64) 1 true = none ∧
      blockDenied s (asked1 (.engine 9) false) (.grv 1 0) [grvKey 1 0] = none ∧ (blockDenied s (asked1 (.engine 9) false) (.grv 2 0) [grvKey 2 0]).isSome = true) ∧
    (let e : Effect := .rmw (.glb 64) 4 (.amo .add 1) none true none 1
     let s := tweak (asking (.check (.glb 64) 4 (some (.amo .add 1)) 1 0) false) (fun x => { x with effects := [e] })
     isAredAt s (asked1 (.check (.glb 64) 4 (some (.amo .add 1)) 1 0) false) 1 = true) ∧
    ¬goodHeader 0 ∧ goodHeader (mkReel 0 4 4 6 0 6) := by
  refine ⟨⟨?_, ?_, ?_, ?_, ?_, ?_, ?_, ?_, ?_, ?_⟩, ⟨?_, ?_, ?_, ?_, ?_, ?_, ?_, ?_, ?_, ?_, ?_, ?_, ?_, ?_, ?_, ?_, ?_, ?_, ?_, ?_⟩, ?_, ?_, ?_⟩ <;>
    (try unfold goodHeader) <;> decide +kernel

/-- A printing take behind a posted write of a line, and one that waits for a credit which a take that began earlier gets first. -/
theorem test_EffectsPerformed_waits_met :
    (unacknowledged (asks (.posted [hostKey 64] [1] none) .sent) 0 0 ∧ lineTaken (asks (.posted [hostKey 64] [1] none) .sent) 0 0 [hostKey 127] ∧
      ¬unacknowledged home 0 0) ∧
    (let y := withChannel home false none
     let s := modCell y 0 (fun x => { x with threads := rset x.threads 1 { Thread.reset with
       phase := .printing, ctx := 1, waits := some 3, effects := [.send (.closeSend 1 0) 0 0 [] 1] } })
     let e : SendEnd := ⟨1, 1, 0, 0, 0, 8, 0, 0, false, true⟩
     creditWaiter s 0 1 4 ∧ e.ns - e.ck < e.w ∧ maySend y 0 e 4) := by
  have hq : ∀ x ∈ (cellAt (withChannel home false none) 0).threads.toList, x.waits = none := by decide +kernel
  refine ⟨⟨⟨_, List.mem_singleton.2 rfl, rfl, rfl, _, _, _, rfl⟩,
    ⟨_, List.mem_singleton.2 rfl, rfl, rfl, _, _, _, rfl, hostKey 64, List.mem_cons_self, hostKey 127, List.mem_cons_self, ?_⟩, ?_⟩,
    ⟨{ Thread.reset with phase := .printing, ctx := 1, waits := some 3, effects := [.send (.closeSend 1 0) 0 0 [] 1] }, ?_, ⟨3, rfl, by decide⟩, _, rfl, rfl⟩,
    ?_, ?_, ?_⟩
  case refine_2 => rintro ⟨q, hq, _⟩; exact absurd hq (by simp [home, modCell, putCell, State.reset])
  case refine_5 => decide
  case refine_6 => rintro ⟨x, hx, ⟨w, hw, _⟩, _⟩; cases (hq x hx).symm.trans hw
  all_goals decide +kernel

/-- A stage's reel with room, with an earlier claim, and with none; ends that are and are not there; a group of two cells; a gate armed and unarmed;
a report ring with room and full; a header whose release frees four slots; an `hset` beside a management write. -/
theorem test_EffectsPerformed_sends_met :
    (let g : Stage := { Stage.reset with v := true, lid := 7, hdr := 1 }
     let s := fun (h : BitVec 128) => write128 (modDie home 0 (fun d => { d with stages := rset d.stages 3 g })) (stageHdr 0 g) h
     stageAt (s 0) 0 3 = g ∧ g.lid.toNat = 7 ∧ word128At (s (mkReel 0 2 7 1 4 4)) (stageHdr 0 g) = mkReel 0 2 7 1 4 4) ∧
    (let s := withChannel home true none
     (findSend (cellAt s 0) 1).map (·.orphan) = some true ∧ (findSend (cellAt s 0) 9).isNone = true ∧ (findRecv (cellAt s 0) 0).map (·.st) = some .active ∧
      (findRecv (cellAt s 0) 0).map (·.running) = some 0) ∧
    (let e : BitVec 384 := 0x8001000000000000#384 ||| (3#384 <<< 128)
     e.getLsbD 63 = true ∧ e.toNat / 2 ^ 48 % 2 ^ 12 = 1 ∧ (List.range 256).filter (fun i => e.getLsbD (128 + i) && resident home (0 * 256 + i) 1) = [0]) ∧
    ((0xC001000000000001#64 : Word).getLsbD 62 = true ∧ (0x8001000000000000#64 : Word).toNat / 2 ^ 48 % 2 ^ 12 = 1) ∧
    (let s := modCtxRec home 0 1 (fun r => { r with k := 4, widx := 16, ridx := 1 })
     4 ≤ (ctxRec s 0 1).k.toNat ∧ ((ctxRec s 0 1).widx - (ctxRec s 0 1).ridx).toNat < 2 ^ (ctxRec s 0 1).k.toNat) ∧
    tget (posOf (modPos home 0 1 (fun p => { p with mgmtAt := [(4, 1)] })) 0 1).mgmtAt 4 0 = home.cyc + 1 := by
  refine ⟨⟨?_, ?_, ?_⟩, ⟨?_, ?_, ?_, ?_⟩, ⟨?_, ?_, ?_⟩, ⟨?_, ?_⟩, ⟨?_, ?_⟩, ?_⟩ <;> decide +kernel

/-- A release of index R + 1 where the index R + 0 and R + 2 are released already: three slots go. -/
theorem test_Releases_met :
    Releases (0x00050000000000000000000000000000#128 ||| mkReel 0 4 4 6 2 6) (0x00000000000000000000000000000000#128 ||| mkReel 0 4 4 6 5 6) 1 := by
  refine ⟨3, ?_, ?_, ?_⟩ <;> decide +kernel

/-- A woken `bwait`, a moved cell whose launch's share has ended, a closed home with a MOVE due, a doorbell of this cycle, an end of step 3 that is
due, a completion ring with records that wait, a `trap` that waits for its ring when a kill comes, and a word that wants to send. -/
theorem test_Rest_met :
    rget (thr (waitsOn 14 (.woken 3 9)) 0 0).y 14 = .pending (.woken 3 9) ∧
    (let s := modPos home 0 1 (fun p => { p with moved := [⟨3, 4, 7, false⟩] })
     (posOf s 0 1).moved = [⟨3, 4, 7, false⟩] ∧ donorRuns s 0 1 3 = false ∧ cqFull s 0 1 = false) ∧
    (let h : Home := ⟨0, 1, 8, 1, [], [⟨1, 0, 0, 0, 0⟩], 0, 0, 0, true, []⟩
     findHome (cellAt (modCell home 0 (fun x => { x with homes := [h] })) 0) 0 = some h ∧ h.closed = true ∧ h.slots = []) ∧
    (let p := { part (host 1 0x3000 3) 0 with rang := some (0, 1) }
     rungNow State.reset p = true ∧ tailAtStart State.reset p = 1 ∧ tailAtStart { State.reset with cyc := 1 } p = 3) ∧
    (let s := { host 1 0x3000 0 with step3 := some 8, domainSet := true }
     (step3Ended s).cap.getLsbD 62 = true ∧ (step3Ended s).step3 = none ∧ (step3Ended State.reset).cap = 0) ∧
    (part (modPart home 0 (fun p => { p with records := [(1, 2, none)] })) 0).records ≠ [] ∧
    (let s := tweak (killing [] [] [] false) (fun x => { x with phase := .printing, waits := some 0, effects := [.send (.trap 1 2 3) 0 0 [] 1] })
     reportWaits s 0 0 = true ∧ (thr s 0 0).ctx.toNat = 1) ∧
    (let s := tweak (withChannel (inTake home .irrevocable 0 0 0) false none) (fun x => { x with wants := some (.send (.chan 1) 4 0 [] 1) })
     (thr s 0 0).phase = .irrevocable ∧ standsAt (thr s 0 0) = some (.send (.chan 1) 4 0 [] 1)) := by
  refine ⟨?_, ⟨?_, ?_, ?_⟩, ⟨?_, ?_, ?_⟩, ⟨?_, ?_, ?_⟩, ⟨?_, ?_, ?_⟩, ?_, ⟨?_, ?_⟩, ?_, ?_⟩ <;> (try unfold step3Ended) <;> decide +kernel

/-- A group message reaches its member, a moving send takes the receive end with it, and a close of an end that has moved does nothing. -/
theorem test_EffectsPerformed_runs :
    (let e : BitVec 384 := 0x8001000000000000#384 ||| (3#384 <<< 128)
     let s := modDie home 0 (fun d => { d with groups := [(5, e)] })
     match performEffect (modThr s 0 0 (fun x => { x with ctx := 1 })) 0 0 (.send (.group 5 0) 4 0 [7] 1) with
      | .done s' => (posOf s' 0 1).cq.map (·.payload) == [[7]] && (cellAt s' 0).msgCtr == 1
      | _ => false) = true ∧
    (let s := modCell (inTake (withChannel home false none) .printing 0 0 0) 0 (fun x => { x with
       recvs := x.recvs ++ [⟨8, 1, 0, 0, [], 0, 0, .active, false, 8, 2, none, [], none, false, none, (0, [])⟩] })
     match performEffect s 0 0 (.send (.move 1 2 8 true) 16 3 [7] 1) with
      | .done s' => (findRecv (cellAt s' 0) 8).map (·.st) == some .frozen && s'.flights.length == 1 && (findSend (cellAt s' 0) 1).map (·.ns) == some 1 &&
        (match performEffect s' 0 0 (.send (.closeRecv 8 2) 0 0 [] 1) with
          | .done s'' => s''.flights.length == 1 && (findRecv (cellAt s'' 0) 8).map (·.closing) == some false
          | _ => false)
      | _ => false) = true := by
  refine ⟨?_, ?_⟩ <;> decide +kernel
end Sys2Proof.Tests
end

section

namespace Sys2Proof.Proofs

open Sys2Proof Sys2Proof.Machine Sys2Proof.Claims

/-! ## A word that completes (R140) -/

/-- What a loop counter does at the end of a word, as `loopEnds` says it. -/
theorem loopStep_eq (x : Thread) (n : BitVec 1) (last : Nat) :
    loopStep x n last =
      ({ x with
          lc := rset x.lc n (loopEnds (rget x.lc n) last).1
          pc := if (loopEnds (rget x.lc n) last).2 then (rget x.lc n).beg.setWidth 64 else x.pc },
        (loopEnds (rget x.lc n) last).2) := by
  by_cases ends : (rget x.lc n).act = true ∧ (rget x.lc n).fin.toNat = last
  · by_cases wraps : (0 < (rget x.lc n).stp.toInt ∧ (rget x.lc n).cnt.toInt + (rget x.lc n).stp.toInt < (rget x.lc n).bnd.toInt) ∨
        ((rget x.lc n).stp.toInt < 0 ∧ (rget x.lc n).bnd.toInt < (rget x.lc n).cnt.toInt + (rget x.lc n).stp.toInt)
    · simp [loopStep, loopEnds, ends, wraps]
    · simp [loopStep, loopEnds, ends, wraps]
  · simp [loopStep, loopEnds, ends]

theorem advance_eq_completed (x : Thread) (n : Nat) : advance x n = completed x n := by
  simp only [advance, completed, loopStep_eq]
  split
  · rename_i wraps
    exact (if_pos wraps).symm
  · rename_i goes
    rw [rget_rset_ne _ (by decide)]
    exact (if_neg goes).symm

/-! ## Sources and destinations (R38) -/

theorem writeDst_eq_moved (x : Thread) (d : Dst) (v : Word) : writeDst x d v = moved x d v := by
  cases d with
  | g n => by_cases h : n = 0#5 <;> simp [writeDst, moved, writeG, h]
  | p n => by_cases h : n = 0#3 <;> simp [writeDst, moved, writeP, h]
  | a u => rfl
  | b u => rfl
  | e n => rfl

theorem eReady_iff (s : State) (c : Nat) (t n : BitVec 3) : eReady s c t n = true ↔ (n = 3 → e3Busy s c t = false) := by
  by_cases h : n = 3#3 <;> simp [eReady, h]

/-- Settles O14, one socket kind at a time. -/
theorem sourceSockets : Obligations.SourceSockets := by
  intro s c t
  refine ⟨fun n => rfl, fun n => rfl, fun n => ?_, fun v => rfl, fun u => ?_⟩
  · by_cases h : n = 3 ∧ e3Busy s c t = true
    · have waits : eReady s c t n = false := by simp [eReady, h]
      simp only [readSrc, waits, if_pos h, Bool.false_eq_true, if_false]
    · have ready : eReady s c t n = true := (eReady_iff s c t n).mpr (by simpa only [not_and, Bool.not_eq_true] using h)
      simp only [readSrc, ready, if_true, if_neg h]
  · simp only [readSrc]
    cases rget (thr s c t).y u <;> rfl

/-! ## Triggers (R40, R42, R46) -/

section triggers
variable {s r : State} {i : Instr} {grd : Guard} {src : Src} {u : BitVec 4} {v : Word}

/-- A trigger whose source is not ready waits, whatever its guard. -/
theorem trigger_unready {f : Nat → BitVec 3 → Word → State → Option State} (hc : canIssue (me s) = true)
    (hr : readSrc s s.cur.1 s.cur.2 src = none) : trigger s grd src f = .next s := by
  rw [trigger, word_eq hc, hr]
  rfl

/-- A trigger of a unit whose previous operation has not completed waits. -/
theorem trigger1_busy {f : Nat → BitVec 3 → Word → State → Option State} (hp : Performs s grd src v r)
    (hu : unitBusy (me s) u = true) : trigger1 s grd src u f = .next s := by
  rw [trigger1, trigger_eq hp.issue hp.source hp.guard, readSrc_thr hp.source]
  simp only [me] at hu
  rw [hu]
  rfl

/-- The units that hold one operation of a thread (R42): all but `ls`, `vx`, `mx` and `cp`. -/
def oneOpUnits : List (BitVec 4) := [0#4, 1, 2, 3, 4, 5, 6, 8, 9, 10, 14, 15]

/-- Bits 13:10 of a trigger word name its unit (Table 3.4). -/
theorem unit_of_trig {m op : BitVec 7} {w : BitVec 32} (h : trig grd m op u src = w32 w) : w.extractLsb' 10 4 = u := by
  obtain ⟨low, -⟩ := List.cons.inj h
  have outer : ∀ x : BitVec 32, x.extractLsb' 10 4 = (x.extractLsb' 0 16).extractLsb' 10 4 := by
    intro x
    ext j hj
    simp
  rw [outer, ← low, ← outer]
  ext j hj
  rw [BitVec.getElem_extractLsb', BitVec.getLsbD_append, BitVec.getLsbD_append, BitVec.getLsbD_append]
  simp only [show ¬10 + j < 3 by omega, show ¬10 + j - 3 < 7 by omega, show 10 + j - 3 - 7 = j by omega, hj]
  exact BitVec.getLsbD_eq_getElem hj

theorem iunit_toBits (x : IUnit) : x.toBits = iuIdx x := by cases x <;> rfl

/-- A trigger word names one unit, and where that unit holds one operation of a thread the word is a `trigger1` of it. -/
theorem exec_trigger1 (h : i.trigger? = some (grd, src)) (s : State) :
    ∃ u m op, encode i = trig grd m op u src ∧ (u ∈ oneOpUnits → ∃ f, exec i s = trigger1 s grd src u f) := by
  cases i <;> cases h
  -- `ls`, `vx`, `mx`, `cp`: units that hold more than one operation
  case ld | st | lda | stl | cas | swp | amo | ared | rbr | fence
      | vld | vst | vbcast | vperm | vmv | vadd | vsub | vmul | vfma | vmax | vmin | vabs | vneg | vexp2 | vlog2 | vrcp | vrsq | vand | vor
      | vxor | vsel | vcmp | vamax | vredadd | vredmax | vscan | vmerge | vrecv | vsnd | vcvt
      | tld | tst | tcst | tzero | tmv | mma | mmsk | gmma | taccTile | taccVector | aclr | skset | cpush | cpushn | cpoll =>
    exact ⟨_, _, _, rfl, fun hu => absurd hu (by decide)⟩
  -- the others, one unit after the other
  case add | addw | sub | subw | andi | ori | xori | andn | orn | min | max | minu | maxu | abs | pass =>
    refine ⟨_, _, _, rfl, fun _ => ?_⟩
    simp only [exec_add, execAdd, exec_addw, execAddw, exec_sub, execSub, exec_subw, execSubw, exec_andi, execAndi, exec_ori, execOri, exec_xori,
      execXori, exec_andn, execAndn, exec_orn, execOrn, exec_min, execMin, exec_max, execMax, exec_minu, execMinu, exec_maxu, execMaxu,
      exec_abs, execAbs, exec_pass, execPass, compute, iunit_toBits]
    exact ⟨_, rfl⟩
  case mul | mulh | mulhu | mulw | div | divu | rem | remu =>
    refine ⟨_, _, _, rfl, fun _ => ?_⟩
    simp only [exec_mul, execMul, exec_mulh, execMulh, exec_mulhu, execMulhu, exec_mulw, execMulw, exec_div, execDiv, exec_divu, execDivu, exec_rem,
      execRem, exec_remu, execRemu, compute]
    exact ⟨_, rfl⟩
  case shl | shr | sha | rol | clz | ctz | pop | ext | ins | rev =>
    refine ⟨_, _, _, rfl, fun _ => ?_⟩
    simp only [exec_shl, execShl, exec_shr, execShr, exec_sha, execSha, exec_rol, execRol, exec_clz, execClz, exec_ctz, execCtz, exec_pop, execPop,
      exec_ext, execExt, exec_ins, execIns, exec_rev, execRev, compute]
    exact ⟨_, rfl⟩
  case ceq | cne | clt | cltu | cge | cgeu | ctst | pand | por | pnot =>
    refine ⟨_, _, _, rfl, fun _ => ?_⟩
    simp only [exec_ceq, execCeq, exec_cne, execCne, exec_clt, execClt, exec_cltu, execCltu, exec_cge, execCge, exec_cgeu, execCgeu, exec_ctst,
      execCtst, exec_pand, execPand, exec_por, execPor, exec_pnot, execPnot, comparePred]
    exact ⟨_, rfl⟩
  case aadd | asub | atag | aget | aidx | adiff =>
    refine ⟨_, _, _, rfl, fun _ => ?_⟩
    simp only [exec_aadd, execAadd, exec_asub, execAsub, exec_atag, execAtag, exec_aget, execAget, exec_aidx, execAidx, exec_adiff, execAdiff,
      compute]
    exact ⟨_, rfl⟩
  case fadd | fsub | fmul | fma | fmin | fmax | fabs | fneg | fsqrt | frcp | fdiv | fcmp | fcvt =>
    refine ⟨_, _, _, rfl, fun _ => ?_⟩
    simp only [exec_fadd, execFadd, exec_fsub, execFsub, exec_fmul, execFmul, exec_fma, execFma, exec_fmin, execFmin, exec_fmax, execFmax,
      exec_fabs, execFabs, exec_fneg, execFneg, exec_fsqrt, execFsqrt, exec_frcp, execFrcp, exec_fdiv, execFdiv, exec_fcmp, execFcmp, exec_fcvt,
      execFcvt, scalarFp]
    exact ⟨_, rfl⟩
  case br | bi | call | ret | loop | lbrk =>
    refine ⟨_, _, _, rfl, fun _ => ?_⟩
    simp only [exec_br, execBr, exec_bi, execBi, exec_call, execCall, exec_ret, execRet, exec_loop, execLoop, exec_lbrk, execLbrk]
    exact ⟨_, rfl⟩
  case chnew | snd | sndh | rtry | hmov | hdup | hclr | close | hkind | hsave | hload | gsnd | slate =>
    refine ⟨_, _, _, rfl, fun _ => ?_⟩
    simp only [exec_chnew, execChnew, exec_snd, execSnd, exec_sndh, execSndh, exec_rtry, execRtry, exec_hmov, execHmov, exec_hdup, execHdup,
      exec_hclr, execHclr, exec_close, execClose, exec_hkind, execHkind, exec_hsave, execHsave, exec_hload, execHload, exec_gsnd, execGsnd,
      exec_slate, execSlate, handleWord]
    exact ⟨_, rfl⟩
  case fin | pin | retake | brk | trap | gcr | scr | sig | hset | lnch =>
    refine ⟨_, _, _, rfl, fun _ => ?_⟩
    simp only [exec_fin, execFin, exec_pin, execPin, exec_retake, execRetake, exec_brk, execBrk, exec_trap, execTrap, exec_gcr, execGcr, exec_scr,
      execScr, exec_sig, execSig, exec_hset, execHset, exec_lnch, execLnch, controlWord]
    exact ⟨_, rfl⟩
  case binit | barr | bwait | bexp | hwbar | gset | gdec =>
    refine ⟨_, _, _, rfl, fun _ => ?_⟩
    simp only [exec_binit, execBinit, exec_barr, execBarr, exec_bwait, execBwait, exec_bexp, execBexp, exec_hwbar, execHwbar, exec_gset, execGset,
      exec_gdec, execGdec, barrierWord]
    exact ⟨_, rfl⟩
  case rinit | rawait | rrel | rpeek | mon | mwait =>
    refine ⟨_, _, _, rfl, fun _ => ?_⟩
    simp only [exec_rinit, execRinit, exec_rawait, execRawait, exec_rrel, execRrel, exec_rpeek, execRpeek, exec_mon, execMon, exec_mwait, execMwait,
      reelWord]
    exact ⟨_, rfl⟩

end triggers

/-- Settles O15: the trigger only reads its source and passes. -/
theorem unperformedTriggerPasses : Obligations.UnperformedTriggerPasses := by
  intro s i grd src v r htrig hc hr hfails
  obtain ⟨f, hf⟩ := exec_trigger htrig s
  have hg : guardHolds (me s) grd = false := by
    cases grd with
    | always => cases hfails
    | ifSet p => simpa [guardHolds] using hfails
    | ifClear p => simpa [guardHolds] using hfails
  rw [hf, trigger_passed hc hr hg]
  simp only [advance_eq_completed]

/-- Settles O16: the source decides first, then the unit that bits 13:10 name. -/
theorem triggerWaits : Obligations.TriggerWaits := by
  constructor
  · intro s i grd src htrig hc hr
    obtain ⟨f, hf⟩ := exec_trigger htrig s
    rw [hf, trigger_unready hc hr]
  · intro s i u ⟨w, hw, _, hbits⟩ hu grd src v r htrig hp hbusy
    obtain ⟨u', m, op, henc, hone⟩ := exec_trigger1 htrig s
    obtain rfl : u' = u := (unit_of_trig (henc.symm.trans hw)).symm.trans hbits
    obtain ⟨f, hf⟩ := hone hu
    rw [hf, trigger1_busy hp hbusy]

/-! ## Moves (R38, R45, R50, R54, R55) -/

theorem getLsbD_window (j : Nat) : (0xFFFFFF#64).getLsbD j = decide (j < 24) := by
  have e : (0xFFFFFF#64) = (BitVec.allOnes 24).setWidth 64 := by decide
  rw [e, BitVec.getLsbD_setWidth, BitVec.getLsbD_allOnes]
  by_cases h : j < 24 <;> simp [h]
  omega

theorem ldxWrite_isLdx (old : Word) (imm : BitVec 24) (q : BitVec 2) : IsLdx old imm q (ldxWrite old imm q) := by
  intro i hi
  have e : ldxShift q = windowLow q := rfl
  simp only [ldxWrite, e, BitVec.getLsbD_or, BitVec.getLsbD_and, BitVec.getLsbD_not, BitVec.getLsbD_shiftLeft, getLsbD_window,
    BitVec.getLsbD_setWidth, hi]
  by_cases below : i < windowLow q
  · simp [below, Nat.not_le.mpr below]
  · by_cases inside : i < windowLow q + 24
    · simp [below, inside, Nat.not_lt.mp below, show i - windowLow q < 24 by omega, show i - windowLow q < 64 by omega]
    · simp [below, inside, show ¬i - windowLow q < 24 by omega, BitVec.getLsbD_of_ge imm (i - windowLow q) (by omega)]

/-- Settles O17, one form of move at a time. -/
theorem moveResults : Obligations.MoveResults := by
  intro s hc
  refine ⟨fun src d v r hr hd => ?_, fun s1 d1 s2 d2 v1 v2 r1 r2 h1 h2 hd1 hd2 hne => ?_, fun s1 d s2 hg hp => ?_, fun imm n => ?_,
    fun imm q n hn => ⟨ldxWrite (rget (me s).e n) imm q, ldxWrite_isLdx _ imm q, ?_⟩⟩
  · rw [exec_plainMove, execPlainMove, word_eq hc]
    simp [hr, hd, writeDst_eq_moved, advance_eq_completed]
  · have free : pairClash d1 d2 = false := by
      rcases hne with h | rfl | rfl <;> simp_all [pairClash]
    rw [exec_pairWord, execPairWord, word_eq hc]
    simp [free, h1, h2, hd1, hd2, writeDst_eq_moved, advance_eq_completed]
  · have clash : pairClash d d = true := by simpa [pairClash] using And.intro hg hp
    rw [exec_pairWord, execPairWord, word_eq hc]
    simp [clash]
  · have e : writeG (me s) n (imm.signExtend 64) = moved (me s) (.g n) (BitVec.ofInt 64 imm.toInt) := writeDst_eq_moved (me s) (.g n) _
    rw [exec_ldi, execLdi, word_eq hc]
    simp only [advance_eq_completed]
    exact congrArg (fun x => Host.Outcome.next (putThr s s.cur.1 s.cur.2 (completed x 4))) e
  · rw [exec_ldx, execLdx, word_eq hc]
    simp only [(eReady_iff s s.cur.1 s.cur.2 n).mpr hn, advance_eq_completed]
    rfl

end Sys2Proof.Proofs
end

section

namespace Sys2Proof.Proofs

open Sys2Proof Sys2Proof.Machine Sys2Proof.Claims

/-! ## Reels (R263, R267) -/

theorem toNat_field {n : Nat} (w : BitVec n) (lo len : Nat) : (w.extractLsb' lo len).toNat = w.toNat / 2 ^ lo % 2 ^ len := by
  rw [BitVec.extractLsb'_toNat, Nat.shiftRight_eq_div_pow]

theorem reelOk_of_goodHeader {h : BitVec 128} (good : goodHeader h) : reelOk h = true := by
  obtain ⟨hk, hz4, hz12, hlow, hhigh⟩ := good
  simp only [reelOk, Bool.and_eq_true, decide_eq_true_eq, beq_iff_eq]
  refine ⟨⟨⟨⟨?_, ?_⟩, ?_⟩, BitVec.eq_of_toNat_eq ?_⟩, BitVec.eq_of_toNat_eq ?_⟩
  · exact (toNat_field h 96 4).trans_le hk
  · exact hz4.trans_eq (toNat_field h 104 5).symm
  · exact (toNat_field h 104 5).trans_le hz12
  · exact (toNat_field h 109 3).trans hhigh
  · exact (toNat_field h 100 4).trans hlow

theorem slotFilled_iff (h : BitVec 128) (i : BitVec 32) :
    slotFilled h i = true ↔ 1 ≤ (h.extractLsb' 0 32 - i).toNat ∧ (h.extractLsb' 0 32 - i).toNat < 2 ^ 31 := by
  simp only [slotFilled, Bool.and_eq_true, decide_eq_true_eq]
  exact and_congr_right (fun _ => Nat.lt_succ_iff.symm)

theorem slotAddr_eq (a : Word) (h : BitVec 128) (i : BitVec 32) : slotAddr a h i = BitVec.ofNat 64
    ((a.toNat + 16 + i.toNat % 2 ^ (h.toNat / 2 ^ 96 % 16) * 2 ^ (h.toNat / 2 ^ 104 % 32)) % 2 ^ 56) := by
  have e : (a.extractLsb' 0 56).toNat = a.toNat % 2 ^ 56 := by rw [toNat_field, pow_zero, Nat.div_one]
  rw [slotAddr, reelSlot, reelK, reelZ, e, toNat_field, toNat_field, Nat.mod_add_mod, Nat.add_assoc,
    show (2 : Nat) ^ 4 = 16 from rfl, show (2 : Nat) ^ 5 = 32 from rfl]

theorem keysFrom_headD (k : Nat) : (keysFrom k 16).headD 0 = k := rfl

theorem headerAt_eq (s : State) {hdr : Target} (direct : directKeys hdr 16 ≠ none) : headerAt s hdr = sixteenAt s hdr := by
  cases hdr with
  | loc c o => exact congrArg (word128At s) (keysFrom_headD (locKey c o))
  | grv g o => exact congrArg (word128At s) (keysFrom_headD (grvKey g o))
  | glb a => exact absurd rfl direct

/-! ## Unit operations and timeouts (R42, R267, R273, R307) -/

theorem timedOut_iff (s : State) (start : Nat) (lim : BitVec 32) :
    timedOut s start lim = true ↔ lim ≠ 0 ∧ lim.toNat ≤ s.cyc.toNat - start := by
  simp [timedOut]

theorem timedOut_eq_false (s : State) (start : Nat) (lim : BitVec 32) :
    timedOut s start lim = false ↔ lim = 0 ∨ s.cyc.toNat - start < lim.toNat := by
  rw [← Bool.not_eq_true, timedOut_iff, not_and_or, not_ne_iff, Nat.not_le]

section waits
variable {s : State} {c : Nat} {t : BitVec 3} {u : BitVec 4}

theorem unitDone_busy {v : Word} (h : rget (thr s c t).y u = .busy v) : unitDone s c t u = some (setY s c t u v) := by
  simp [unitDone, h]

theorem unitDone_ready {v : Word} (h : rget (thr s c t).y u = .ready v) : unitDone s c t u = none := by
  simp [unitDone, h]

theorem unitDone_woken {b : BitVec 9} {gen : BitVec 16} (h : rget (thr s c t).y u = .pending (.woken b gen)) :
    unitDone s c t u = some (setY s c t u (wokenY (barAt s c b.toNat) gen)) := by
  simp [unitDone, h]

/-- `rawait` returns the address of its slot once the slot is filled. -/
theorem unitDone_rawait_filled {hdr : Target} {a : Word} {i : BitVec 32} (h : rget (thr s c t).y u = .pending (.rawait hdr a i true))
    (seen : headerWait s c t = false) (good : reelOk (headerAt s hdr) = true) (filled : slotFilled (headerAt s hdr) i = true) :
    unitDone s c t u = some (setY s c t u (slotAddr a (headerAt s hdr) i)) := by
  simp [unitDone, h, seen, good, filled]

theorem unitDone_rawait_empty {hdr : Target} {a : Word} {i : BitVec 32} {seen : Bool}
    (h : rget (thr s c t).y u = .pending (.rawait hdr a i seen)) (empty : seen = false ∨ slotFilled (headerAt s hdr) i = false) :
    unitDone s c t u = none := by
  rcases empty with rfl | empty
  · simp [unitDone, h]
  · simp [unitDone, h, empty]

/-! ### Watches (R273) -/

variable (s c t) in
/-- Every reason but a timeout for which an `mwait` ends now, as the bits that R273 gives them. -/
def endReasons : Nat :=
  let reasons := (cellAt s c).watch.filter (fun w => w.th == t.toNat)
  (if ∃ w ∈ reasons, w.fired = true then 1 else 0) + (if ∃ w ∈ reasons, w.evicted = true then 2 else 0)
    + (if (ctxRec s (dieOf c) (thr s c t).ctx.toNat).pre = true then 8 else 0) + (if reasons = [] then 16 else 0)

theorem mwaitReasons_eq (late : Bool) : mwaitReasons s c t late = BitVec.ofNat 64 (endReasons s c t + if late then 4 else 0) := by
  simp only [mwaitReasons, endReasons, List.any_eq_true, List.isEmpty_iff]
  congr 1
  omega

theorem mwaitReasons_eq_zero : mwaitReasons s c t false = 0 ↔ endReasons s c t = 0 := by
  have small : endReasons s c t < 2 ^ 64 := by
    simp only [endReasons]
    split_ifs <;> decide
  rw [mwaitReasons_eq, ← BitVec.toNat_inj, BitVec.toNat_ofNat]
  exact (Nat.mod_eq_of_lt small).symm ▸ Iff.rfl

/-- An `mwait` that returns leaves its result ready and the thread's entries disarmed. -/
theorem mwaitReturn_ends (y : Word) : rget (thr (mwaitReturn s c t y) c t).y 15#4 = .ready y ∧
    ∀ w ∈ (cellAt (mwaitReturn s c t y) c).watch, w.th ≠ t.toNat := by
  constructor
  · simp [mwaitReturn]
  · simp [mwaitReturn]

theorem unitDone_mwait_waits {start : Nat} {lim : BitVec 32} (h : rget (thr s c t).y 15#4 = .pending (.mwait start lim))
    (none_ : endReasons s c t = 0) : unitDone s c t 15#4 = none := by
  simp only [unitDone, h, mwaitReasons_eq_zero.mpr none_, if_true]

theorem unitDone_mwait {start : Nat} {lim : BitVec 32} (h : rget (thr s c t).y 15#4 = .pending (.mwait start lim))
    (some_ : endReasons s c t ≠ 0) : unitDone s c t 15#4 = some (mwaitReturn s c t
      (BitVec.ofNat 64 (endReasons s c t + if lim ≠ 0 ∧ lim.toNat ≤ s.cyc.toNat - start then 4 else 0))) := by
  simp only [unitDone, h, if_neg (mwaitReasons_eq_zero.not.mpr some_)]
  simp only [mwaitReasons_eq, timedOut_iff]

theorem mwaitExpire_late {start : Nat} {lim : BitVec 32} (h : rget (thr s c t).y 15#4 = .pending (.mwait start lim))
    (late : timedOut s start lim = true) :
    mwaitExpire s c t = some (mwaitReturn s c t (BitVec.ofNat 64 (endReasons s c t + 4))) := by
  simp only [mwaitExpire, h, late, if_true, mwaitReasons_eq]

theorem mwaitExpire_early {start : Nat} {lim : BitVec 32} (h : rget (thr s c t).y 15#4 = .pending (.mwait start lim))
    (early : timedOut s start lim = false) : mwaitExpire s c t = none := by
  simp [mwaitExpire, h, early]

/-! ### Barriers (R307) -/

theorem bwaitY_timedOut (w : BitVec 128) : bwaitY w false true = BitVec.ofNat 64
    (2 ^ 63 + (if w.getLsbD 114 then 2 ^ 16 else 0) + w.toNat / 2 ^ 80 % 2 ^ 16) := by
  have ph : barPh w = w.getLsbD 114 := rfl
  simp only [bwaitY, barGen, toNat_field, ph, if_true, Bool.false_eq_true, if_false]
  congr 1
  omega

theorem bwaitExpire_late {b : BitVec 9} {ph : Bool} {start : Nat} {lim : BitVec 32}
    (h : rget (thr s c t).y 14#4 = .pending (.bwait b ph start lim)) (late : timedOut s start lim = true) :
    bwaitExpire s c t = some (setY s c t 14#4 (bwaitY (barAt s c b.toNat) false true)) := by
  simp [bwaitExpire, h, late]

theorem bwaitExpire_early {b : BitVec 9} {ph : Bool} {start : Nat} {lim : BitVec 32}
    (h : rget (thr s c t).y 14#4 = .pending (.bwait b ph start lim)) (early : timedOut s start lim = false) :
    bwaitExpire s c t = none := by
  simp [bwaitExpire, h, early]

end waits

/-! ## Wired sets (R310, R311, R312) -/

section wired
variable (s : State) (d c : Nat) (set : BitVec 2)

theorem waitsOn_iff (x : Thread) : waitsOn x set = true ↔ waitsFor x set := by
  simp only [waitsOn, waitsFor]
  split
  · rename_i n start lim e
    simp [e]
  · rename_i other
    simp only [Bool.false_eq_true, false_iff]
    rintro ⟨start, lim, e⟩
    exact other _ _ _ e

theorem delivering_iff (ctx : Nat) : delivering s c ctx set = true ↔ comesTo s c ctx set := by
  simp [delivering, comesTo, and_comm]

theorem flagRaised_iff : flagRaised s c set = true ↔ flagUp s c set := by
  simp only [flagRaised, List.any_eq_true, Bool.and_eq_true, Bool.not_eq_true', flagUp, waitsOn_iff, ← delivering_iff, Bool.not_eq_true]
  constructor
  · rintro ⟨x, hx, h⟩
    obtain ⟨k, hk, rfl⟩ := Vector.getElem_of_mem (Vector.mem_toList_iff.mp hx)
    have e : (BitVec.ofNat 3 k).toNat = k := Nat.mod_eq_of_lt hk
    refine ⟨BitVec.ofNat 3 k, ?_⟩
    simpa only [thr, rget, e] using h
  · rintro ⟨t, h⟩
    exact ⟨_, Vector.mem_toList_iff.mpr (Vector.getElem_mem t.isLt), h⟩

variable {d}

theorem mem_participants (hd : d < 4) (w : Word) : c ∈ participants d w ↔ takesPart d w c = true := by
  simp only [participants, participant, takesPart, List.mem_filter, List.mem_map, List.mem_range, Bool.and_eq_true, decide_eq_true_eq]
  constructor
  · rintro ⟨⟨k, hk, rfl⟩, ⟨-, hrow⟩, hcol⟩
    exact ⟨⟨⟨by omega, by omega⟩, hrow⟩, hcol⟩
  · rintro ⟨⟨⟨hlo, hhi⟩, hrow⟩, hcol⟩
    exact ⟨⟨c - d * 256, by omega, by omega⟩, ⟨by omega, hrow⟩, hcol⟩

theorem wiredComplete_iff (hd : d < 4) : wiredComplete s d set = true ↔ setComplete s d set := by
  have valid : ∀ w : Word, w[63] = w.getLsbD 63 := fun _ => rfl
  simp only [wiredComplete, setComplete, valid, Bool.and_eq_true, Bool.not_eq_true', List.isEmpty_eq_false_iff_exists_mem, List.all_eq_true,
    mem_participants _ hd, flagRaised_iff, and_assoc]

variable {s set}

theorem wiredEvaluate_waits (hd : d < 4) (h : ¬setComplete s d set) : wiredEvaluate s d set = s := by
  rw [wiredEvaluate, if_neg ((wiredComplete_iff s set hd).not.mpr h)]

theorem wiredEvaluate_completes (hd : d < 4) (h : setComplete s d set) : let w := rget (dieAt s d).wired set
    wiredEvaluate s d set = modDie s d (fun x => { x with
      wired := rset x.wired set (w.extractLsb' 16 48 ++ (w.extractLsb' 0 16 + 1))
      wiredAt := rset x.wiredAt set (rget x.wiredAt set ++
        [⟨s.cyc.toNat, participants d w, w.extractLsb' 0 16 + 1, w.toNat / 2 ^ 48 % 2 ^ 12⟩]) }) := by
  rw [wiredEvaluate, if_pos ((wiredComplete_iff s set hd).mpr h)]
  simp only [modDie, toNat_field]

/-- The delay of a delivery asks whether all the cells are of one grove (R312). -/
theorem wiredDelay_eq (cs : List Nat) : wiredDelay cs = if ∀ a ∈ cs, ∀ b ∈ cs, groveOf a = groveOf b then 4 else 12 := by
  have e : cs.all (fun c => groveOf c == groveOf (cs.headD 0)) = true ↔ ∀ a ∈ cs, ∀ b ∈ cs, groveOf a = groveOf b := by
    simp only [List.all_eq_true, beq_iff_eq]
    constructor
    · intro h a ha b hb
      rw [h a ha, h b hb]
    · intro h a ha
      cases cs with
      | nil => cases ha
      | cons b bs => exact h a ha b List.mem_cons_self
  simp only [wiredDelay, e]

/-! ### Deliveries -/

/-- A thread after a delivery at its cell: one that waits on the set, of the context, has gen as its result (R312). -/
def delivered (set : BitVec 2) (e : Delivery) (x : Thread) : Thread :=
  if waitsOn x set && x.ctx.toNat == e.ctx then { x with y := rset x.y 14#4 (.ready (e.gen.setWidth 64)) } else x

theorem delivered_takes {e : Delivery} {x : Thread} (hw : waitsFor x set) (hc : x.ctx.toNat = e.ctx) :
    rget (delivered set e x).y 14#4 = .ready (e.gen.setWidth 64) := by
  simp [delivered, (waitsOn_iff set x).mpr hw, hc]

theorem delivered_passes {e : Delivery} {x : Thread} (h : ¬(waitsFor x set ∧ x.ctx.toNat = e.ctx)) : delivered set e x = x := by
  rw [delivered, if_neg]
  simpa [waitsOn_iff] using h

theorem delivered_delivered (e : Delivery) (x : Thread) : delivered set e (delivered set e x) = delivered set e x := by
  by_cases h : waitsFor x set ∧ x.ctx.toNat = e.ctx
  · refine delivered_passes (fun again => ?_)
    obtain ⟨start, lim, hy⟩ := again.1
    rw [delivered_takes h.1 h.2] at hy
    cases hy
  · rw [delivered_passes h, delivered_passes h]

/-- The delivery at the cells of a list, one after the other. -/
def deliverAt (set : BitVec 2) (e : Delivery) (cs : List Nat) (s : State) : State :=
  cs.foldl (fun s c => modCell s c (fun x => { x with threads := x.threads.map (delivered set e) })) s

theorem deliverAt_leaves (e : Delivery) (cs : List Nat) (s : State) :
    (deliverAt set e cs s).mem = s.mem ∧ (deliverAt set e cs s).dies = s.dies := by
  induction cs generalizing s with
  | nil => exact ⟨rfl, rfl⟩
  | cons c cs ih => exact ih _

theorem thr_deliverAt (e : Delivery) (cs : List Nat) (s : State) (c : Nat) (t : BitVec 3) :
    thr (deliverAt set e cs s) c t = if c ∈ cs then delivered set e (thr s c t) else thr s c t := by
  induction cs generalizing s with
  | nil => rfl
  | cons a cs ih =>
    have first : thr (modCell s a (fun x => { x with threads := x.threads.map (delivered set e) })) c t =
        if c = a then delivered set e (thr s c t) else thr s c t := by
      by_cases h : c = a
      · subst h
        simp [thr, rget]
      · simp [thr, cellAt_modCell_ne _ _ _ _ h, h]
    rw [deliverAt, List.foldl_cons]
    refine (ih _).trans ?_
    rw [first]
    by_cases h : c = a <;> by_cases hc : c ∈ cs <;> simp [h, hc, delivered_delivered]

@[simp] theorem dieAt_modDie_same (f : Die → Die) : dieAt (modDie s d f) d = f (dieAt s d) := by
  simp [dieAt, modDie]

/-- The delivery that is due next leaves the list, and then goes to its cells. -/
theorem wiredDeliver_due {pre post : List Delivery} {e : Delivery} (hl : rget (dieAt s d).wiredAt set = pre ++ e :: post)
    (hpre : ∀ f ∈ pre, s.cyc.toNat < f.at_ + wiredDelay f.cells) (he : e.at_ + wiredDelay e.cells ≤ s.cyc.toNat) :
    wiredDeliver s d set = some (deliverAt set e e.cells (modDie s d (fun x => { x with wiredAt := rset x.wiredAt set (pre ++ post) }))) := by
  have next : (pre ++ e :: post).find? (fun e => decide (e.at_ + wiredDelay e.cells ≤ s.cyc.toNat)) = some e :=
    List.find?_eq_some_iff_append.mpr ⟨by simpa using he, pre, post, rfl, fun f hf => by simpa using hpre f hf⟩
  have rest : (pre ++ e :: post).erase e = pre ++ post := by
    rw [List.erase_append_right _ (fun h => absurd he (Nat.not_le.mpr (hpre e h))), List.erase_cons_head]
  simp only [wiredDeliver, hl, next, Option.map_some, modDie, rest]
  rfl

theorem wiredDeliver_none (h : ∀ e ∈ rget (dieAt s d).wiredAt set, s.cyc.toNat < e.at_ + wiredDelay e.cells) :
    wiredDeliver s d set = none := by
  rw [wiredDeliver, List.find?_eq_none.mpr (fun e he => by simpa using h e he)]
  rfl

end wired

/-! ### Timeouts of wired sets, and the budget (R311, R320) -/

section ends
variable {s : State} {c : Nat} {t : BitVec 3} {set : BitVec 2} {start : Nat} {lim : BitVec 32}

theorem hwbarExpire_late (hd : dieOf c < 4) (h : rget (thr s c t).y 14#4 = .pending (.hwbar set start lim)) (late : timedOut s start lim = true)
    (open_ : ¬setComplete s (dieOf c) set) (alone : ¬comesTo s c (thr s c t).ctx.toNat set) :
    hwbarExpire s c t = some (faultWord s c t .timeout) := by
  have hopen : wiredComplete s (dieOf c) set = false := by simpa using (wiredComplete_iff s set hd).not.mpr open_
  have halone : delivering s c (thr s c t).ctx.toNat set = false := by simpa using (delivering_iff s c set _).not.mpr alone
  simp [hwbarExpire, h, late, hopen, halone]

/-- A completion in the same cycle or before wins over the timeout, and before its time no timeout comes. -/
theorem hwbarExpire_none (hd : dieOf c < 4) (h : rget (thr s c t).y 14#4 = .pending (.hwbar set start lim))
    (stays : timedOut s start lim = false ∨ setComplete s (dieOf c) set ∨ comesTo s c (thr s c t).ctx.toNat set) :
    hwbarExpire s c t = none := by
  rcases stays with early | complete | comes
  · simp [hwbarExpire, h, early]
  · simp [hwbarExpire, h, (wiredComplete_iff s set hd).mpr complete]
  · simp [hwbarExpire, h, (delivering_iff s c set _).mpr comes]

theorem countFlag_waits (h : waitsFor (thr s c t) set) : countFlag s c t = wiredEvaluate s (dieOf c) set := by
  obtain ⟨start, lim, hy⟩ := h
  simp [countFlag, hy]

theorem countFlag_eq_self (h : ∀ set, ¬waitsFor (thr s c t) set) : countFlag s c t = s := by
  unfold countFlag
  split
  · rename_i set start lim hy
    exact absurd ⟨start, lim, hy⟩ (h set)
  · rfl

/-- The cycles of the take count, and it does not enter Printing in this cycle (R23, R320). -/
def budgetCounts (x : Thread) : Prop := x.phase = .revocable ∨ x.phase = .irrevocable ∨ (x.phase = .settling ∧ x.orc ≠ 0)

theorem budgetCounts_iff (x : Thread) :
    budgetCounts x ↔ budgeted x = true ∧ (x.phase == .settling && x.orc == 0) = false := by
  unfold budgetCounts budgeted
  cases x.phase <;> simp

theorem budgetEnds_spent (hc : budgetCounts (thr s c t)) (h0 : (thr s c t).bdgt = 0) :
    budgetEnds s c t = some (faultWord (countFlag s c t) c t .budget) := by
  obtain ⟨counts, stays⟩ := (budgetCounts_iff _).mp hc
  simp [budgetEnds, counts, stays, h0]

theorem budgetEnds_none (h : ¬budgetCounts (thr s c t) ∨ (thr s c t).bdgt ≠ 0) : budgetEnds s c t = none := by
  rw [budgetEnds, if_neg]
  rintro due
  simp only [Bool.and_eq_true, beq_iff_eq, Bool.not_eq_true'] at due
  obtain ⟨⟨counts, h0⟩, stays⟩ := due
  exact h.elim (fun hc => hc ((budgetCounts_iff _).mpr ⟨counts, by simpa using stays⟩)) (fun hb => hb h0)

end ends

/-! ### What an event answers -/

theorem event_some {s s' : State} {o : Option State} (h : o = some s') : event s o = .next s' := by rw [event, h, Option.getD_some]

theorem event_none {s : State} {o : Option State} (h : o = none) : event s o = .next s := by rw [event, h, Option.getD_none]

/-- What the delivery that is due leaves: the list without it, the set's word, memory, and each thread it does not go to. -/
theorem deliverAt_spec (s : State) (d : Nat) (set : BitVec 2) (rest : List Delivery) (e : Delivery) :
    let takes : Nat → BitVec 3 → Prop := fun c t => c ∈ e.cells ∧ waitsFor (thr s c t) set ∧ (thr s c t).ctx.toNat = e.ctx
    let s' := deliverAt set e e.cells (modDie s d (fun x => { x with wiredAt := rset x.wiredAt set rest }))
    rget (dieAt s' d).wiredAt set = rest ∧ rget (dieAt s' d).wired set = rget (dieAt s d).wired set ∧ s'.mem = s.mem ∧
      (∀ c t, takes c t → rget (thr s' c t).y 14#4 = .ready (e.gen.setWidth 64)) ∧ (∀ c t, ¬takes c t → thr s' c t = thr s c t) := by
  intro takes s'
  obtain ⟨hmem, hdies⟩ := deliverAt_leaves (set := set) e e.cells (modDie s d (fun x => { x with wiredAt := rset x.wiredAt set rest }))
  have hdie : dieAt s' d = { dieAt s d with wiredAt := rset (dieAt s d).wiredAt set rest } := by
    rw [dieAt, hdies]
    exact dieAt_modDie_same _
  have hthr : ∀ c t, thr s' c t = if c ∈ e.cells then delivered set e (thr s c t) else thr s c t := fun c t => thr_deliverAt e e.cells _ c t
  refine ⟨by simp [hdie], by simp [hdie], hmem, fun c t ⟨hc, hw, hx⟩ => ?_, fun c t hn => ?_⟩
  · rw [hthr, if_pos hc, delivered_takes hw hx]
  · rw [hthr]
    split
    · rename_i hc
      exact delivered_passes (fun h => hn ⟨hc, h⟩)
    · rfl

/-- Settles O46: first what each event of a thread answers, from what its wait stands on; then the completion and the delivery of a set. -/
theorem waitsEnd : Obligations.WaitsEnd := by
  refine ⟨fun s c th u => ⟨fun v h => ?_, fun v h => ?_, fun b gen h => ?_, fun hdr a i seen h quiet direct good => ⟨?_, ?_⟩,
    fun start lim h => ⟨?_, ?_, ?_, ?_⟩, fun b ph start lim h => ⟨?_, ?_⟩, fun set start lim h hd _ => ⟨?_, ?_⟩, ⟨?_, ?_, ?_⟩⟩,
    fun s d set hd => ⟨wiredEvaluate_waits hd, fun h => ?_, ?_, ?_⟩⟩
  · exact (exec_unitOpComplete ..).trans (event_some (unitDone_busy h))
  · exact (exec_unitOpComplete ..).trans (event_none (unitDone_ready h))
  · exact (exec_unitOpComplete ..).trans (event_some (unitDone_woken h))
  · rintro rfl lo hi
    rw [← headerAt_eq s direct] at good lo hi ⊢
    rw [← slotAddr_eq]
    exact (exec_unitOpComplete ..).trans
      (event_some (unitDone_rawait_filled h quiet (reelOk_of_goodHeader good) ((slotFilled_iff _ i).mpr ⟨lo, hi⟩)))
  · intro empty
    rw [← headerAt_eq s direct] at empty
    have unfilled : seen = false ∨ slotFilled (headerAt s hdr) i = false := empty.imp_right (fun out => by
      rw [← Bool.not_eq_true, slotFilled_iff]
      omega)
    exact (exec_unitOpComplete ..).trans (event_none (unitDone_rawait_empty h unfilled))
  · exact fun none_ => (exec_unitOpComplete ..).trans (event_none (unitDone_mwait_waits h none_))
  · exact fun some_ => ⟨_, (exec_unitOpComplete ..).trans (event_some (unitDone_mwait h some_)), mwaitReturn_ends _⟩
  · exact fun hl late => ⟨_, (exec_mwaitTimeout ..).trans (event_some (mwaitExpire_late h ((timedOut_iff ..).mpr ⟨hl, late⟩))),
      mwaitReturn_ends _⟩
  · exact fun hl => (exec_mwaitTimeout ..).trans (event_none (mwaitExpire_early h ((timedOut_eq_false ..).mpr (.inl hl))))
  · intro hl late
    rw [← bwaitY_timedOut]
    exact (exec_bwaitTimeout ..).trans (event_some (bwaitExpire_late h ((timedOut_iff ..).mpr ⟨hl, late⟩)))
  · exact fun early => (exec_bwaitTimeout ..).trans (event_none (bwaitExpire_early h ((timedOut_eq_false ..).mpr early)))
  · exact fun hl late open_ alone =>
      (exec_hwbarTimeout ..).trans (event_some (hwbarExpire_late hd h ((timedOut_iff ..).mpr ⟨hl, late⟩) open_ alone))
  · intro stays
    rw [← or_assoc, ← timedOut_eq_false] at stays
    exact (exec_hwbarTimeout ..).trans (event_none (hwbarExpire_none hd h stays))
  · intro counts h0 alone
    exact (exec_budget ..).trans (event_some (by rw [budgetEnds_spent counts h0, countFlag_eq_self alone]))
  · intro set counts h0 waits
    exact (exec_budget ..).trans (event_some (by rw [budgetEnds_spent counts h0, countFlag_waits waits]))
  · exact fun stays => (exec_budget ..).trans (event_none (budgetEnds_none stays))
  · exact ⟨_, fun c => mem_participants c hd _, wiredEvaluate_completes hd h⟩
  · intro early
    simp only [← wiredDelay_eq] at early
    rw [exec_wiredCompletionDelivery, execWiredCompletionDelivery, BitVec.ofNat_toNat, BitVec.setWidth_eq]
    exact event_none (wiredDeliver_none early)
  · intro pre e post hl before due
    simp only [← wiredDelay_eq] at before due
    refine ⟨_, ?_, deliverAt_spec s d set (pre ++ post) e⟩
    rw [exec_wiredCompletionDelivery, execWiredCompletionDelivery, BitVec.ofNat_toNat, BitVec.setWidth_eq]
    exact event_some (wiredDeliver_due hl before due)

end Sys2Proof.Proofs
end

section

namespace Sys2Proof.Proofs

open Sys2Proof

/-! ## Fields of a word (R51) -/

section fields
variable {n v w : Nat}

theorem append_inj {a b : BitVec v} {c d : BitVec w} : a ++ c = b ++ d ↔ a = b ∧ c = d := by
  refine ⟨fun h => ⟨?_, ?_⟩, fun ⟨hi, lo⟩ => hi ▸ lo ▸ rfl⟩
  · have high := congrArg (BitVec.extractLsb' w v) h
    simpa only [BitVec.extractLsb'_append_eq_of_le (Nat.le_refl w), Nat.sub_self, BitVec.extractLsb'_eq_self] using high
  · have low := congrArg (BitVec.extractLsb' 0 w) h
    simpa only [BitVec.extractLsb'_append_eq_of_add_le (Nat.zero_add w).le, BitVec.extractLsb'_eq_self] using low

/-- A field is the append of two fields exactly where its parts are. -/
theorem extract_eq_append {x : BitVec n} {at_ : Nat} {hi : BitVec v} {lo : BitVec w} :
    x.extractLsb' at_ (v + w) = hi ++ lo ↔ x.extractLsb' (at_ + w) v = hi ∧ x.extractLsb' at_ w = lo := by
  rw [← BitVec.extractLsb'_append_extractLsb'_eq_extractLsb' rfl, append_inj]

theorem eq_append {x : BitVec (v + w)} {hi : BitVec v} {lo : BitVec w} :
    x = hi ++ lo ↔ x.extractLsb' w v = hi ∧ x.extractLsb' 0 w = lo := by
  have glued := BitVec.extractLsb'_append_extractLsb'_eq_extractLsb' (x := x) (len₂ := v) (Nat.zero_add w).symm
  rw [BitVec.extractLsb'_eq_self] at glued
  rw [← append_inj, glued]

theorem ofBool_eq_iff {x : BitVec 1} {b : Bool} : x = BitVec.ofBool b ↔ (x == 1#1) = b := by
  revert x; cases b <;> decide

end fields

/-! ## Field codes (Tables 3.9, 3.10, 3.12 to 3.16) -/

theorem Guard.toBits_ofBits (b : BitVec 4) : (Guard.ofBits b).toBits = b := by revert b; decide

theorem Guard.ofBits_toBits {g : Guard} (h : g.wf = true) : Guard.ofBits g.toBits = g := by
  cases g with
  | always => rfl
  | ifSet p => revert p; decide
  | ifClear p => revert p; decide

theorem Src.toBits_ofBits (b : BitVec 7) : (Src.ofBits b).toBits = b := by revert b; decide

theorem Src.ofBits_toBits (s : Src) : Src.ofBits s.toBits = s := by
  cases s with
  | g n => revert n; decide
  | m n => revert n; decide
  | e n => revert n; decide
  | y u => revert u; decide
  | imm v => revert v; decide

theorem Dst.ofBits?_eq_some {b : BitVec 7} {d : Dst} : Dst.ofBits? b = some d ↔ b = d.toBits := by
  have decoded : ∀ b : BitVec 7, ∀ d ∈ Dst.ofBits? b, b = d.toBits := by decide
  refine ⟨decoded b d, ?_⟩
  rintro rfl
  cases d with
  | g n => revert n; decide
  | a u => revert u; decide
  | p n => revert n; decide
  | e n => revert n; decide
  | b u => revert u; decide

theorem FRound.ofBits_eq_iff {b : BitVec 2} {r : FRound} : FRound.ofBits b = r ↔ b = r.toBits := by
  cases r <;> revert b <;> decide

theorem FRound.toBits_ofBits (b : BitVec 2) : (FRound.ofBits b).toBits = b := (FRound.ofBits_eq_iff.mp rfl).symm

theorem FCond.ofBits_eq_iff {b : BitVec 2} {c : FCond} : FCond.ofBits b = c ↔ b = c.toBits := by
  cases c <;> revert b <;> decide

theorem Fmt.ofNat?_eq_some {b : BitVec 5} {f : Fmt} : Fmt.ofNat? b.toNat = some f ↔ b = f.toBits := by
  cases f <;> revert b <;> decide

theorem Space.ofBits?_eq_some {b : BitVec 3} {sp : Space} : Space.ofBits? b = some sp ↔ b = sp.toBits := by
  cases sp <;> revert b <;> decide

theorem Size.ofBits?_eq_some {b : BitVec 3} {z : Size} : Size.ofBits? b = some z ↔ b = z.toBits := by
  cases z <;> revert b <;> decide

theorem Scope.ofBits?_eq_some {b : BitVec 3} {sc : Scope} : Scope.ofBits? b = some sc ↔ b = sc.toBits := by
  cases sc <;> revert b <;> decide

theorem AmoOp.ofBits?_eq_some {b : BitVec 4} {o : AmoOp} : AmoOp.ofBits? b = some o ↔ b = o.toBits := by
  cases o <;> revert b <;> decide

theorem ElTy.ofBits_eq_iff {b : BitVec 2} {t : ElTy} : ElTy.ofBits b = t ↔ b = t.toBits := by
  cases t <;> revert b <;> decide

theorem Part.ofBits?_eq_some {b : BitVec 2} {p : Part} : Part.ofBits? b = some p ↔ b = p.toBits := by
  cases p <;> revert b <;> decide

theorem AmaxKind.ofBits?_eq_some {b : BitVec 7} {k : AmaxKind} : AmaxKind.ofBits? b = some k ↔ b = k.toBits := by
  cases k with
  | acc t => cases t <;> revert b <;> decide
  | clr => revert b; decide
  | rd => revert b; decide
  | nanc => revert b; decide

/-! ## Modifier layouts (Table 3.13) -/

section layouts
variable {m : BitVec 7} {i : Instr}

theorem ok_eq_ok {j : Instr} : (.ok j : DecodeResult) = .ok i ↔ i = j := by rw [Except.ok.injEq, eq_comm]

theorem check_eq_ok {P : Prop} [Decidable P] {j : Instr} {e : DecodeError} :
    (if P then .ok j else .error e : DecodeResult) = .ok i ↔ P ∧ i = j := by
  by_cases h : P <;> simp [h, eq_comm]

theorem modNone_eq_ok {j : Instr} : modNone m j = .ok i ↔ m = 0#7 ∧ i = j := check_eq_ok

theorem mod3_eq_ok {k : BitVec 3 → Instr} : mod3 m k = .ok i ↔ ∃ p, m = 0#4 ++ p ∧ i = k p := by
  simp only [mod3, check_eq_ok, eq_append (v := 4) (w := 3), and_assoc, exists_and_left, exists_eq_left']

theorem mod2_eq_ok {k : BitVec 2 → Instr} : mod2 m k = .ok i ↔ ∃ r, m = 0#5 ++ r ∧ i = k r := by
  simp only [mod2, check_eq_ok, eq_append (v := 5) (w := 2), and_assoc, exists_and_left, exists_eq_left']

theorem mod1_eq_ok {k : BitVec 1 → Instr} : mod1 m k = .ok i ↔ ∃ n, m = 0#6 ++ n ∧ i = k n := by
  simp only [mod1, check_eq_ok, eq_append (v := 6) (w := 1), and_assoc, exists_and_left, exists_eq_left']

theorem modClass_eq_ok {k : BitVec 4 → Instr} : modClass m k = .ok i ↔ ∃ c, m = 0#3 ++ c ∧ i = k c := by
  simp only [modClass, check_eq_ok, eq_append (v := 3) (w := 4), and_assoc, exists_and_left, exists_eq_left']

theorem modVreg_eq_ok {k : BitVec 5 → Instr} : modVreg m k = .ok i ↔ ∃ v, m = 0#2 ++ v ∧ i = k v := by
  simp only [modVreg, check_eq_ok, eq_append (v := 2) (w := 5), and_assoc, exists_and_left, exists_eq_left']

theorem modVtyp_eq_ok {k : ElTy → BitVec 5 → Instr} : modVtyp m k = .ok i ↔ ∃ t v, m = t.toBits ++ v ∧ i = k t v := by
  simp only [modVtyp, ok_eq_ok, eq_append (v := 2) (w := 5), ← ElTy.ofBits_eq_iff, and_assoc, exists_and_left, exists_eq_left']

theorem modVtype_eq_ok {k : ElTy → Instr} : modVtype m k = .ok i ↔ ∃ t, m = t.toBits ++ 0#5 ∧ i = k t := by
  simp only [modVtype, check_eq_ok, eq_append (v := 2) (w := 5), ← ElTy.ofBits_eq_iff, and_assoc, exists_eq_left']

theorem modVmem_eq_ok {k : Part → BitVec 5 → Instr} : modVmem m k = .ok i ↔ ∃ p v, m = p.toBits ++ v ∧ i = k p v := by
  simp only [eq_append (v := 2) (w := 5), ← Part.ofBits?_eq_some, and_assoc, exists_and_left, exists_eq_left', modVmem]
  cases Part.ofBits? (m.extractLsb' 5 2) <;> simp [eq_comm]

theorem modSend_eq_ok {k : BitVec 3 → BitVec 4 → Instr} : modSend m k = .ok i ↔ ∃ n c, m = n ++ c ∧ i = k n c := by
  simp only [modSend, ok_eq_ok, eq_append (v := 3) (w := 4), and_assoc, exists_and_left, exists_eq_left']

theorem modSize_eq_ok {k : Size → Instr} : modSize m k = .ok i ↔ ∃ z, m = 0#4 ++ z.toBits ∧ i = k z := by
  simp only [eq_append (v := 4) (w := 3), ← Size.ofBits?_eq_some, modSize]
  cases Size.ofBits? (m.extractLsb' 0 3) <;> simp [check_eq_ok, and_assoc]

theorem modLoad_eq_ok {k : Size → Bool → Instr} : modLoad m k = .ok i ↔ ∃ z sx, m = 0#3 ++ BitVec.ofBool sx ++ z.toBits ∧ i = k z sx := by
  simp only [eq_append (v := 4) (w := 3), extract_eq_append (v := 3) (w := 1), ofBool_eq_iff, ← Size.ofBits?_eq_some, modLoad]
  cases Size.ofBits? (m.extractLsb' 0 3) <;> simp [check_eq_ok, and_assoc]

theorem modOrd_eq_ok {k : Size → Scope → Instr} :
    modOrd m k = .ok i ↔ ∃ z sc, m = 0#1 ++ sc.toBits ++ z.toBits ∧ i = k z sc := by
  simp only [eq_append (v := 4) (w := 3), extract_eq_append (v := 1) (w := 3), ← Size.ofBits?_eq_some, ← Scope.ofBits?_eq_some, modOrd]
  cases Size.ofBits? (m.extractLsb' 0 3) <;> cases Scope.ofBits? (m.extractLsb' 3 3) <;> simp [check_eq_ok, and_assoc]

theorem modAmo_eq_ok {k : AmoOp → Size → Instr} : modAmo m k = .ok i ↔ ∃ o z, m = o.toBits ++ z.toBits ∧ i = k o z := by
  simp only [eq_append (v := 4) (w := 3), ← AmoOp.ofBits?_eq_some, ← Size.ofBits?_eq_some, modAmo]
  cases AmoOp.ofBits? (m.extractLsb' 3 4) <;> cases Size.ofBits? (m.extractLsb' 0 3) <;> simp [eq_comm]

theorem modFence_eq_ok {k : BitVec 4 → Scope → Instr} : modFence m k = .ok i ↔ ∃ n sc, m = n ++ sc.toBits ∧ i = k n sc := by
  simp only [eq_append (v := 4) (w := 3), ← Scope.ofBits?_eq_some, modFence]
  cases Scope.ofBits? (m.extractLsb' 0 3) <;> simp [eq_comm]

theorem modMma_eq_ok {k : Bool → Bool → BitVec 3 → BitVec 2 → Instr} :
    modMma m k = .ok i ↔ ∃ ta tb t a, m = t ++ BitVec.ofBool tb ++ BitVec.ofBool ta ++ a ∧ i = k ta tb t a := by
  simp only [modMma, ok_eq_ok, eq_append (v := 5) (w := 2), extract_eq_append (v := 4) (w := 1), extract_eq_append (v := 3) (w := 1),
    ofBool_eq_iff]
  simp

theorem modTcst_eq_ok {k : Bool → Bool → Bool → BitVec 3 → Instr} : modTcst m k = .ok i ↔
    ∃ amx sr nan t, m = 0#1 ++ BitVec.ofBool nan ++ BitVec.ofBool sr ++ BitVec.ofBool amx ++ t ∧ i = k amx sr nan t := by
  simp only [modTcst, check_eq_ok, eq_append (v := 4) (w := 3), extract_eq_append (v := 3) (w := 1), extract_eq_append (v := 2) (w := 1),
    extract_eq_append (v := 1) (w := 1), ofBool_eq_iff]
  simp

end layouts

/-! ## What the tables of a unit decode (Tables 3.15 to 3.20) -/

section units
variable {g : Guard} {s : Src} {op m : BitVec 7} {i : Instr}

theorem eq_ofNat {w n : Nat} {x : BitVec w} (h : x.toNat = n) : x = BitVec.ofNat w n := by
  rw [← h, BitVec.ofNat_toNat, BitVec.setWidth_eq]

/-! ### The rows whose modifier no other row shares -/

theorem decodeNt_chnew : decodeNt g s 0 m = .ok i ↔ ∃ hr hs, m = 0#1 ++ hr ++ hs ∧ i = .chnew g s hr hs := by
  simp only [decodeNt, check_eq_ok, eq_append (v := 4) (w := 3), extract_eq_append (v := 1) (w := 3)]
  simp

theorem decodeFp_fcmp : decodeFp g s 11#7 m = .ok i ↔ ∃ c p, m = 0#2 ++ FCond.toBits c ++ p ∧ i = .fcmp g s c p := by
  have row : decodeFp g s 11#7 m = if m.extractLsb' 5 2 = 0#2 then .ok (.fcmp g s (FCond.ofBits (m.extractLsb' 3 2)) (m.extractLsb' 0 3))
      else .error .modifier := rfl
  simp only [row, check_eq_ok, eq_append (v := 4) (w := 3), extract_eq_append (v := 2) (w := 2), ← FCond.ofBits_eq_iff]
  simp

theorem decodeFcvt_eq_ok : decodeFcvt g s op m = .ok i ↔ ∃ f d nan, op.extractLsb' 0 5 = Fmt.toBits f ∧
    m = 0#1 ++ BitVec.ofBool nan ++ Fmt.toBits d ∧ i = .fcvt g s f d nan := by
  simp only [eq_append (v := 2) (w := 5), extract_eq_append (v := 1) (w := 1), ofBool_eq_iff, ← Fmt.ofNat?_eq_some, decodeFcvt]
  cases Fmt.ofNat? (op.extractLsb' 0 5).toNat <;> cases Fmt.ofNat? (m.extractLsb' 0 5).toNat <;> simp [check_eq_ok, and_assoc]

theorem decodeVcvt_eq_ok : decodeVcvt g s op m = .ok i ↔ ∃ blk k amx sr nan vd, op.extractLsb' 4 2 = blk ∧ op.extractLsb' 0 4 = k ∧
    m = vd ++ BitVec.ofBool amx ++ BitVec.ofBool sr ++ BitVec.ofBool nan ∧ i = .vcvt g s blk k amx sr nan vd := by
  simp only [decodeVcvt, ok_eq_ok, eq_append (v := 6) (w := 1), extract_eq_append (v := 5) (w := 1), extract_eq_append (v := 4) (w := 1),
    ofBool_eq_iff]
  simp

theorem decodeMx_mmsk : decodeMx g s 17 m = .ok i ↔ ∃ sk t a, m = t ++ sk ++ a ∧ i = .mmsk g s sk t a := by
  simp only [decodeMx, ok_eq_ok, eq_append (v := 5) (w := 2), extract_eq_append (v := 3) (w := 2)]
  simp

theorem decodeMx_taccTile : decodeMx g s 20 m = .ok i ↔
    ∃ amx sr t a, m = BitVec.ofBool sr ++ BitVec.ofBool amx ++ a ++ t ∧ i = .taccTile g s amx sr t a := by
  simp only [decodeMx, ok_eq_ok, eq_append (v := 4) (w := 3), extract_eq_append (v := 2) (w := 2), extract_eq_append (v := 1) (w := 1),
    ofBool_eq_iff]
  simp

theorem decodeMx_taccVector : decodeMx g s 21 m = .ok i ↔ ∃ v a, m = a ++ v ∧ i = .taccVector g s v a := by
  simp only [decodeMx, ok_eq_ok, eq_append (v := 2) (w := 5)]
  simp

/-! ### What a table decodes encodes back -/

theorem encode_at {n : Nat} {u : BitVec 4} (hop : op.toNat = n) (h : encode i = trig g m (BitVec.ofNat 7 n) u s) :
    encode i = trig g m op u s := by
  rw [eq_ofNat hop, h]

theorem encode_of_modNone {n : Nat} {u : BitVec 4} {j : Instr} (hop : op.toNat = n) (h : modNone m j = .ok i)
    (hj : encode j = trig g 0#7 (BitVec.ofNat 7 n) u s) : encode i = trig g m op u s := by
  obtain ⟨rfl, rfl⟩ := modNone_eq_ok.mp h
  exact encode_at hop hj

theorem encode_of_decodeI {u : IUnit} (h : decodeI u g s op.toNat m = .ok i) : encode i = trig g m op u.toBits s := by
  unfold decodeI at h
  split at h
  case h_16 => cases h
  all_goals
    rename_i hop
    exact encode_of_modNone hop h rfl

theorem encode_of_decodeIm (h : decodeIm g s op.toNat m = .ok i) : encode i = trig g m op 2#4 s := by
  unfold decodeIm at h
  split at h
  case h_9 => cases h
  all_goals
    rename_i hop
    exact encode_of_modNone hop h rfl

theorem encode_of_decodeBs (h : decodeBs g s op.toNat m = .ok i) : encode i = trig g m op 3#4 s := by
  unfold decodeBs at h
  split at h
  case h_11 => cases h
  all_goals
    rename_i hop
    exact encode_of_modNone hop h rfl

theorem encode_of_decodeCm (h : decodeCm g s op.toNat m = .ok i) : encode i = trig g m op 4#4 s := by
  unfold decodeCm at h
  split at h
  case h_11 => cases h
  all_goals
    rename_i hop
    obtain ⟨p, rfl, rfl⟩ := mod3_eq_ok.mp h
    exact encode_at hop rfl

theorem encode_of_decodeAd (h : decodeAd g s op.toNat m = .ok i) : encode i = trig g m op 5#4 s := by
  unfold decodeAd at h
  split at h
  case h_7 => cases h
  all_goals
    rename_i hop
    exact encode_of_modNone hop h rfl

theorem encode_of_decodeFp (h : decodeFp g s op m = .ok i) : encode i = trig g m op 6#4 s := by
  unfold decodeFp at h
  split at h
  case isTrue hcvt =>
    obtain ⟨f, d, nan, hf, rfl, rfl⟩ := decodeFcvt_eq_ok.mp h
    rw [eq_append.mpr ⟨hcvt, hf⟩]
    rfl
  case isFalse =>
    split at h
    case h_1 hop | h_2 hop | h_3 hop | h_4 hop | h_9 hop | h_10 hop | h_11 hop =>
      obtain ⟨r, rfl, rfl⟩ := mod2_eq_ok.mp h
      exact encode_at hop (congrArg (fun b => trig g (0#5 ++ b) _ _ s) (FRound.toBits_ofBits r))
    case h_5 hop | h_6 hop | h_7 hop | h_8 hop =>
      exact encode_of_modNone hop h rfl
    case h_12 hop =>
      obtain ⟨c, p, rfl, rfl⟩ := decodeFp_fcmp.mp h
      exact encode_at hop rfl
    case h_13 => cases h

theorem encode_of_decodeLs (h : decodeLs g s op m = .ok i) : encode i = trig g m op 7#4 s := by
  unfold decodeLs at h
  split at h
  case h_1 => cases h
  case h_2 sp hsp =>
    have space := Space.ofBits?_eq_some.mp hsp
    split at h
    case h_1 hop =>
      obtain ⟨z, sx, rfl, rfl⟩ := modLoad_eq_ok.mp h
      rw [eq_append.mpr ⟨eq_ofNat hop, space⟩]
      rfl
    case h_2 hop | h_5 hop | h_6 hop =>
      obtain ⟨z, rfl, rfl⟩ := modSize_eq_ok.mp h
      rw [eq_append.mpr ⟨eq_ofNat hop, space⟩]
      rfl
    case h_3 hop | h_4 hop =>
      obtain ⟨z, sc, rfl, rfl⟩ := modOrd_eq_ok.mp h
      rw [eq_append.mpr ⟨eq_ofNat hop, space⟩]
      rfl
    case h_7 hop =>
      obtain ⟨o, z, rfl, rfl⟩ := modAmo_eq_ok.mp h
      rw [eq_append.mpr ⟨eq_ofNat hop, space⟩]
      rfl
    case h_8 hop =>
      split at h
      case isTrue glb =>
        obtain ⟨o, z, rfl, rfl⟩ := modAmo_eq_ok.mp h
        rw [eq_append.mpr ⟨eq_ofNat hop, space⟩, glb]
        rfl
      case isFalse => cases h
    case h_9 hop =>
      obtain ⟨c, rfl, rfl⟩ := modClass_eq_ok.mp h
      rw [eq_append.mpr ⟨eq_ofNat hop, space⟩]
      rfl
    case h_10 hop =>
      split at h
      case isTrue scr =>
        obtain ⟨n, sc, rfl, rfl⟩ := modFence_eq_ok.mp h
        rw [eq_append.mpr ⟨eq_ofNat hop, space⟩, scr]
        rfl
      case isFalse => cases h
    case h_11 => cases h

theorem encode_of_decodeBr (h : decodeBr g s op.toNat m = .ok i) : encode i = trig g m op 8#4 s := by
  unfold decodeBr at h
  split at h
  case h_5 hop | h_6 hop =>
    obtain ⟨n, rfl, rfl⟩ := mod1_eq_ok.mp h
    exact encode_at hop rfl
  case h_7 => cases h
  all_goals
    rename_i hop
    exact encode_of_modNone hop h rfl

theorem encode_of_decodeNt (h : decodeNt g s op.toNat m = .ok i) : encode i = trig g m op 9#4 s := by
  unfold decodeNt at h
  split at h
  case h_1 hop =>
    obtain ⟨hr, hs, rfl, rfl⟩ := decodeNt_chnew.mp h
    exact encode_at hop rfl
  case h_2 hop | h_3 hop | h_12 hop =>
    obtain ⟨n, c, rfl, rfl⟩ := modSend_eq_ok.mp h
    exact encode_at hop rfl
  case h_4 hop | h_5 hop | h_6 hop | h_10 hop | h_11 hop =>
    obtain ⟨p, rfl, rfl⟩ := mod3_eq_ok.mp h
    exact encode_at hop rfl
  case h_7 hop | h_8 hop | h_9 hop | h_13 hop =>
    exact encode_of_modNone hop h rfl
  case h_14 => cases h

theorem encode_of_decodeSy (h : decodeSy g s op.toNat m = .ok i) : encode i = trig g m op 10#4 s := by
  unfold decodeSy at h
  split at h
  case h_11 => cases h
  all_goals
    rename_i hop
    exact encode_of_modNone hop h rfl

theorem encode_of_decodeVx (h : decodeVx g s op m = .ok i) : encode i = trig g m op 11#4 s := by
  unfold decodeVx at h
  split at h
  case isTrue hcvt =>
    obtain ⟨blk, k, amx, sr, nan, vd, hblk, hk, rfl, rfl⟩ := decodeVcvt_eq_ok.mp h
    rw [eq_append.mpr ⟨extract_eq_append.mpr ⟨hcvt, hblk⟩, hk⟩]
    rfl
  case isFalse =>
    split at h
    case h_1 hop | h_2 hop | h_3 hop | h_4 hop | h_5 hop | h_6 hop | h_7 hop | h_8 hop =>
      obtain ⟨p, v, rfl, rfl⟩ := modVmem_eq_ok.mp h
      exact encode_at hop rfl
    case h_11 hop | h_24 hop | h_25 hop | h_26 hop =>
      obtain ⟨v, rfl, rfl⟩ := modVreg_eq_ok.mp h
      exact encode_at hop rfl
    case h_32 hop =>
      split at h
      case h_1 k hk =>
        obtain rfl := ok_eq_ok.mp h
        rw [eq_ofNat hop, AmaxKind.ofBits?_eq_some.mp hk]
        rfl
      case h_2 => cases h
    case h_33 hop | h_34 hop =>
      obtain ⟨t, rfl, rfl⟩ := modVtype_eq_ok.mp h
      exact encode_at hop rfl
    case h_38 hop =>
      obtain ⟨c, rfl, rfl⟩ := modClass_eq_ok.mp h
      exact encode_at hop rfl
    case h_39 => cases h
    all_goals
      rename_i hop
      obtain ⟨t, v, rfl, rfl⟩ := modVtyp_eq_ok.mp h
      exact encode_at hop rfl

theorem encode_of_decodeMx (h : decodeMx g s op.toNat m = .ok i) : encode i = trig g m op 12#4 s := by
  unfold decodeMx at h
  split at h
  case h_9 hop | h_10 hop | h_11 hop | h_12 hop =>
    obtain ⟨amx, sr, nan, t, rfl, rfl⟩ := modTcst_eq_ok.mp h
    exact encode_at hop rfl
  case h_15 hop | h_17 hop =>
    obtain ⟨ta, tb, t, a, rfl, rfl⟩ := modMma_eq_ok.mp h
    exact encode_at hop rfl
  case h_16 hop =>
    obtain ⟨sk, t, a, rfl, rfl⟩ := decodeMx_mmsk.mp h
    exact encode_at hop rfl
  case h_18 hop =>
    obtain ⟨amx, sr, t, a, rfl, rfl⟩ := decodeMx_taccTile.mp h
    exact encode_at hop rfl
  case h_19 hop =>
    obtain ⟨v, a, rfl, rfl⟩ := decodeMx_taccVector.mp h
    exact encode_at hop rfl
  case h_20 hop | h_21 hop =>
    obtain ⟨r, rfl, rfl⟩ := mod2_eq_ok.mp h
    exact encode_at hop rfl
  case h_22 => cases h
  all_goals
    rename_i hop
    obtain ⟨t, rfl, rfl⟩ := mod3_eq_ok.mp h
    exact encode_at hop rfl

theorem encode_of_decodeCp (h : decodeCp g s op.toNat m = .ok i) : encode i = trig g m op 13#4 s := by
  unfold decodeCp at h
  split at h
  case h_4 => cases h
  all_goals
    rename_i hop
    exact encode_of_modNone hop h rfl

theorem encode_of_decodeBk (h : decodeBk g s op.toNat m = .ok i) : encode i = trig g m op 14#4 s := by
  unfold decodeBk at h
  split at h
  case h_3 hop =>
    obtain ⟨ph, rfl, rfl⟩ := mod1_eq_ok.mp h
    exact encode_at hop rfl
  case h_8 => cases h
  all_goals
    rename_i hop
    exact encode_of_modNone hop h rfl

theorem encode_of_decodeRl (h : decodeRl g s op.toNat m = .ok i) : encode i = trig g m op 15#4 s := by
  unfold decodeRl at h
  split at h
  case h_7 => cases h
  all_goals
    rename_i hop
    exact encode_of_modNone hop h rfl

/-- What a trigger word decodes to encodes back to its guard, modifier, opcode, unit and source. -/
theorem encode_of_decodeUnit {u : BitVec 4} (h : decodeUnit g s u op m = .ok i) : encode i = trig g m op u s := by
  unfold decodeUnit at h
  split at h
  case h_1 hu => exact eq_ofNat hu ▸ encode_of_decodeI (u := .ia) h
  case h_2 hu => exact eq_ofNat hu ▸ encode_of_decodeI (u := .ib) h
  case h_3 hu => exact eq_ofNat hu ▸ encode_of_decodeIm h
  case h_4 hu => exact eq_ofNat hu ▸ encode_of_decodeBs h
  case h_5 hu => exact eq_ofNat hu ▸ encode_of_decodeCm h
  case h_6 hu => exact eq_ofNat hu ▸ encode_of_decodeAd h
  case h_7 hu => exact eq_ofNat hu ▸ encode_of_decodeFp h
  case h_8 hu => exact eq_ofNat hu ▸ encode_of_decodeLs h
  case h_9 hu => exact eq_ofNat hu ▸ encode_of_decodeBr h
  case h_10 hu => exact eq_ofNat hu ▸ encode_of_decodeNt h
  case h_11 hu => exact eq_ofNat hu ▸ encode_of_decodeSy h
  case h_12 hu => exact eq_ofNat hu ▸ encode_of_decodeVx h
  case h_13 hu => exact eq_ofNat hu ▸ encode_of_decodeMx h
  case h_14 hu => exact eq_ofNat hu ▸ encode_of_decodeCp h
  case h_15 hu => exact eq_ofNat hu ▸ encode_of_decodeBk h
  case h_16 =>
    have hu : u.toNat = 15 := by
      simp only [imp_false] at *
      omega
    exact eq_ofNat hu ▸ encode_of_decodeRl h

end units

/-! ## Whole words (Tables 3.2 to 3.7) -/

section words
variable {x : BitVec 32} {i : Instr}

theorem eq_triggerWord {g : BitVec 4} {m op s : BitVec 7} {u : BitVec 4} :
    x = g ++ m ++ op ++ u ++ s ++ 1#3 ↔ x.extractLsb' 28 4 = g ∧ x.extractLsb' 21 7 = m ∧ x.extractLsb' 14 7 = op ∧
      x.extractLsb' 10 4 = u ∧ x.extractLsb' 3 7 = s ∧ x.extractLsb' 2 1 = 0#1 ∧ x.extractLsb' 0 2 = 1#2 := by
  rw [eq_append (v := 29) (w := 3), extract_eq_append (v := 22) (w := 7), extract_eq_append (v := 18) (w := 4),
    extract_eq_append (v := 11) (w := 7), extract_eq_append (v := 4) (w := 7),
    show 1#3 = 0#1 ++ 1#2 from rfl, extract_eq_append (v := 1) (w := 2)]
  simp only [and_assoc]

theorem eq_pairWord {s1 d1 s2 d2 : BitVec 7} : x = s1 ++ d1 ++ s2 ++ d2 ++ 2#4 ↔ x.extractLsb' 25 7 = s1 ∧ x.extractLsb' 18 7 = d1 ∧
    x.extractLsb' 11 7 = s2 ∧ x.extractLsb' 4 7 = d2 ∧ x.extractLsb' 2 2 = 0#2 ∧ x.extractLsb' 0 2 = 2#2 := by
  rw [eq_append (v := 28) (w := 4), extract_eq_append (v := 21) (w := 7), extract_eq_append (v := 14) (w := 7),
    extract_eq_append (v := 7) (w := 7), show 2#4 = 0#2 ++ 2#2 from rfl, extract_eq_append (v := 2) (w := 2)]
  simp only [and_assoc]

theorem eq_ldxWord {imm : BitVec 24} {q : BitVec 2} {n : BitVec 3} : x = imm ++ q ++ n ++ 3#3 ↔ x.extractLsb' 8 24 = imm ∧
    x.extractLsb' 6 2 = q ∧ x.extractLsb' 3 3 = n ∧ x.extractLsb' 2 1 = 0#1 ∧ x.extractLsb' 0 2 = 3#2 := by
  rw [eq_append (v := 29) (w := 3), extract_eq_append (v := 26) (w := 3), extract_eq_append (v := 24) (w := 2),
    show 3#3 = 0#1 ++ 3#2 from rfl, extract_eq_append (v := 1) (w := 2)]
  simp only [and_assoc]

theorem eq_ldiWord {imm : BitVec 20} {n : BitVec 5} : x = 0#3 ++ imm ++ n ++ 7#4 ↔ x.extractLsb' 29 3 = 0#3 ∧ x.extractLsb' 9 20 = imm ∧
    x.extractLsb' 4 5 = n ∧ x.extractLsb' 3 1 = 0#1 ∧ x.extractLsb' 2 1 = 1#1 ∧ x.extractLsb' 0 2 = 3#2 := by
  rw [eq_append (v := 28) (w := 4), extract_eq_append (v := 23) (w := 5), extract_eq_append (v := 3) (w := 20),
    show 7#4 = 0#1 ++ (1#1 ++ 3#2) from rfl, extract_eq_append (v := 1) (w := 3), extract_eq_append (v := 1) (w := 2)]
  simp only [and_assoc]

theorem eq_controlWord {off : BitVec 22} {k : BitVec 2} : x = 0#4 ++ off ++ (k ++ 15#4) ↔ x.extractLsb' 28 4 = 0#4 ∧
    x.extractLsb' 6 22 = off ∧ x.extractLsb' 4 2 = k ∧ x.extractLsb' 3 1 = 1#1 ∧ x.extractLsb' 2 1 = 1#1 ∧ x.extractLsb' 0 2 = 3#2 := by
  rw [eq_append (v := 26) (w := 6), extract_eq_append (v := 4) (w := 22), extract_eq_append (v := 2) (w := 4),
    show 15#4 = 1#1 ++ (1#1 ++ 3#2) from rfl, extract_eq_append (v := 1) (w := 3), extract_eq_append (v := 1) (w := 2)]
  simp only [and_assoc]

theorem encode_of_decodeTrigger (low : x.extractLsb' 0 2 = 1#2) (h : decodeTrigger x = .ok i) : encode i = w32 x := by
  unfold decodeTrigger at h
  split at h
  case isTrue => cases h
  case isFalse bit2 =>
    have clear : x.extractLsb' 2 1 = 0#1 := (BitVec.eq_zero_or_eq_one _).resolve_right bit2
    have word := eq_triggerWord.mpr ⟨rfl, rfl, rfl, rfl, rfl, clear, low⟩
    rw [encode_of_decodeUnit h, trig, Guard.toBits_ofBits, Src.toBits_ofBits, ← word]

theorem encode_of_decodePair (low : x.extractLsb' 0 2 = 2#2) (h : decodePair x = .ok i) : encode i = w32 x := by
  unfold decodePair at h
  split at h
  case isTrue => cases h
  case isFalse bits =>
    split at h
    case h_1 d1 d2 hd1 hd2 =>
      obtain rfl := ok_eq_ok.mp h
      have word := eq_pairWord.mpr ⟨(Src.toBits_ofBits _).symm, Dst.ofBits?_eq_some.mp hd1, (Src.toBits_ofBits _).symm,
        Dst.ofBits?_eq_some.mp hd2, by simpa using bits, low⟩
      exact congrArg w32 word.symm
    case h_2 => cases h

theorem encode_of_decodeWide (low : x.extractLsb' 0 2 = 3#2) (h : decodeWide x = .ok i) : encode i = w32 x := by
  unfold decodeWide at h
  split at h
  case isTrue bit2 =>
    obtain rfl := ok_eq_ok.mp h
    exact congrArg w32 (eq_ldxWord.mpr ⟨rfl, rfl, rfl, bit2, low⟩).symm
  case isFalse bit2 =>
    have set2 : x.extractLsb' 2 1 = 1#1 := (BitVec.eq_zero_or_eq_one _).resolve_left bit2
    split at h
    case isTrue bit3 =>
      obtain ⟨high, rfl⟩ := check_eq_ok.mp h
      exact congrArg w32 (eq_ldiWord.mpr ⟨high, rfl, rfl, bit3, set2, low⟩).symm
    case isFalse bit3 =>
      have set3 : x.extractLsb' 3 1 = 1#1 := (BitVec.eq_zero_or_eq_one _).resolve_left bit3
      split at h
      case isTrue => cases h
      case isFalse high =>
        have zero : x.extractLsb' 28 4 = 0#4 := by simpa using high
        split at h
        case h_1 hk =>
          obtain rfl := ok_eq_ok.mp h
          exact congrArg w32 (eq_controlWord.mpr ⟨zero, rfl, eq_ofNat hk, set3, set2, low⟩).symm
        case h_2 hk =>
          obtain rfl := ok_eq_ok.mp h
          exact congrArg w32 (eq_controlWord.mpr ⟨zero, rfl, eq_ofNat hk, set3, set2, low⟩).symm
        case h_3 => cases h

theorem encode_of_decode32 (long : x.extractLsb' 0 2 ≠ 0#2) (h : decode32 x = .ok i) : encode i = w32 x := by
  unfold decode32 at h
  split at h
  case h_1 low => exact encode_of_decodeTrigger (eq_ofNat low) h
  case h_2 low => exact encode_of_decodePair (eq_ofNat low) h
  case h_3 ne1 ne2 =>
    have other : ∀ b : BitVec 2, b ≠ 0#2 → b.toNat ≠ 1 → b.toNat ≠ 2 → b = 3#2 := by decide
    exact encode_of_decodeWide (other _ long ne1 ne2) h

theorem encode_of_decode16 {h16 : BitVec 16} (short : h16.extractLsb' 0 2 = 0#2) (h : decode16 h16 = .ok i) : encode i = [h16] := by
  unfold decode16 at h
  split at h
  case h_1 d hd =>
    obtain rfl := ok_eq_ok.mp h
    have word : h16 = (Src.ofBits (h16.extractLsb' 9 7)).toBits ++ d.toBits ++ 0#2 := by
      rw [eq_append (v := 14) (w := 2), extract_eq_append (v := 7) (w := 7), Src.toBits_ofBits]
      exact ⟨⟨rfl, Dst.ofBits?_eq_some.mp hd⟩, short⟩
    exact congrArg (fun b => [b]) word.symm
  case h_2 => cases h

theorem checkWf_eq_ok {r : DecodeResult} : checkWf r = .ok i ↔ r = .ok i ∧ i.wf = true := by
  cases r with
  | error e => simp [checkWf]
  | ok j =>
    simp only [checkWf, check_eq_ok, ok_eq_ok]
    exact ⟨fun ⟨hj, hi⟩ => ⟨hi, hi ▸ hj⟩, fun ⟨hi, hj⟩ => ⟨hi ▸ hj, hi⟩⟩

theorem w32_append (h2 h : BitVec 16) : w32 (h2 ++ h) = [h, h2] := by
  obtain ⟨high, low⟩ := eq_append.mp (Eq.refl (h2 ++ h))
  rw [w32, high, low]

end words

/-- Settles O3: the length first, then the one halfword or the two. -/
theorem encodeOfDecode : Obligations.EncodeOfDecode := by
  intro l rest i h
  unfold decode at h
  split at h
  case h_1 => cases h
  case h_2 h16 tail =>
    split at h
    case isTrue short =>
      split at h
      case h_1 j hj =>
        obtain ⟨decoded, wf⟩ := checkWf_eq_ok.mp hj
        cases h
        exact ⟨wf, by rw [encode_of_decode16 (by simpa [isH16] using short) decoded]; rfl⟩
      case h_2 => cases h
    case isFalse long =>
      split at h
      case h_1 => cases h
      case h_2 h2 rest2 =>
        split at h
        case h_1 j hj =>
          obtain ⟨decoded, wf⟩ := checkWf_eq_ok.mp hj
          cases h
          have long' : (h2 ++ h16).extractLsb' 0 2 ≠ 0#2 := by
            rw [Laws.low_append _ _ _ _ (by decide)]
            simpa [isH16] using long
          exact ⟨wf, by rw [encode_of_decode32 long' decoded, w32_append]; rfl⟩
        case h_2 => cases h

/-! ## What a table decodes its rows' words to -/

theorem decodeUnit_iunit (u : IUnit) (g : Guard) (s : Src) (op m : BitVec 7) : decodeUnit g s u.toBits op m = decodeI u g s op.toNat m := by
  cases u <;> rfl

theorem decodeUnit_fcvt {g : Guard} {s : Src} {f d : Fmt} {nan : Bool} :
    decodeUnit g s 6#4 (1#2 ++ f.toBits) (0#1 ++ BitVec.ofBool nan ++ d.toBits) = .ok (.fcvt g s f d nan) := by
  obtain ⟨block, code⟩ := eq_append.mp (Eq.refl ((1#2 : BitVec 2) ++ f.toBits))
  have row := decodeFcvt_eq_ok (g := g) (s := s).mpr ⟨f, d, nan, code, rfl, rfl⟩
  exact (if_pos block).trans row

theorem decodeUnit_vcvt {g : Guard} {s : Src} {blk : BitVec 2} {k vd : BitVec 4} {amx sr nan : Bool} :
    decodeUnit g s 11#4 (1#1 ++ blk ++ k) (vd ++ BitVec.ofBool amx ++ BitVec.ofBool sr ++ BitVec.ofBool nan) =
      .ok (.vcvt g s blk k amx sr nan vd) := by
  obtain ⟨high, index⟩ := eq_append.mp (Eq.refl ((1#1 ++ blk : BitVec 3) ++ k))
  obtain ⟨bit6, block⟩ := extract_eq_append.mp high
  have row := decodeVcvt_eq_ok (g := g) (s := s).mpr ⟨blk, k, amx, sr, nan, vd, block, index, rfl, rfl⟩
  exact (if_pos bit6).trans row

/-- A trigger word names a unit, an opcode and a modifier that its unit decodes back to it. -/
theorem decodeUnit_of_trigger {i : Instr} {g : Guard} {s : Src} (h : i.trigger? = some (g, s)) :
    ∃ u op m, encode i = trig g m op u s ∧ decodeUnit g s u op m = .ok i := by
  cases i <;> cases h
  case add | addw | sub | subw | andi | ori | xori | andn | orn | min | max | minu | maxu | abs | pass =>
    exact ⟨_, _, _, rfl, decodeUnit_iunit ..⟩
  case mul | mulh | mulhu | mulw | div | divu | rem | remu | shl | shr | sha | rol | clz | ctz | pop | ext | ins | rev
      | aadd | asub | atag | aget | aidx | adiff | fmin | fmax | fabs | fneg | br | bi | call | ret | hclr | close | hkind | slate
      | fin | pin | retake | brk | trap | gcr | scr | sig | hset | lnch | cpush | cpushn | cpoll | binit | barr | bexp | hwbar | gset | gdec
      | rinit | rawait | rrel | rpeek | mon | mwait =>
    exact ⟨_, _, _, rfl, rfl⟩
  case ceq p | cne p | clt p | cltu p | cge p | cgeu p | ctst p | pand p | por p | pnot p
      | rtry p | hmov p | hdup p | hsave p | hload p | tzero p | tmv p =>
    exact ⟨_, _, _, rfl, mod3_eq_ok.mpr ⟨p, rfl, rfl⟩⟩
  case fadd r | fsub r | fmul r | fma r | fsqrt r | frcp r | fdiv r => cases r <;> exact ⟨_, _, _, rfl, rfl⟩
  case aclr r | skset r => exact ⟨_, _, _, rfl, mod2_eq_ok.mpr ⟨r, rfl, rfl⟩⟩
  case fcmp c p => exact ⟨_, _, _, rfl, decodeFp_fcmp.mpr ⟨c, p, rfl, rfl⟩⟩
  case fcvt => exact ⟨_, _, _, rfl, decodeUnit_fcvt⟩
  case loop n | lbrk n | bwait n => exact ⟨_, _, _, rfl, mod1_eq_ok.mpr ⟨n, rfl, rfl⟩⟩
  case chnew hr hs => exact ⟨_, _, _, rfl, decodeNt_chnew.mpr ⟨hr, hs, rfl, rfl⟩⟩
  case snd n c | sndh n c | gsnd n c => exact ⟨_, _, _, rfl, modSend_eq_ok.mpr ⟨n, c, rfl, rfl⟩⟩
  case vld sp part v | vst sp part v =>
    cases sp <;> exact ⟨_, _, _, rfl, modVmem_eq_ok.mpr ⟨part, v, rfl, rfl⟩⟩
  case vbcast t v | vperm t v | vadd t v | vsub t v | vmul t v | vfma t v | vmax t v | vmin t v | vabs t v | vneg t v
      | vexp2 t v | vlog2 t v | vrcp t v | vrsq t v | vsel t v | vscan t v | vmerge t v | vrecv t v =>
    exact ⟨_, _, _, rfl, modVtyp_eq_ok.mpr ⟨t, v, rfl, rfl⟩⟩
  case vcmp c t v => cases c <;> exact ⟨_, _, _, rfl, modVtyp_eq_ok.mpr ⟨t, v, rfl, rfl⟩⟩
  case vmv v | vand v | vor v | vxor v => exact ⟨_, _, _, rfl, modVreg_eq_ok.mpr ⟨v, rfl, rfl⟩⟩
  case vamax k =>
    cases k with
    | acc t => cases t <;> exact ⟨_, _, _, rfl, rfl⟩
    | clr => exact ⟨_, _, _, rfl, rfl⟩
    | rd => exact ⟨_, _, _, rfl, rfl⟩
    | nanc => exact ⟨_, _, _, rfl, rfl⟩
  case vredadd t | vredmax t => exact ⟨_, _, _, rfl, modVtype_eq_ok.mpr ⟨t, rfl, rfl⟩⟩
  case vsnd c => exact ⟨_, _, _, rfl, modClass_eq_ok.mpr ⟨c, rfl, rfl⟩⟩
  case vcvt => exact ⟨_, _, _, rfl, decodeUnit_vcvt⟩
  case tld sp t | tst sp t => cases sp <;> exact ⟨_, _, _, rfl, mod3_eq_ok.mpr ⟨t, rfl, rfl⟩⟩
  case tcst sp amx sr nan t => cases sp <;> exact ⟨_, _, _, rfl, modTcst_eq_ok.mpr ⟨amx, sr, nan, t, rfl, rfl⟩⟩
  case mma ta tb t a | gmma ta tb t a => exact ⟨_, _, _, rfl, modMma_eq_ok.mpr ⟨ta, tb, t, a, rfl, rfl⟩⟩
  case mmsk sk t a => exact ⟨_, _, _, rfl, decodeMx_mmsk.mpr ⟨sk, t, a, rfl, rfl⟩⟩
  case taccTile amx sr t a => exact ⟨_, _, _, rfl, decodeMx_taccTile.mpr ⟨amx, sr, t, a, rfl, rfl⟩⟩
  case taccVector v a => exact ⟨_, _, _, rfl, decodeMx_taccVector.mpr ⟨v, a, rfl, rfl⟩⟩
  case ld z sp sx => cases sp <;> exact ⟨_, _, _, rfl, modLoad_eq_ok.mpr ⟨z, sx, rfl, rfl⟩⟩
  case st z sp | cas z sp | swp z sp => cases sp <;> exact ⟨_, _, _, rfl, modSize_eq_ok.mpr ⟨z, rfl, rfl⟩⟩
  case lda z sp sc | stl z sp sc => cases sp <;> exact ⟨_, _, _, rfl, modOrd_eq_ok.mpr ⟨z, sc, rfl, rfl⟩⟩
  case amo o z sp => cases sp <;> exact ⟨_, _, _, rfl, modAmo_eq_ok.mpr ⟨o, z, rfl, rfl⟩⟩
  case ared o z => exact ⟨_, _, _, rfl, modAmo_eq_ok.mpr ⟨o, z, rfl, rfl⟩⟩
  case rbr sp c => cases sp <;> exact ⟨_, _, _, rfl, modClass_eq_ok.mpr ⟨c, rfl, rfl⟩⟩
  case fence n sc => exact ⟨_, _, _, rfl, modFence_eq_ok.mpr ⟨n, sc, rfl, rfl⟩⟩

/-! ## What an encoded word decodes to -/

section words
variable {x : BitVec 32} {i : Instr}

theorem decode32_trigger {g : Guard} {s : Src} {u : BitVec 4} {op m : BitVec 7} (wf : g.wf = true)
    (hx : x = g.toBits ++ m ++ op ++ u ++ s.toBits ++ 1#3) : decode32 x = decodeUnit g s u op m := by
  obtain ⟨hg, hm, hop, hu, hs, bit2, low⟩ := eq_triggerWord.mp hx
  have clear : ¬x.extractLsb' 2 1 = 1#1 := by rw [bit2]; decide
  have kind : decode32 x = decodeTrigger x := by rw [decode32, low]; rfl
  rw [kind, decodeTrigger, if_neg clear, hg, hm, hop, hu, hs, Guard.ofBits_toBits wf, Src.ofBits_toBits]

theorem decode32_pairWord {s1 s2 : Src} {d1 d2 : Dst} (hx : x = s1.toBits ++ d1.toBits ++ s2.toBits ++ d2.toBits ++ 2#4) :
    decode32 x = .ok (.pairWord s1 d1 s2 d2) := by
  obtain ⟨hs1, hd1, hs2, hd2, bits, low⟩ := eq_pairWord.mp hx
  have kind : decode32 x = decodePair x := by rw [decode32, low]; rfl
  simp only [kind, decodePair, bits, hs1, hs2, Dst.ofBits?_eq_some.mpr hd1, Dst.ofBits?_eq_some.mpr hd2, Src.ofBits_toBits]
  rfl

theorem decode32_wide (low : x.extractLsb' 0 2 = 3#2) : decode32 x = decodeWide x := by
  rw [decode32, low]
  rfl

theorem decode32_ldx {imm : BitVec 24} {q : BitVec 2} {n : BitVec 3} (hx : x = imm ++ q ++ n ++ 3#3) :
    decode32 x = .ok (.ldx imm q n) := by
  obtain ⟨himm, hq, hn, bit2, low⟩ := eq_ldxWord.mp hx
  rw [decode32_wide low, decodeWide, if_pos bit2, himm, hq, hn]

theorem decode32_ldi {imm : BitVec 20} {n : BitVec 5} (hx : x = 0#3 ++ imm ++ n ++ 7#4) : decode32 x = .ok (.ldi imm n) := by
  obtain ⟨high, himm, hn, bit3, bit2, low⟩ := eq_ldiWord.mp hx
  have set2 : ¬x.extractLsb' 2 1 = 0#1 := by rw [bit2]; decide
  rw [decode32_wide low, decodeWide, if_neg set2, if_pos bit3, if_pos high, himm, hn]

theorem decode32_control {off : BitVec 22} {k : BitVec 2} (hx : x = 0#4 ++ off ++ (k ++ 15#4)) :
    decode32 x = match k.toNat with
      | 0 => .ok (.bControl off)
      | 1 => .ok (.callControl off)
      | _ => .error .control := by
  obtain ⟨high, hoff, hk, bit3, bit2, low⟩ := eq_controlWord.mp hx
  have set2 : ¬x.extractLsb' 2 1 = 0#1 := by rw [bit2]; decide
  have set3 : ¬x.extractLsb' 3 1 = 0#1 := by rw [bit3]; decide
  rw [decode32_wide low, decodeWide, if_neg set2, if_neg set3, high, hoff, hk]
  rfl

theorem decode16_plainMove (src : Src) (dst : Dst) : decode16 (src.toBits ++ dst.toBits ++ 0#2) = .ok (.plainMove src dst) := by
  obtain ⟨high, -⟩ := eq_append (v := 14).mp (Eq.refl (src.toBits ++ dst.toBits ++ 0#2))
  obtain ⟨hs, hd⟩ := extract_eq_append (v := 7) (w := 7).mp high
  simp only [decode16, hs, Dst.ofBits?_eq_some.mpr hd, Src.ofBits_toBits]

/-- A word whose bits [1:0] are not 0 is two halfwords, and decodes to what its 32 bits decode to where that is well formed. -/
theorem decode_w32 (long : x.extractLsb' 0 2 ≠ 0#2) (h : decode32 x = .ok i) (wf : i.wf = true) (rest : List (BitVec 16)) :
    decode (w32 x ++ rest) = .ok (i, rest) := by
  have glued : x.extractLsb' 16 16 ++ x.extractLsb' 0 16 = x := (eq_append (v := 16).mpr ⟨rfl, rfl⟩).symm
  have two : isH16 (x.extractLsb' 0 16) = false := by
    rw [← glued, Laws.low_append _ _ _ _ (by decide)] at long
    simpa [isH16] using long
  simp only [w32, List.cons_append, List.nil_append, decode, two, glued, checkWf_eq_ok.mpr ⟨h, wf⟩]
  rfl

/-- The instructions with an encoding but no guard (Tables 3.2, 3.3, 3.5 to 3.7). -/
theorem decode_of_untriggered (h : i.trigger? = none) (wf : i.wf = true) (word : encode i ≠ []) (rest : List (BitVec 16)) :
    decode (encode i ++ rest) = .ok (i, rest) := by
  cases i
  case plainMove src dst =>
    have short : isH16 (src.toBits ++ dst.toBits ++ 0#2) = true := beq_iff_eq.mpr (eq_append (v := 14).mp rfl).2
    have decoded := checkWf_eq_ok.mpr ⟨decode16_plainMove src dst, wf⟩
    simp only [encode, List.cons_append, List.nil_append, decode, short, decoded]
    rfl
  case pairWord =>
    exact decode_w32 ((Laws.low_append 28 4 _ 2#4 (by decide)).trans_ne (by decide)) (decode32_pairWord rfl) wf rest
  case ldx => exact decode_w32 ((Laws.low_append 29 3 _ 3#3 (by decide)).trans_ne (by decide)) (decode32_ldx rfl) wf rest
  case ldi => exact decode_w32 ((Laws.low_append 28 4 _ 7#4 (by decide)).trans_ne (by decide)) (decode32_ldi rfl) wf rest
  case bControl =>
    exact decode_w32 ((Laws.low_append 26 6 _ 15#6 (by decide)).trans_ne (by decide)) (decode32_control (k := 0#2) rfl) wf rest
  case callControl =>
    exact decode_w32 ((Laws.low_append 26 6 _ 31#6 (by decide)).trans_ne (by decide)) (decode32_control (k := 1#2) rfl) wf rest
  -- a trigger word has a guard, an event has no encoding
  all_goals cases h <;> exact absurd rfl word

theorem guard_wf_of_trigger {g : Guard} {s : Src} (h : i.trigger? = some (g, s)) (wf : i.wf = true) : g.wf = true := by
  simp only [Instr.wf, Instr.guard?, h, Option.map_some, Bool.and_eq_true] at wf
  exact wf.2

theorem decode_of_trigger {g : Guard} {s : Src} (h : i.trigger? = some (g, s)) (wf : i.wf = true) (rest : List (BitVec 16)) :
    decode (encode i ++ rest) = .ok (i, rest) := by
  obtain ⟨u, op, m, encoded, decoded⟩ := decodeUnit_of_trigger h
  rw [encoded]
  exact decode_w32 ((Laws.low_append 29 3 _ 1#3 (by decide)).trans_ne (by decide))
    ((decode32_trigger (guard_wf_of_trigger h wf) rfl).trans decoded) wf rest

end words

/-- Settles O2: the trigger words by the table of their unit, the other words one form at a time. -/
theorem decodeOfEncode : Obligations.DecodeOfEncode := by
  intro i rest wf word
  cases h : i.trigger? with
  | some trigger =>
    obtain ⟨g, s⟩ := trigger
    exact decode_of_trigger h wf rest
  | none => exact decode_of_untriggered h wf word rest

theorem decodeTableWord_of_encode {n x : Nat} {i : Instr} {rest : List (BitVec 16)}
    (halves : [BitVec.ofNat 16 x, BitVec.ofNat 16 (x / 65536)] = encode i ++ rest) (wf : i.wf = true) (word : encode i ≠ []) :
    decodeTableWord n x = some i := by
  rw [decodeTableWord, halves, decodeOfEncode i rest wf word]

/-- Settles O1: each word is the encoding of its instruction. -/
theorem decodesSpecWords : Obligations.DecodesSpecWords := by
  refine ⟨?_, ?_, ?_, ?_, ?_, ?_, ?_, ?_, ?_, ?_, ?_, decodeTableWord_of_encode (rest := [0]) rfl rfl (List.cons_ne_nil _ _)⟩
  all_goals exact decodeTableWord_of_encode (rest := []) rfl rfl (List.cons_ne_nil _ _)

end Sys2Proof.Proofs
end

section

namespace Sys2Proof.Proofs

open Sys2Proof Sys2Proof.Machine Sys2Proof.Claims

/-! ## Branches (R56, R138) -/

/-- A trigger that performs in a free unit has the outcome of its operation. -/
theorem trigger1_performs {s r : State} {grd : Guard} {src : Src} {u : BitVec 4} {v : Word} {f : Nat → BitVec 3 → Word → State → Option State}
    (hp : Performs s grd src v r) (free : unitBusy (me s) u = false) :
    trigger1 s grd src u f = .next ((f s.cur.1 s.cur.2 v r).getD s) :=
  trigger1_eq hp.issue hp.source hp.guard free

theorem relTarget_eq {n : Nat} (x : Thread) (off : BitVec n) :
    relTarget x (off.signExtend 64) = x.pc + BitVec.ofInt 64 (2 * off.toInt) := by
  rw [relTarget, BitVec.ofInt_mul, BitVec.signExtend]
  rfl

theorem branchRel_eq {n : Nat} (x : Thread) (off : BitVec n) :
    branchRel x (off.signExtend 64) = branched x (x.pc + BitVec.ofInt 64 (2 * off.toInt)) 0 := by
  rw [branchRel, relTarget_eq]
  rfl

theorem callRel_eq {n : Nat} (x : Thread) (off : BitVec n) : callRel x (off.signExtend 64) =
    branched { x with g := rset x.g 31#5 (x.pc + 4) } (x.pc + BitVec.ofInt 64 (2 * off.toInt)) (x.pc + 4) := by
  rw [callRel, relTarget_eq]
  rfl

theorem addrOf_setWidth (v : Word) : (addrOf v).setWidth 64 = BitVec.ofNat 64 (v.toNat % 2 ^ 56) := by
  have narrow : (addrOf v).toNat = v.toNat % 2 ^ 56 := by rw [addrOf, toNat_field, pow_zero, Nat.div_one]
  rw [← narrow, BitVec.ofNat_toNat]

theorem branchTo_even {s : State} {c : Nat} {t : BitVec 3} {v : Word} (even : v.getLsbD 0 = false) :
    branchTo s c t v = modThr s c t (fun x => branched x (BitVec.ofNat 64 (v.toNat % 2 ^ 56)) 0) := by
  have bit : v[0] = false := even
  simp only [branchTo, bit, addrOf_setWidth]
  rfl

theorem branchTo_odd {s : State} {c : Nat} {t : BitVec 3} {v : Word} (odd : v.getLsbD 0 = true) :
    branchTo s c t v = faultWord s c t .align :=
  if_pos odd

/-- Settles O18: the trigger forms by their target, then the control forms. -/
theorem branchResults : Obligations.BranchResults := by
  intro s free
  refine ⟨fun grd src v r hp => ⟨?_, ?_, fun even => ⟨?_, ?_⟩, fun odd => ⟨?_, ?_⟩⟩, fun hc off => ⟨?_, ?_⟩⟩
  · rw [exec_br, execBr, trigger1_performs hp free]
    simp only [← branchRel_eq, BitVec.signExtend_eq]
    rfl
  · rw [exec_call, execCall, trigger1_performs hp free]
    simp only [← callRel_eq, BitVec.signExtend_eq]
    rfl
  · rw [exec_bi, execBi, trigger1_performs hp free, branchTo_even even]
    rfl
  · rw [exec_ret, execRet, trigger1_performs hp free, branchTo_even even]
    rfl
  · rw [exec_bi, execBi, trigger1_performs hp free, branchTo_odd odd]
    rfl
  · rw [exec_ret, execRet, trigger1_performs hp free, branchTo_odd odd]
    rfl
  · rw [exec_bControl, execBControl, word_eq hc]
    simp only [branchRel_eq]
    rw [show thr s s.cur.1 s.cur.2 = me s from rfl, free]
    rfl
  · rw [exec_callControl, execCallControl, word_eq hc]
    simp only [callRel_eq]
    rw [show thr s s.cur.1 s.cur.2 = me s from rfl, free]
    rfl

end Sys2Proof.Proofs
end

section

namespace Sys2Proof.Proofs

open Sys2Proof Sys2Proof.Machine Sys2Proof.Claims

/-! ## What an operation leaves of every cell and die -/

section kept
variable {α β : Type} {s s' s'' : State} {part : Cell → α} {dpart : Die → β}

/-- The named parts of every cell and of every die are as before. -/
structure Kept (part : Cell → α) (dpart : Die → β) (s s' : State) : Prop where
  cell : ∀ c, part (cellAt s' c) = part (cellAt s c)
  die : ∀ d, dpart (dieAt s' d) = dpart (dieAt s d)

theorem Kept.refl (s : State) : Kept part dpart s s := ⟨fun _ => rfl, fun _ => rfl⟩

theorem Kept.trans (h : Kept part dpart s s') (h' : Kept part dpart s' s'') : Kept part dpart s s'' :=
  ⟨fun c => (h'.cell c).trans (h.cell c), fun d => (h'.die d).trans (h.die d)⟩

theorem kept_of_eq (hc : s'.cells = s.cells) (hd : s'.dies = s.dies) : Kept part dpart s s' :=
  ⟨fun c => by rw [cellAt, hc, cellAt], fun d => by rw [dieAt, hd, dieAt]⟩

theorem kept_modCell {c : Nat} {f : Cell → Cell} (h : ∀ x, part (f x) = part x := by exact fun _ => rfl) : Kept part dpart s (modCell s c f) := by
  refine ⟨fun c' => ?_, fun d => rfl⟩
  rw [cellAt_modCell]
  split
  · rename_i hc
    rw [h, hc]
  · rfl

theorem kept_modDie {d : Nat} {f : Die → Die} (h : ∀ x, dpart (f x) = dpart x := by exact fun _ => rfl) : Kept part dpart s (modDie s d f) := by
  refine ⟨fun c => rfl, fun d' => ?_⟩
  by_cases same : BitVec.ofNat 2 d' = BitVec.ofNat 2 d
  · simp [dieAt, modDie, same, h]
  · simp [dieAt, modDie, same]

theorem Kept.sendPkt (h : Kept part dpart s s') (dst : Nat) (p : Packet) : Kept part dpart s (sendPkt s' dst p) := h.trans (kept_of_eq rfl rfl)

theorem Kept.ite {p : Prop} [Decidable p] (h : Kept part dpart s s') (h' : Kept part dpart s s'') :
    Kept part dpart s (if p then s' else s'') := by
  split
  · exact h
  · exact h'

theorem kept_foldl {γ : Type} {f : State → γ → State} {l : List γ} (h : ∀ s, ∀ b ∈ l, Kept part dpart s (f s b)) :
    Kept part dpart s (l.foldl f s) := by
  induction l generalizing s with
  | nil => exact Kept.refl s
  | cons b l ih => exact (h s b List.mem_cons_self).trans (ih (fun s b hb => h s b (List.mem_cons_of_mem _ hb)))

/-! ### Watch entries -/

/-- A part of the cells that does not tell which watch entries have fired. -/
def NoFired (part : Cell → α) : Prop := ∀ x l, l.map Watch.th = x.watch.map Watch.th → part { x with watch := l } = part x

theorem tget_map_cells {f : Cell → Cell} (l : List (Nat × Cell)) (c : Nat) (h : f Cell.reset = Cell.reset) :
    tget (l.map (fun e => (e.1, f e.2))) c Cell.reset = f (tget l c Cell.reset) := by
  induction l with
  | nil => exact h.symm
  | cons e l ih =>
    by_cases hc : e.1 = c
    · simp [tget, hc]
    · simpa [tget, hc] using ih

theorem kept_applyWrite (hw : NoFired part) (ks : List Nat) (bs : List Byte) : Kept part dpart s (applyWrite s ks bs) := by
  refine ⟨fun c => ?_, fun d => rfl⟩
  have fired := tget_map_cells (f := fun x => { x with watch := x.watch.map (fun w =>
    if !w.evicted && (ks.filter (fun k => !isSystemKey k)).any (fun k => k / 16 * 16 == w.key) then { w with fired := true } else w) })
    s.cells c rfl
  rw [cellAt, applyWrite, fireWatches, fired]
  refine hw _ _ ?_
  rw [List.map_map]
  refine List.map_congr_left (fun w _ => ?_)
  simp only [Function.comp_apply]
  split <;> rfl

/-! ### Ends and packets -/

/-- A part of the cells that holds nothing of the receive end and the stub of a channel. -/
def NoEnd (chan : Nat) (part : Cell → α) : Prop :=
  ∀ x recvs stubs, recvs.filter (fun e => e.eid != chan) = x.recvs.filter (fun e => e.eid != chan) →
    stubs.filter (fun v => v.chan != chan) = x.stubs.filter (fun v => v.chan != chan) → part { x with recvs := recvs, stubs := stubs } = part x

theorem filter_map_other {γ : Type} (key : γ → Nat) (n : Nat) (f : γ → γ) (hf : ∀ e, key (f e) = key e) (l : List γ) :
    (l.map (fun e => if key e == n then f e else e)).filter (fun e => key e != n) = l.filter (fun e => key e != n) := by
  induction l with
  | nil => rfl
  | cons e l ih => by_cases same : key e = n <;> simpa [same, hf] using ih

section channel
variable {chan : Nat} (he : NoEnd chan part)
include he

theorem kept_delRecv (c : Nat) : Kept part dpart s (delRecv s c chan) :=
  kept_modCell (fun x => he x _ _ (by rw [List.filter_filter]; simp) rfl)

theorem kept_modRecv (c : Nat) {f : RecvEnd → RecvEnd} (hf : ∀ e, (f e).eid = e.eid := by exact fun _ => rfl) : Kept part dpart s (modRecv s c chan f) :=
  kept_modCell (fun x => he x _ _ (filter_map_other RecvEnd.eid chan f hf _) rfl)

theorem kept_modStub (c : Nat) {f : Stub → Stub} (hf : ∀ v, (f v).chan = v.chan := by exact fun _ => rfl) : Kept part dpart s (modStub s c chan f) :=
  kept_modCell (fun x => he x _ _ rfl (filter_map_other Stub.chan chan f hf _))

theorem kept_freeStubs (fuel : Nat) : ∀ c s, Kept part dpart s (freeStubs chan fuel c s) := by
  induction fuel with
  | zero => exact fun _ s => Kept.refl s
  | succ fuel ih =>
    intro c s
    unfold freeStubs
    split
    · split
      · exact (kept_modCell (fun x => he x _ _ rfl (by rw [List.filter_filter]; simp))).trans (ih _ _)
      · exact Kept.refl s
    · exact Kept.refl s

theorem kept_tryFreeStub (c : Nat) : Kept part dpart s (tryFreeStub s c chan) := kept_freeStubs he _ c s

theorem kept_consumeNote (c home : Nat) (n : Note) : Kept part dpart s (consumeNote s c chan home n) := by
  unfold consumeNote
  split
  · exact ((kept_modStub he c).trans (kept_tryFreeStub he c)).sendPkt _ _
  · split
    · split
      · exact (kept_delRecv he c).sendPkt _ _
      · exact (kept_modRecv he c).sendPkt _ _
    · exact (Kept.refl s).sendPkt _ _

theorem kept_backTo (c home : Nat) (n : Note) (hold : Bool) (r : RecvEnd) :
    Kept part dpart s (returnNote.backTo s c chan home n hold r) := by
  unfold returnNote.backTo
  split
  · exact kept_consumeNote he c home n
  · exact kept_modRecv he c

theorem kept_returnNote (c home : Nat) (n : Note) (hold : Bool) : Kept part dpart s (returnNote s c chan home n hold) := by
  unfold returnNote
  split
  · split
    · exact (((Kept.refl s).sendPkt _ _).trans (kept_modStub he c)).trans (kept_tryFreeStub he c)
    · split
      · exact kept_backTo he c home n hold _
      · exact Kept.refl s
  · exact kept_backTo he c home n hold _
  · exact (Kept.refl s).sendPkt _ _

end channel

/-- A part of the cells that holds nothing of their send ends and homes. -/
def NoSends (part : Cell → α) : Prop := ∀ x sends homes, part { x with sends := sends, homes := homes } = part x

section sends
variable (hs : NoSends part)
include hs

theorem kept_delSend (c eid : Nat) : Kept part dpart s (delSend s c eid) := kept_modCell (fun x => hs x _ x.homes)

theorem kept_modSend (c eid : Nat) (f : SendEnd → SendEnd) : Kept part dpart s (Machine.modSend s c eid f) := kept_modCell (fun x => hs x _ x.homes)

theorem kept_undoOne (c : Nat) {u : Undo} (he : ∀ r e, u = .chnew r e → NoEnd r part) : Kept part dpart s (undoOne s c u) := by
  cases u with
  | chnew r e => exact ((kept_delRecv (he r e rfl) c).trans (kept_delSend hs c e)).trans (kept_modCell (fun x => hs x x.sends _))
  | hdup src new n => exact (kept_delSend hs c new).trans (kept_modSend hs c src _)

end sends

/-- A part of the cells that holds nothing of their ends, homes and stubs. -/
def NoEnds (part : Cell → α) : Prop :=
  ∀ x sends recvs homes stubs, part { x with sends := sends, recvs := recvs, homes := homes, stubs := stubs } = part x

theorem NoEnds.noEnd (he : NoEnds part) (chan : Nat) : NoEnd chan part := fun x recvs stubs _ _ => he x x.sends recvs x.homes stubs

theorem NoEnds.noSends (he : NoEnds part) : NoSends part := fun x sends homes => he x sends x.recvs homes x.stubs

section ends
variable (he : NoEnds part)
include he

theorem kept_consumeAll (c : Nat) (l : List Consumed) : Kept part dpart s (consumeAll s c l) :=
  kept_foldl (fun _ n _ => kept_consumeNote (he.noEnd n.eid) c n.home n.note)

theorem kept_emitData (c : Nat) (e : SendEnd) (isClose : Bool) (cls nw sub : Nat) (m : Msg) :
    Kept part dpart s (emitData s c e isClose cls nw sub m) := by
  unfold emitData
  refine Kept.sendPkt (Kept.ite ?_ ?_) _ _
  · exact (kept_modSend he.noSends c e.eid _).trans (kept_of_eq rfl rfl)
  · exact kept_modSend he.noSends c e.eid _

theorem kept_closeSendEnd (c eid launch : Nat) : Kept part dpart s (closeSendEnd s c eid launch) := by
  unfold closeSendEnd
  split
  · exact Kept.refl s
  · refine Kept.trans ?_ (kept_delSend he.noSends c eid)
    split
    · exact Kept.refl s
    · exact kept_emitData he c ..

theorem kept_closeRecvEnd (c eid : Nat) : Kept part dpart s (closeRecvEnd s c eid) := by
  unfold closeRecvEnd
  split
  · exact Kept.refl s
  · split
    · exact Kept.refl s
    · split
      · exact (kept_delRecv (he.noEnd eid) c).sendPkt _ _
      · exact (kept_modRecv (he.noEnd eid) c).sendPkt _ _

theorem kept_closeLane (launch : Nat) (l : Option EndRec) : Kept part dpart s (closeLane s launch l) := by
  unfold closeLane
  split
  · exact Kept.refl s
  · split
    · exact kept_closeSendEnd he ..
    · split
      · exact kept_closeRecvEnd he ..
      · exact Kept.refl s
  · split
    · exact Kept.refl s
    · exact (Kept.refl s).sendPkt _ _
  · exact (kept_delRecv (he.noEnd _) _).sendPkt _ _

end ends

/-! ### The effects that an aborted take still performs (R331) -/

theorem kept_sealBlock (hw : NoFired part) (r : SealedRange) (slot : BitVec 6) (j : Nat) (bs : List Byte) :
    Kept part dpart s (sealBlock s r slot j bs) :=
  (kept_applyWrite hw _ _).trans (kept_applyWrite hw _ _)

theorem kept_partWrite (hw : NoFired part) {ctx key : Nat} {bs : List Byte} {b : Bool} (h : partWrite s ctx key bs = some (s', b)) :
    Kept part dpart s s' := by
  unfold partWrite at h
  split at h
  · split at h
    · cases h
      exact Kept.refl s
    · split at h
      · cases h
      · split at h
        · rename_i w hw'
          cases h
          obtain ⟨blk, -, rfl⟩ := Option.map_eq_some_iff.mp hw'
          exact kept_sealBlock hw _ _ _ _
        · cases h
          exact kept_of_eq rfl rfl
  · cases h
    exact kept_applyWrite hw _ _

theorem kept_sealedPartsPast (hw : NoFired part) {ctx : Nat} {ps : List (Nat × List Byte)} :
    ∀ {failed : List Nat} {s : State}, sealedPartsPast ctx failed ps s = some s' → Kept part dpart s s' := by
  induction ps with
  | nil =>
    intro failed s h
    exact Option.some.inj h ▸ Kept.refl s
  | cons p ps ih =>
    obtain ⟨k, bs⟩ := p
    intro failed s h
    unfold sealedPartsPast at h
    split at h
    · exact ih h
    · obtain ⟨e, first, rest⟩ := Option.bind_eq_some_iff.mp h
      exact (kept_partWrite hw first).trans (ih rest)

/-- An attempt to perform an effect that waits, or is done and leaves the named parts. -/
def DoneKept (part : Cell → α) (dpart : Die → β) (s : State) (p : Perf) : Prop := p = .wait ∨ ∃ s', p = .done s' ∧ Kept part dpart s s'

theorem DoneKept.done (h : Kept part dpart s s') : DoneKept part dpart s (.done s') := .inr ⟨s', rfl, h⟩

theorem doneKept_performStore (hw : NoFired part) (c : Nat) (t : BitVec 3) (ks : List Nat) (bs : List Byte) (sys : Bool) (insn : Nat) :
    DoneKept part dpart s (performStore s c t ks bs sys insn) := by
  unfold performStore
  split
  · exact .inl rfl
  · split
    · exact .inl rfl
    · dsimp only
      split
      · exact .inl rfl
      · rename_i s1 written
        have stored : Kept part dpart s s1 := by
          split at written
          · have parts := kept_sealedPartsPast (dpart := dpart) hw written
            refine Kept.trans ?_ parts
            exact kept_of_eq rfl rfl
          · cases written
            exact kept_applyWrite hw _ _
        refine .done (Kept.ite stored ?_)
        exact stored.trans (kept_of_eq rfl rfl)

theorem doneKept_performEffect (hw : NoFired part) {checked : Bool} {e : Effect} (h : isOwed checked e = true) (c : Nat) (t : BitVec 3) :
    DoneKept part dpart s (performEffect s c t e) := by
  unfold isOwed at h
  split at h
  case h_1 size what ks v insn =>
    cases ks with
    | none => exact .inl rfl
    | some ks =>
      show DoneKept part dpart s (performRmw s c t ks size what true insn)
      unfold performRmw
      split
      · exact .inl rfl
      · exact .done (kept_of_eq rfl rfl)
  case h_2 => exact doneKept_performStore hw ..
  case h_3 => exact .done (kept_of_eq rfl rfl)
  case h_4 hdr i =>
    simp only [performEffect]
    split
    · exact .done (Kept.ite (kept_applyWrite hw _ _) (Kept.refl s))
    · exact .done (Kept.refl s)
  case h_5 hdr v =>
    simp only [performEffect]
    split
    · exact .done (kept_applyWrite hw _ _)
    · exact .done (Kept.refl s)
  case h_6 => cases h

/-- What is owed is performed in order; what waits is left. -/
theorem kept_performAll (hw : NoFired part) {checked : Bool} (c : Nat) (t : BitVec 3) (l : List Effect) :
    (∀ e ∈ l, isOwed checked e = true) → ∀ s, Kept part dpart s (performAll c t l s).1 ∧ (performAll c t l s).2.1 ⊆ l := by
  induction l with
  | nil => exact fun _ s => ⟨Kept.refl s, List.Subset.refl _⟩
  | cons e l ih =>
    intro owed s
    have rest := ih (fun e he => owed e (List.mem_cons_of_mem _ he))
    rcases doneKept_performEffect (dpart := dpart) hw (owed e List.mem_cons_self) c t (s := s) with waits | ⟨s', done, first⟩
    · simp only [performAll, waits]
      exact ⟨Kept.refl s, List.Subset.refl _⟩
    · obtain ⟨kept, sub⟩ := rest s'
      simp only [performAll, done]
      exact ⟨first.trans kept, List.subset_cons_of_subset _ sub⟩

theorem kept_stageRelease (hw : NoFired part) (hd : ∀ x l, dpart { x with stages := l } = dpart x) (d i : Nat) (ix : BitVec 32) :
    Kept part dpart s (stageRelease s d i ix) := by
  unfold stageRelease
  have freed (g : Stage) : Kept part dpart s (modStage s d i (fun _ => g)) := kept_modDie (fun x => hd x _)
  exact Kept.ite ((freed _).trans (kept_applyWrite hw _ _)) (freed _)

theorem kept_consumeOrigin (hw : NoFired part) (he : NoEnds part) (hd : ∀ x l, dpart { x with stages := l } = dpart x) (c : Nat) (t : BitVec 3) :
    Kept part dpart s (consumeOrigin s c t) := by
  have closed : Kept part dpart s (if (thr s c t).msg.lane.isSome then closeLane s (thr s c t).msg.launch (thr s c t).msg.lane else s) :=
    Kept.ite (kept_closeLane he _ _) (Kept.refl s)
  unfold consumeOrigin
  dsimp only
  split
  · exact closed.trans (kept_consumeNote (he.noEnd _) ..)
  · exact closed
  · refine Kept.ite (closed.trans (kept_stageRelease hw hd ..)) closed
  · exact closed.trans (kept_applyWrite hw _ _)

theorem kept_modPos (hp : ∀ x p, part { x with pos := p } = part x) (c ctx : Nat) (f : Position → Position) :
    Kept part dpart s (modPos s c ctx f) :=
  kept_modCell (fun x => by
    split
    · exact hp x _
    · rfl)

theorem kept_perf (hp : ∀ x p, part { x with perfCnt := p } = part x) (c ctx code n : Nat) : Kept part dpart s (perf s c ctx code n) :=
  Kept.ite (Kept.refl s) (kept_modCell (fun x => hp x _))

end kept

/-! ## The end of a take (R328 to R331) -/

/-- What a cell holds of its takes: threads, engine operations, the holder of the engine files, the threads with watch entries. -/
def takeSide (x : Cell) : RegFile 3 Thread × Option EngOp × List EngOp × Option EngOp × List EngOp × List EngOp × Option Nat × List Nat :=
  (x.threads, x.vxf, x.vxq, x.mxf, x.mxq, x.cpq, x.efOwner, x.watch.map Watch.th)

/-- What an aborted take still performs, and what a cut returns, leaves this. -/
def takeSideReports (x : Cell) := (takeSide x, x.reports)

section ends
variable {s s' : State} {c : Nat} {t : BitVec 3}

theorem noFired_takeSide : NoFired takeSide := fun x l h => by simp only [takeSide, h]

theorem noFired_takeSideReports : NoFired takeSideReports := fun x l h => by simp only [takeSideReports, takeSide, h]

theorem noEnds_takeSideReports : NoEnds takeSideReports := fun _ _ _ _ _ => rfl

theorem kept_abortTake (s : State) (c : Nat) (t : BitVec 3) (checked : Bool) :
    Kept takeSideReports Die.ctxRecs s (abortTake s c t checked).1 ∧ ∀ e ∈ (abortTake s c t checked).2, isOwed checked e = true := by
  obtain ⟨performed, left⟩ := kept_performAll (dpart := Die.ctxRecs) noFired_takeSideReports (checked := checked) c t
    ((owedEffects checked (thr s c t)).filter (fun e => !blockedForGood s c t e))
    (fun e he => (List.mem_filter.mp (List.mem_filter.mp he).1).2) (leaveClaims s (thr s c t).effects)
  have claims : Kept takeSideReports Die.ctxRecs s (leaveClaims s (thr s c t).effects) := kept_of_eq rfl rfl
  refine ⟨?_, fun e he => (List.mem_filter.mp (List.mem_filter.mp (left he)).1).2⟩
  exact (((claims.trans performed).trans (kept_consumeAll noEnds_takeSideReports c _)).trans
    (kept_consumeOrigin noFired_takeSideReports noEnds_takeSideReports (fun _ _ => rfl) c t)).trans (kept_perf (fun _ _ => rfl) c _ _ _)

theorem kept_returnOrigin (s : State) (c : Nat) (t : BitVec 3) (hold : Bool) :
    Kept takeSideReports Die.ctxRecs s (returnOrigin s c t hold) := by
  unfold returnOrigin
  dsimp only
  split
  · exact kept_returnNote (noEnds_takeSideReports.noEnd _) ..
  · exact kept_modPos (fun _ _ => rfl) ..
  · exact kept_modDie
  · exact kept_modPos (fun _ _ => rfl) ..

/-- A cut once the FIFO entries of the take are free and its channel operations undone. -/
def cutUndone (s : State) (c : Nat) (t : BitVec 3) : State :=
  (thr s c t).undo.foldl (fun s u => undoOne s c u)
    (modCell s c (fun y => { y with fifo := y.fifo.map (fun f => if f.st == .reserved t.toNat then freedEntry s else f) }))

/-- A cut once the messages that the take consumed have returned too. -/
def cutUnwound (s : State) (c : Nat) (t : BitVec 3) : State :=
  (thr s c t).consumed.foldl (fun s n => returnNote s c n.eid n.home n.note false) (cutUndone s c t)

theorem cutTake_eq (s : State) (c : Nat) (t : BitVec 3) (hold : Bool) :
    cutTake s c t hold = perf (returnOrigin (cutUnwound s c t) c t hold) c (thr s c t).ctx.toNat 0x08 1 :=
  rfl

theorem kept_cutUnwound {α β : Type} {part : Cell → α} {dpart : Die → β} (he : NoEnds part) (hf : ∀ x fifo, part { x with fifo := fifo } = part x)
    (s : State) (c : Nat) (t : BitVec 3) : Kept part dpart s (cutUnwound s c t) := by
  have freed : Kept part dpart s
      (modCell s c (fun y => { y with fifo := y.fifo.map (fun f => if f.st == .reserved t.toNat then freedEntry s else f) })) :=
    kept_modCell (fun x => hf x _)
  exact (freed.trans (kept_foldl (fun _ u _ => kept_undoOne he.noSends c (fun r _ _ => he.noEnd r)))).trans (kept_foldl (fun _ n _ => kept_returnNote (he.noEnd n.eid) ..))

theorem kept_cutTake (s : State) (c : Nat) (t : BitVec 3) (hold : Bool) : Kept takeSideReports Die.ctxRecs s (cutTake s c t hold) := by
  rw [cutTake_eq]
  exact ((kept_cutUnwound noEnds_takeSideReports (fun _ _ => rfl) s c t).trans (kept_returnOrigin _ c t hold)).trans (kept_perf (fun _ _ => rfl) ..)

/-- Nothing of the thread is queued, computing or outstanding. -/
structure Stopped (s : State) (c : Nat) (t : BitVec 3) : Prop where
  vx : vxOps (cellAt s c) t = []
  mx : mxOps (cellAt s c) t = []
  cp : cpOps (cellAt s c) t = []
  orc : (thr s c t).orc = 0

theorem Kept.thr_eq {β : Type} {dpart : Die → β} (h : Kept takeSide dpart s s') (c : Nat) (t : BitVec 3) : thr s' c t = thr s c t :=
  congrArg (fun threads => rget threads t) (congrArg Prod.fst (h.cell c))

theorem Kept.dropReports {β : Type} {dpart : Die → β} (h : Kept takeSideReports dpart s s') : Kept takeSide dpart s s' :=
  ⟨fun c => congrArg Prod.fst (h.cell c), h.die⟩

theorem Kept.reports {β : Type} {dpart : Die → β} (h : Kept takeSideReports dpart s s') (c : Nat) :
    (cellAt s' c).reports = (cellAt s c).reports :=
  congrArg Prod.snd (h.cell c)

theorem Stopped.of_kept {β : Type} {dpart : Die → β} (h : Stopped s c t) (k : Kept takeSide dpart s s') : Stopped s' c t := by
  obtain ⟨-, vxf, vxq, mxf, mxq, cpq, -⟩ : _ ∧ _ ∧ _ ∧ _ ∧ _ ∧ _ ∧ _ := by simpa only [takeSide, Prod.mk.injEq] using k.cell c
  refine ⟨?_, ?_, ?_, ?_⟩
  · simpa only [vxOps, vxf, vxq] using h.vx
  · simpa only [mxOps, mxf, mxq] using h.mx
  · simpa only [cpOps, cpq] using h.cp
  · rw [k.thr_eq]
    exact h.orc

theorem opsOf_notOf (t : BitVec 3) (q : List EngOp) : opsOf t (notOf t q) = [] := by
  simp [opsOf, notOf]

theorem optOps_filter (t : BitVec 3) (o : Option EngOp) : optOps t (o.filter (fun o => o.th != t.toNat)) = [] := by
  cases o with
  | none => rfl
  | some o => by_cases h : o.th = t.toNat <;> simp [optOps, opsOf, Option.filter, h]

/-- A cell whose engine operations of the thread are put down. -/
def putDown (t : BitVec 3) (freed : Cell → Nat × List Nat) (x : Cell) : Cell :=
  { x with
    vxf := x.vxf.filter (fun o => o.th != t.toNat), vxq := notOf t x.vxq
    mxf := x.mxf.filter (fun o => o.th != t.toNat), mxq := notOf t x.mxq
    cpq := notOf t x.cpq, qWait := x.qWait.filter (fun e => e.2 != t.toNat), qFreed := freed x }

theorem leaveJoinsIf_eq (s : State) (c ctx : Nat) (b : Bool) : (∀ c', cellAt (if b then leaveJoins s c ctx else s) c' = cellAt s c') ∧
    (if b then leaveJoins s c ctx else s).dies = s.dies ∧ (if b then leaveJoins s c ctx else s).flights = s.flights := by
  cases b <;> exact ⟨fun _ => rfl, rfl, rfl⟩

/-- What `dropWork` does: it puts down the operations in the cell, discards requests, and clears the count of those outstanding. -/
theorem dropWork_eq (s : State) (c : Nat) (t : BitVec 3) :
    ∃ s' reqs freed, dropWork s c t = modThr { s' with reqs := reqs } c t (fun x => { x with orc := 0 }) ∧
      (∀ c', cellAt s' c' = if c' = c then putDown t freed (cellAt s c) else cellAt s c') ∧ s'.dies = s.dies ∧ s'.flights = s.flights := by
  obtain ⟨cell, dies, flights⟩ := leaveJoinsIf_eq s c (thr s c t).ctx.toNat ((optOps t (cellAt s c).mxf).any (fun o => o.joined))
  unfold dropWork
  dsimp only
  generalize (if (optOps t (cellAt s c).mxf).any (fun o => o.joined) then leaveJoins s c (thr s c t).ctx.toNat else s) = joined at *
  refine ⟨_, _, fun x => (freedQueue 11 (opsOf t x.vxq).length joined.cyc.toNat (freedQueue 12 (opsOf t x.mxq).length joined.cyc.toNat
    (freedQueue 13 (opsOf t x.cpq).length joined.cyc.toNat x))).qFreed, rfl, fun c' => ?_, dies, flights⟩
  rw [cellAt_modCell, cell, cell]
  generalize cellAt s c = x
  rfl

/-- The cell once the thread's work is put down. -/
theorem cellAt_dropWork (s : State) (c : Nat) (t : BitVec 3) : ∃ freed, cellAt (dropWork s c t) c =
    { putDown t freed (cellAt s c) with threads := rset (cellAt s c).threads t { thr s c t with orc := 0 } } := by
  obtain ⟨s', reqs, freed, eq, cell, -, -⟩ := dropWork_eq s c t
  have cell' : cellAt { s' with reqs := reqs } c = putDown t freed (cellAt s c) := (cell c).trans (if_pos rfl)
  rw [eq, cellAt_modThr, if_pos rfl, thr, cell']
  exact ⟨freed, rfl⟩

theorem thr_dropWork (s : State) (c : Nat) (t : BitVec 3) : thr (dropWork s c t) c t = { thr s c t with orc := 0 } := by
  obtain ⟨freed, cell⟩ := cellAt_dropWork s c t
  rw [thr, cell]
  exact rget_rset_same _ _ _

theorem stopped_dropWork (s : State) (c : Nat) (t : BitVec 3) : Stopped (dropWork s c t) c t := by
  obtain ⟨freed, cell⟩ := cellAt_dropWork s c t
  refine ⟨?_, ?_, ?_, by rw [thr_dropWork]⟩
  · simp only [cell, putDown, vxOps, optOps_filter, opsOf_notOf, List.append_nil]
  · simp only [cell, putDown, mxOps, optOps_filter, opsOf_notOf, List.append_nil]
  · simp only [cell, putDown, cpOps, opsOf_notOf]

/-- What a take that has ended no longer holds: `TakeEnded` but for the phase and the effects still owed. -/
def Released (s : State) (c : Nat) (t : BitVec 3) : Prop :=
  let x := thr s c t
  x.undo = [] ∧ x.consumed = [] ∧ x.orc = 0 ∧ x.pinning = false ∧ x.y = Vector.replicate 16 .untriggered ∧
    vxOps (cellAt s c) t = [] ∧ mxOps (cellAt s c) t = [] ∧ cpOps (cellAt s c) t = [] ∧
    (∀ w ∈ (cellAt s c).watch, w.th ≠ t.toNat) ∧ (cellAt s c).efOwner ≠ some t.toNat

/-- The cell once the thread is free. -/
theorem cellAt_freeThread (s : State) (c : Nat) (t : BitVec 3) (ph : Phase) : ∃ waits, cellAt (freeThread s c t ph) c =
    { cellAt s c with
      threads := rset (cellAt s c).threads t { thr s c t with
        phase := ph, pinned := false, pinning := false, waits := none, wants := none, effects := [], undo := [], consumed := [], pages := []
        past := Past.reset, y := Vector.replicate 16 .untriggered }
      watch := (cellAt s c).watch.filter (fun w => w.th != t.toNat)
      efOwner := if (cellAt s c).efOwner == some t.toNat && enginesIdle (cellAt s c) t then none else (cellAt s c).efOwner
      efWait := waits } := by
  unfold freeThread releaseFiles
  dsimp only
  rw [cellAt_modCell_same, cellAt_modCell_same, cellAt_modThr, if_pos rfl]
  exact ⟨_, rfl⟩

theorem thr_freeThread (s : State) (c : Nat) (t : BitVec 3) (ph : Phase) : thr (freeThread s c t ph) c t = { thr s c t with
    phase := ph, pinned := false, pinning := false, waits := none, wants := none, effects := [], undo := [], consumed := [], pages := []
    past := Past.reset, y := Vector.replicate 16 .untriggered } := by
  obtain ⟨waits, cell⟩ := cellAt_freeThread s c t ph
  rw [thr, cell]
  exact rget_rset_same _ _ _

theorem released_freeThread (h : Stopped s c t) (ph : Phase) : Released (freeThread s c t ph) c t := by
  obtain ⟨waits, cell⟩ := cellAt_freeThread s c t ph
  have idle : enginesIdle (cellAt s c) t = true := by simp [enginesIdle, h.vx, h.mx]
  refine ⟨?_, ?_, ?_, ?_, ?_, ?_, ?_, ?_, ?_, ?_⟩
  · rw [thr_freeThread]
  · rw [thr_freeThread]
  · rw [thr_freeThread]
    exact h.orc
  · rw [thr_freeThread]
  · rw [thr_freeThread]
  · rw [cell]
    exact h.vx
  · rw [cell]
    exact h.mx
  · rw [cell]
    exact h.cp
  · rw [cell]
    intro w hw
    simpa using (List.mem_filter.mp hw).2
  · rw [cell]
    by_cases owner : (cellAt s c).efOwner = some t.toNat <;> simp [owner, idle]

theorem Released.of_kept {β : Type} {dpart : Die → β} (h : Released s c t) (k : Kept takeSide dpart s s') : Released s' c t := by
  obtain ⟨-, vxf, vxq, mxf, mxq, cpq, owner, watch⟩ : _ ∧ _ ∧ _ ∧ _ ∧ _ ∧ _ ∧ _ ∧ _ := by
    simpa only [takeSide, Prod.mk.injEq] using k.cell c
  have watched : (∀ w ∈ (cellAt s' c).watch, w.th ≠ t.toNat) ↔ ∀ w ∈ (cellAt s c).watch, w.th ≠ t.toNat := by
    simpa only [List.forall_mem_map] using iff_of_eq (congrArg (fun l => ∀ th ∈ l, th ≠ t.toNat) watch)
  simpa only [Released, k.thr_eq, vxOps, mxOps, cpOps, vxf, vxq, mxf, mxq, cpq, owner, watched] using h

/-- A change of the thread's phase or of its effects takes nothing back. -/
theorem Released.modThr {f : Thread → Thread} (h : Released s c t)
    (hf : ∀ x, (f x).undo = x.undo ∧ (f x).consumed = x.consumed ∧ (f x).orc = x.orc ∧ (f x).pinning = x.pinning ∧ (f x).y = x.y) :
    Released (modThr s c t f) c t := by
  obtain ⟨undo, consumed, orc, pinning, y⟩ := hf (thr s c t)
  simpa only [Released, thr_modThr_same, undo, consumed, orc, pinning, y, vxOps, mxOps, cpOps, cellAt_modThr_vxf, cellAt_modThr_vxq,
    cellAt_modThr_mxf, cellAt_modThr_mxq, cellAt_modThr_cpq, cellAt_modThr_watch, cellAt_modThr_efOwner] using h

end ends

end Sys2Proof.Proofs
end

section

namespace Sys2Proof.Proofs

open Sys2Proof Sys2Proof.Machine Sys2Proof.Claims

/-! ## Trap entry (R328 to R331) -/

section trap
variable {s s' : State} {c : Nat} {t : BitVec 3}

/-- The words that a trap frame holds: a `brk` has no cause. -/
def trapWords (s : State) (c : Nat) (t : BitVec 3) (i : TrapInfo) : List Word :=
  let fw := frameWords s c t i (isIrrevocable (thr s c t))
  if i.kind = 2 then fw.set 0 ((fw.headD 0) &&& ~~~(15#64)) else fw

/-- The thread's work is put down and its frame written. -/
def trapFramed (s : State) (c : Nat) (t : BitVec 3) (i : TrapInfo) : State :=
  modThr (dropWork s c t) c t (fun x => { x with frame := frameOf (trapWords s c t i) })

/-- The take is cut, or aborted with the effects that it still owes. -/
def trapUnwound (s : State) (c : Nat) (t : BitVec 3) (i : TrapInfo) : State × List Effect :=
  if isIrrevocable (thr s c t) then abortTake (trapFramed s c t i) c t (headersChecked s c t)
  else (cutTake (trapFramed s c t i) c t true, [])

def trapReport (s : State) (c : Nat) (t : BitVec 3) (i : TrapInfo) : Report :=
  let x := thr s c t
  mkReport x.ctx.toNat (reportWord0 (if i.kind = 2 then 2 else if isIrrevocable x then 1 else 0) x.ctx.toNat i.reason i.code c t.toNat
      (if i.kind = 2 then 0 else causeCode i.cause))
    (if isIrrevocable x then 0 else releaseWord x.ctx.toNat x.origin) x.slate (trapUnwound s c t i).1.cyc 0 0 (trapWords s c t i) (some t.toNat)

/-- The thread is free but for its report and the effects still owed. -/
def trapFreed (s : State) (c : Nat) (t : BitVec 3) (i : TrapInfo) : State :=
  modThr (freeThread (trapUnwound s c t i).1 c t .reporting) c t (fun x => { x with effects := (trapUnwound s c t i).2 })

def trapFiled (s : State) (c : Nat) (t : BitVec 3) (i : TrapInfo) : State × Bool :=
  if (trapUnwound s c t i).2.isEmpty then fileReport (trapFreed s c t i) c (trapReport s c t i)
  else (modCell (trapFreed s c t i) c (fun x => { x with reports := x.reports ++ [trapReport s c t i] }), false)

theorem trapEntry_eq_filed (s : State) (c : Nat) (t : BitVec 3) (i : TrapInfo) : trapEntry s c t i =
    if (trapFiled s c t i).2 then modThr (trapFiled s c t i).1 c t (fun x => { x with phase := .idle }) else (trapFiled s c t i).1 :=
  rfl

/-- The report is placed in its ring and the thread idle, or the report waits at the cell. -/
theorem trapEntry_cases (s : State) (c : Nat) (t : BitVec 3) (i : TrapInfo) :
    (∃ s', (trapUnwound s c t i).2 = [] ∧ placeReport (trapFreed s c t i) c (trapReport s c t i) = some s' ∧
      trapEntry s c t i = modThr s' c t (fun x => { x with phase := .idle })) ∨
    trapEntry s c t i = modCell (trapFreed s c t i) c (fun x => { x with reports := x.reports ++ [trapReport s c t i] }) := by
  rw [trapEntry_eq_filed, trapFiled, fileReport]
  by_cases left : (trapUnwound s c t i).2 = []
  · by_cases held : reportHeld (trapFreed s c t i) c (trapReport s c t i) ||
        (cellAt (trapFreed s c t i) c).reports.any (fun q => q.ctx == (trapReport s c t i).ctx)
    · exact .inr (by simp [left, held])
    · cases placeReport (trapFreed s c t i) c (trapReport s c t i) with
      | none => exact .inr (by simp [left, held])
      | some s' => exact .inl ⟨s', left, rfl, by simp [left, held]⟩
  · exact .inr (by simp [left])

/-! ### What is kept through it -/

theorem Stopped.modThr {f : Thread → Thread} (h : Stopped s c t) (hf : ∀ x, (f x).orc = x.orc) : Stopped (modThr s c t f) c t := by
  obtain ⟨vx, mx, cp, orc⟩ := h
  refine ⟨?_, ?_, ?_, ?_⟩
  · simpa only [vxOps, cellAt_modThr_vxf, cellAt_modThr_vxq] using vx
  · simpa only [mxOps, cellAt_modThr_mxf, cellAt_modThr_mxq] using mx
  · simpa only [cpOps, cellAt_modThr_cpq] using cp
  · rw [thr_modThr_same, hf, orc]

theorem kept_trapUnwound (s : State) (c : Nat) (t : BitVec 3) (i : TrapInfo) :
    Kept takeSideReports Die.ctxRecs (trapFramed s c t i) (trapUnwound s c t i).1 ∧
      ∀ e ∈ (trapUnwound s c t i).2, isOwed (headersChecked s c t) e = true := by
  unfold trapUnwound
  split
  · exact kept_abortTake (trapFramed s c t i) c t _
  · dsimp only
    exact ⟨kept_cutTake (trapFramed s c t i) c t true, fun e he => absurd he List.not_mem_nil⟩

theorem stopped_trapFramed (s : State) (c : Nat) (t : BitVec 3) (i : TrapInfo) : Stopped (trapFramed s c t i) c t := by
  unfold trapFramed
  exact (stopped_dropWork s c t).modThr (fun _ => rfl)

theorem stopped_trapUnwound (s : State) (c : Nat) (t : BitVec 3) (i : TrapInfo) : Stopped (trapUnwound s c t i).1 c t :=
  (stopped_trapFramed s c t i).of_kept (kept_trapUnwound s c t i).1.dropReports

theorem released_trapFreed (s : State) (c : Nat) (t : BitVec 3) (i : TrapInfo) : Released (trapFreed s c t i) c t := by
  unfold trapFreed
  exact (released_freeThread (stopped_trapUnwound s c t i) _).modThr (fun _ => ⟨rfl, rfl, rfl, rfl, rfl⟩)

theorem thr_trapFreed (s : State) (c : Nat) (t : BitVec 3) (i : TrapInfo) :
    (thr (trapFreed s c t i) c t).phase = .reporting ∧ (thr (trapFreed s c t i) c t).effects = (trapUnwound s c t i).2 ∧
      (thr (trapFreed s c t i) c t).frame = frameOf (trapWords s c t i) := by
  have framed : thr (trapUnwound s c t i).1 c t = thr (trapFramed s c t i) c t := (kept_trapUnwound s c t i).1.dropReports.thr_eq c t
  rw [trapFreed, thr_modThr_same, thr_freeThread, framed, trapFramed, thr_modThr_same]
  exact ⟨rfl, rfl, rfl⟩

theorem kept_placeReport {r : Report} (h : placeReport s c r = some s') : Kept takeSide (fun _ => ()) s s' := by
  unfold placeReport at h
  dsimp only at h
  split at h
  · cases h
    exact (kept_applyWrite noFired_takeSide _ _).trans kept_modDie
  · cases h

/-- A report that waits at its cell changes nothing of the takes. -/
theorem kept_waiting {r : Report} (eq : s' = modCell s c (fun x => { x with reports := x.reports ++ [r] })) :
    Kept takeSide (fun _ => ()) s s' := by
  rw [eq]
  exact kept_modCell

theorem isOwed_forms {checked : Bool} {e : Effect} (h : isOwed checked e = true) :
    (∃ tgt n what ks v insn, e = .rmw tgt n what ks true v insn) ∨ (∃ ps n ks sy insn, e = .store ps n none (some ks) sy insn) ∨
      (∃ src d n cls w ks insn, e = .rbr src d n cls w (some ks) insn) ∨ (∃ hdr i, e = .rrel hdr i) ∨ ∃ hdr v, e = .rinit hdr v := by
  unfold isOwed at h
  split at h
  · exact .inl ⟨_, _, _, _, _, _, rfl⟩
  · exact .inr (.inl ⟨_, _, _, _, _, rfl⟩)
  · exact .inr (.inr (.inl ⟨_, _, _, _, _, _, _, rfl⟩))
  · exact .inr (.inr (.inr (.inl ⟨_, _, rfl⟩)))
  · exact .inr (.inr (.inr (.inr ⟨_, _, rfl⟩)))
  · cases h

theorem takeEnded_trapEntry (s : State) (c : Nat) (t : BitVec 3) (i : TrapInfo) : TakeEnded (trapEntry s c t i) c t := by
  have freed := released_trapFreed s c t i
  obtain ⟨phase, effects, -⟩ := thr_trapFreed s c t i
  rcases trapEntry_cases s c t i with ⟨s', left, placed, eq⟩ | eq
  · have kept := kept_placeReport placed
    rw [eq]
    refine ⟨.inl ⟨by rw [thr_modThr_same], ?_⟩, (freed.of_kept kept).modThr (fun _ => ⟨rfl, rfl, rfl, rfl, rfl⟩)⟩
    rw [thr_modThr_same, kept.thr_eq]
    exact effects.trans left
  · have kept := kept_waiting eq
    refine ⟨.inr ⟨?_, fun e he => isOwed_forms ((kept_trapUnwound s c t i).2 e ?_)⟩, freed.of_kept kept⟩
    · rw [kept.thr_eq, phase]
    · rwa [kept.thr_eq, effects] at he

theorem frame_trapEntry (s : State) (c : Nat) (t : BitVec 3) (i : TrapInfo) :
    (thr (trapEntry s c t i) c t).frame = frameOf (trapWords s c t i) := by
  rw [← (thr_trapFreed s c t i).2.2]
  rcases trapEntry_cases s c t i with ⟨s', -, placed, eq⟩ | eq
  · rw [eq, thr_modThr_same, (kept_placeReport placed).thr_eq]
  · have kept := kept_waiting eq
    rw [kept.thr_eq]

/-! ### What the frame and the report say -/

theorem rget_frameOf (ws : List Word) (n : BitVec 6) : rget (frameOf ws) n = ws.getD n.toNat 0 := by
  simp only [rget, frameOf, Vector.getElem_ofFn]

/-- A `brk` has no cause to clear where its frame says ILLEGAL, code 0 (Table 4.17). -/
theorem clearCause_of_dvd {n : Nat} (h : 16 ∣ n) : BitVec.ofNat 64 n &&& ~~~15#64 = BitVec.ofNat 64 n := by
  obtain ⟨k, rfl⟩ := h
  refine BitVec.eq_of_getLsbD_eq (fun j hj => ?_)
  have low : j < 4 → (16 * k).testBit j = false := fun h4 => by
    rw [show 16 * k = 2 ^ 4 * k from rfl, Nat.testBit_two_pow_mul, decide_eq_false (by omega), Bool.false_and]
  have mask : (15#64).getLsbD j = decide (j < 4) := by
    rw [BitVec.getLsbD_ofNat, show 15 = 2 ^ 4 - 1 from rfl, Nat.testBit_two_pow_sub_one, decide_eq_true hj, Bool.true_and]
  rw [BitVec.getLsbD_and, BitVec.getLsbD_not, mask, BitVec.getLsbD_ofNat]
  by_cases h4 : j < 4
  · rw [low h4]
    simp
  · simp [h4, hj]

/-- The frame of an ILLEGAL trap or of a `brk`: code 0 in either. -/
theorem frame_illegal (s : State) (c : Nat) (t : BitVec 3) (pc : Word) (seq : BitVec 16) (reason : Nat) (op : Option Nat) (kind code : Nat) :
    let x := thr s c t
    let f := (thr (trapEntry s c t ⟨.illegal, pc, seq, reason, op, kind, code⟩) c t).frame
    rget f 0#6 = BitVec.ofNat 64 (2 ^ 63 + x.ctx.toNat * 2 ^ 16 + (if isIrrevocable x then 2 ^ 11 else 0) + t.toNat * 2 ^ 8) ∧
      rget f 1#6 = pc := by
  dsimp only
  rw [frame_trapEntry, rget_frameOf, rget_frameOf, trapWords]
  have clear := clearCause_of_dvd (n := 2 ^ 63 + (thr s c t).ctx.toNat * 2 ^ 16 + (if isIrrevocable (thr s c t) then 2 ^ 11 else 0) + t.toNat * 2 ^ 8)
    (by split <;> omega)
  split
  · exact ⟨clear, rfl⟩
  · exact ⟨rfl, rfl⟩

theorem readKeys_take (m : List Host.Cell) (k n j : Nat) (h : j ≤ n) : readKeys m (keysFrom k j) = (readKeys m (keysFrom k n)).take j := by
  simp only [readKeys, keysFrom, ← List.map_take, List.take_range, Nat.min_eq_left h]

/-- The first of 64 words written is read back. -/
theorem word64At_first {m : List Host.Cell} {k : Nat} {w : Word} {ws : List Word} (hm : s.mem = writeKeys m (keysFrom k 512)
    ((w :: ws).flatMap (fun w => leBytes 8 w.toNat))) (len : ws.length = 63) : word64At s k = w := by
  have bytes : ((w :: ws).flatMap (fun w => leBytes 8 w.toNat)).length = 512 := by simp [List.length_flatMap, len]
  rw [word64At, readKeys_take _ _ 512 _ (by decide), hm, readKeys_writeKeys _ _ _ (keysFrom_nodup k 512) (by rw [bytes, keysFrom_length]),
    List.flatMap_cons, List.take_left' (leBytes_length 8 _), leNat_leBytes, Nat.mod_eq_of_lt w.isLt, BitVec.ofNat_toNat, BitVec.setWidth_eq]

theorem mem_placeReport {r : Report} (h : placeReport s c r = some s') :
    s'.mem = writeKeys s.mem (keysFrom (mgmtKey (dieOf c) ((ctxRec s (dieOf c) r.ctx).base.toNat * 512 +
      (ctxRec s (dieOf c) r.ctx).widx.toNat % 2 ^ (ctxRec s (dieOf c) r.ctx).k.toNat * 512)) 512) (r.words.flatMap (fun w => leBytes 8 w.toNat)) := by
  unfold placeReport at h
  dsimp only at h
  split at h
  · cases h
    rw [modCtxRec, modDie_mem, applyWrite_mem]
  · cases h

theorem ctxRec_trapFreed (s : State) (c : Nat) (t : BitVec 3) (i : TrapInfo) (d ctx : Nat) : ctxRec (trapFreed s c t i) d ctx = ctxRec s d ctx := by
  obtain ⟨s', reqs, freed, eq, -, dies, -⟩ := dropWork_eq s c t
  have before : dieAt (trapFramed s c t i) d = dieAt s d := by rw [dieAt, trapFramed, modThr_dies, eq, modThr_dies, dies, dieAt]
  have after : dieAt (trapFreed s c t i) d = dieAt (trapUnwound s c t i).1 d := by
    unfold trapFreed
    rfl
  rw [ctxRec, ctxRec, after, (kept_trapUnwound s c t i).1.die d, before]

theorem reports_trapFreed (s : State) (c : Nat) (t : BitVec 3) (i : TrapInfo) : (cellAt (trapFreed s c t i) c).reports = (cellAt s c).reports := by
  obtain ⟨freed, dropped⟩ := cellAt_dropWork s c t
  obtain ⟨waits, cell⟩ := cellAt_freeThread (trapUnwound s c t i).1 c t .reporting
  rw [trapFreed, cellAt_modThr_reports, cell]
  dsimp only
  rw [(kept_trapUnwound s c t i).1.reports, trapFramed, cellAt_modThr_reports, dropped]
  rfl

/-- The report is in its context's ring, or waits at the cell behind those that waited. -/
theorem report_trapEntry (s : State) (c : Nat) (t : BitVec 3) (i : TrapInfo) {w : Word} {ws : List Word}
    (words : (trapReport s c t i).words = w :: ws) (len : ws.length = 63) :
    let q := ctxRec s (dieOf c) (thr s c t).ctx.toNat
    ((thr (trapEntry s c t i) c t).phase = .idle ∧
        word64At (trapEntry s c t i) (mgmtKey (dieOf c) (q.base.toNat * 512 + q.widx.toNat % 2 ^ q.k.toNat * 512)) = w) ∨
      ((thr (trapEntry s c t i) c t).phase = .reporting ∧
        (cellAt (trapEntry s c t i) c).reports = (cellAt s c).reports ++ [trapReport s c t i]) := by
  rcases trapEntry_cases s c t i with ⟨s', left, placed, eq⟩ | eq
  · have mem := mem_placeReport placed
    rw [words, ctxRec_trapFreed] at mem
    rw [eq]
    exact .inl ⟨by rw [thr_modThr_same], word64At_first mem len⟩
  · have kept := kept_waiting eq
    refine .inr ⟨by rw [kept.thr_eq, (thr_trapFreed s c t i).1], ?_⟩
    rw [eq, cellAt_modCell_same]
    exact congrArg (· ++ _) (reports_trapFreed s c t i)

end trap

end Sys2Proof.Proofs
end

section

namespace Sys2Proof.Proofs

open Sys2Proof Sys2Proof.Machine Sys2Proof.Claims

/-! ## The triggering message back at the head of its queue (R330) -/

section queues
variable {s s' s'' : State} {c eid home : Nat} {t : BitVec 3} {n : Note} {hold : Bool}

/-- What a cell holds of the queues that messages come from. -/
def queueSide (x : Cell) := (x.pos, x.recvs, x.stubs)

/-- The queues of every cell and die, and the packets on their way, are as before. -/
structure SameQueues (s s' : State) : Prop where
  kept : Kept queueSide Die.stages s s'
  flights : s'.flights = s.flights

theorem SameQueues.trans (h : SameQueues s s') (h' : SameQueues s' s'') : SameQueues s s'' :=
  ⟨h.kept.trans h'.kept, h'.flights.trans h.flights⟩

theorem sameQueues_modThr (s : State) (c : Nat) (t : BitVec 3) (f : Thread → Thread) : SameQueues s (modThr s c t f) := by
  refine ⟨?_, rfl⟩
  unfold modThr putThr
  exact kept_modCell

theorem sameQueues_modCell {f : Cell → Cell} (h : ∀ x, queueSide (f x) = queueSide x := by exact fun _ => rfl) : SameQueues s (modCell s c f) :=
  ⟨kept_modCell h, rfl⟩

theorem sameQueues_perf (s : State) (c ctx code n : Nat) : SameQueues s (perf s c ctx code n) := by
  refine ⟨kept_perf (fun _ _ => rfl) c ctx code n, ?_⟩
  unfold perf
  split <;> rfl

theorem sameQueues_dropWork (s : State) (c : Nat) (t : BitVec 3) : SameQueues s (dropWork s c t) := by
  obtain ⟨s', reqs, freed, eq, cell, dies, flights⟩ := dropWork_eq s c t
  rw [eq]
  refine SameQueues.trans (s' := { s' with reqs := reqs }) ⟨⟨fun c' => ?_, fun d => ?_⟩, flights⟩ (sameQueues_modThr ..)
  · show queueSide (cellAt s' c') = _
    rw [cell]
    split
    · rename_i same
      rw [same]
      rfl
    · rfl
  · rw [dieAt, dieAt, dies]

theorem sameQueues_freeThread (s : State) (c : Nat) (t : BitVec 3) (ph : Phase) : SameQueues s (freeThread s c t ph) := by
  unfold freeThread releaseFiles
  exact ((sameQueues_modThr ..).trans sameQueues_modCell).trans sameQueues_modCell

theorem sameQueues_placeReport {r : Report} (h : placeReport s c r = some s') : SameQueues s s' := by
  unfold placeReport at h
  dsimp only at h
  split at h
  · cases h
    refine ⟨(kept_applyWrite (fun _ _ _ => rfl) _ _).trans kept_modDie, ?_⟩
    rw [modCtxRec, modDie_flights, applyWrite_flights]
  · cases h

theorem SameQueues.posOf (h : SameQueues s s') (c ctx : Nat) : posOf s' c ctx = posOf s c ctx := by
  have pos : (cellAt s' c).pos = (cellAt s c).pos := congrArg Prod.fst (h.kept.cell c)
  simp only [Machine.posOf, posIdx, pos]

theorem SameQueues.resident (h : SameQueues s s') (c ctx : Nat) : resident s' c ctx = resident s c ctx := by
  have pos : (cellAt s' c).pos = (cellAt s c).pos := congrArg Prod.fst (h.kept.cell c)
  simp only [Machine.resident, posIdx, pos]

theorem SameQueues.stageAt (h : SameQueues s s') (d i : Nat) : stageAt s' d i = stageAt s d i := by
  rw [Machine.stageAt, h.kept.die d, Machine.stageAt]

theorem SameQueues.findRecv (h : SameQueues s s') (c eid : Nat) : findRecv (cellAt s' c) eid = findRecv (cellAt s c) eid := by
  have recvs : (cellAt s' c).recvs = (cellAt s c).recvs := congrArg (·.2.1) (h.kept.cell c)
  simp only [Machine.findRecv, recvs]

theorem SameQueues.findStub (h : SameQueues s s') (c chan : Nat) : findStub (cellAt s' c) chan = findStub (cellAt s c) chan := by
  have stubs : (cellAt s' c).stubs = (cellAt s c).stubs := congrArg (·.2.2) (h.kept.cell c)
  simp only [Machine.findStub, stubs]

theorem atStub_congr (recv : findRecv (cellAt s' c) eid = findRecv (cellAt s c) eid) (stub : findStub (cellAt s' c) eid = findStub (cellAt s c) eid) :
    atStub s' c eid n = atStub s c eid n := by
  simp only [atStub, recv, stub]

/-- The return of a message is told by the queues and by what the thread says of its take. -/
theorem returnedTo_congr {a b : State} (before : SameQueues s a) (after : SameQueues b s')
    (take : ∃ orc frame, thr a c t = { thr s c t with orc := orc, frame := frame }) (h : ReturnedTo a b c t hold) : ReturnedTo s s' c t hold := by
  obtain ⟨orc, frame, take⟩ := take
  unfold ReturnedTo at h ⊢
  simp only [take, before.posOf, before.resident, before.stageAt, before.findRecv, before.findStub,
    atStub_congr (before.findRecv _ _) (before.findStub _ _)] at h
  simpa only [after.posOf, after.stageAt, after.findRecv, after.flights] using h

/-! ### A note that returns -/

/-- The record of a receive end once note `n` has come back to it. -/
def withNote (cyc : Nat) (n : Note) (hold : Bool) (r : RecvEnd) : RecvEnd :=
  queuedNow cyc n.ai { r with running := r.running - 1, returned := noteInsert n r.returned, held := r.held || hold, since := none }

theorem mem_noteInsert (n : Note) (l : List Note) : n ∈ noteInsert n l := by
  induction l with
  | nil => exact List.mem_singleton_self n
  | cons m l ih =>
    rw [noteInsert]
    split
    · exact List.mem_cons_self
    · exact List.mem_cons_of_mem _ ih

theorem find?_map_key {γ : Type} (key : γ → Nat) (k : Nat) (f : γ → γ) (hf : ∀ e, key (f e) = key e) (l : List γ) :
    (l.map (fun e => if key e == k then f e else e)).find? (fun e => key e == k) = (l.find? (fun e => key e == k)).map f := by
  induction l with
  | nil => rfl
  | cons e l ih =>
    rw [List.map_cons, List.find?_cons, List.find?_cons]
    cases same : key e == k with
    | true => simp only [if_true, hf, same, Option.map_some]
    | false => simpa only [Bool.false_eq_true, if_false, same] using ih

theorem findRecv_modRecv (s : State) (c eid : Nat) {f : RecvEnd → RecvEnd} (hf : ∀ e, (f e).eid = e.eid := by exact fun _ => rfl) :
    findRecv (cellAt (modRecv s c eid f) c) eid = (findRecv (cellAt s c) eid).map f := by
  rw [modRecv, cellAt_modCell_same]
  exact find?_map_key RecvEnd.eid eid f hf _

theorem findStub_modRecv (s : State) (c eid : Nat) (f : RecvEnd → RecvEnd) :
    findStub (cellAt (modRecv s c eid f) c) eid = findStub (cellAt s c) eid := by
  rw [modRecv, cellAt_modCell_same]
  rfl

theorem findRecv_delRecv (s : State) (c eid : Nat) : findRecv (cellAt (delRecv s c eid) c) eid = none := by
  rw [delRecv, cellAt_modCell_same]
  simp [findRecv]

theorem findStub_delRecv (s : State) (c eid : Nat) : findStub (cellAt (delRecv s c eid) c) eid = findStub (cellAt s c) eid := by
  rw [delRecv, cellAt_modCell_same]
  rfl

theorem atStub_of_free (free : findStub (cellAt s c) eid = none) : atStub s c eid n = false := by
  rw [atStub, free]

theorem returnNote_open {r : RecvEnd} (found : findRecv (cellAt s c) eid = some r) (opened : r.closing = false) (here : atStub s c eid n = false) :
    returnNote s c eid home n hold = modRecv s c eid (withNote s.cyc.toNat n hold) := by
  have back : returnNote.backTo s c eid home n hold r = modRecv s c eid (withNote s.cyc.toNat n hold) := by
    simp only [returnNote.backTo, opened]
    rfl
  unfold returnNote
  rw [found]
  split
  · rw [here, if_neg Bool.false_ne_true]
    exact back
  · rename_i r' _ same
    rw [← Option.some.inj same]
    exact back
  · contradiction

theorem flights_freeStubs (chan fuel : Nat) : ∀ c s, (freeStubs chan fuel c s).flights = s.flights := by
  induction fuel with
  | zero => exact fun _ _ => rfl
  | succ fuel ih =>
    intro c s
    unfold freeStubs
    split
    · split
      · rw [ih, modCell_flights]
      · rfl
    · rfl

theorem returnNote_atStub {u : Stub} (found : findStub (cellAt s c) eid = some u) (gone : atStub s c eid n = true) :
    ∃ f ∈ (returnNote s c eid home n hold).flights, f.dst = u.successor ∧ f.pkt = .ret eid u.ctx n hold := by
  refine ⟨⟨s.nextFlight, u.successor, .ret eid u.ctx n hold, s.cyc.toNat⟩, ?_, rfl, rfl⟩
  unfold returnNote
  rw [found]
  dsimp only
  rw [gone, if_pos rfl, tryFreeStub, flights_freeStubs, modStub, modCell_flights, sendPkt]
  exact List.mem_append_right _ (List.mem_singleton_self _)

/-- A packet that frees the slot of the note is on its way to the home. -/
def Freed (s : State) (eid home : Nat) (n : Note) : Prop := ∃ f ∈ s.flights, f.dst = home ∧ f.pkt = .free eid 0 home n.slot n.sid

theorem freed_sendPkt (s : State) (eid home : Nat) (n : Note) : Freed (sendPkt s home (.free eid 0 home n.slot n.sid)) eid home n :=
  ⟨_, List.mem_append_right _ (List.mem_singleton_self _), rfl, rfl⟩

/-- The cell keeps no stub of the channel, and its end of it, if any, is closed. -/
def ClosedEnd (c eid : Nat) (s : State) : Prop :=
  findStub (cellAt s c) eid = none ∧ ∀ e, findRecv (cellAt s c) eid = some e → e.closing = true

/-- The cell keeps no stub of the channel, and its end of it is open and held as told. -/
def OpenEnd (c eid : Nat) (held : Bool) (s : State) : Prop :=
  findStub (cellAt s c) eid = none ∧ ∃ e, findRecv (cellAt s c) eid = some e ∧ e.closing = false ∧ e.held = held

theorem OpenEnd.returnNote {held : Bool} (h : OpenEnd c eid held s) (home : Nat) (n : Note) :
    OpenEnd c eid held (returnNote s c eid home n false) := by
  obtain ⟨free, e, found, opened, same⟩ := h
  rw [returnNote_open found opened (atStub_of_free free)]
  refine ⟨(findStub_modRecv ..).trans free, withNote s.cyc.toNat n false e, by rw [findRecv_modRecv, found, Option.map_some], opened, ?_⟩
  exact (Bool.or_false e.held).trans same

theorem ClosedEnd.consumeNote (h : ClosedEnd c eid s) (home : Nat) (n : Note) :
    ClosedEnd c eid (consumeNote s c eid home n) ∧ Freed (consumeNote s c eid home n) eid home n := by
  obtain ⟨free, closed⟩ := h
  unfold Machine.consumeNote
  rw [atStub_of_free free, if_neg Bool.false_ne_true]
  refine ⟨?_, freed_sendPkt ..⟩
  show ClosedEnd c eid (match findRecv (cellAt s c) eid with
    | some r => if r.closing && r.running ≤ 1 then delRecv s c eid else modRecv s c eid (fun r => { r with running := r.running - 1 })
    | none => s)
  split
  · split
    · exact ⟨(findStub_delRecv ..).trans free, fun e found => by rw [findRecv_delRecv] at found; cases found⟩
    · refine ⟨(findStub_modRecv ..).trans free, fun e found => ?_⟩
      rw [findRecv_modRecv] at found
      obtain ⟨r, was, rfl⟩ := Option.map_eq_some_iff.mp found
      exact closed r was
  · exact ⟨free, closed⟩

theorem ClosedEnd.returnNote (h : ClosedEnd c eid s) (home : Nat) (n : Note) (hold : Bool) :
    ClosedEnd c eid (returnNote s c eid home n hold) ∧ Freed (returnNote s c eid home n hold) eid home n := by
  obtain ⟨free, closed⟩ := h
  unfold Machine.returnNote
  rw [free]
  cases found : findRecv (cellAt s c) eid with
  | none => exact ⟨⟨free, closed⟩, freed_sendPkt ..⟩
  | some r =>
    simp only [returnNote.backTo, closed r found, if_true]
    exact ClosedEnd.consumeNote ⟨free, closed⟩ home n

/-! ### The message returns to its queue -/

theorem posIdx_modPos {f : Position → Position} (hf : ∀ p, (f p).ctx = p.ctx) (s : State) (c ctx x : Nat) :
    posIdx (cellAt (modPos s c ctx f) c) x = posIdx (cellAt s c) x := by
  rw [modPos, cellAt_modCell_same]
  split
  · rename_i p _
    refine congrArg (fun pred => fin4.find? pred) (funext (fun q => ?_))
    rw [rget_rset]
    split
    · rename_i same
      rw [hf, same]
    · rfl
  · rfl

theorem posOf_modPos {f : Position → Position} {ctx : Nat} (here : resident s c ctx = true) (hf : ∀ p, (f p).ctx = p.ctx := by exact fun _ => rfl) :
    posOf (modPos s c ctx f) c ctx = f (posOf s c ctx) := by
  obtain ⟨p, idx⟩ := Option.isSome_iff_exists.mp here
  rw [posOf, posIdx_modPos hf, posOf, idx]
  dsimp only
  rw [modPos, cellAt_modCell_same, idx]
  exact rget_rset_same _ _ _

theorem stageAt_modStage (s : State) (d i : Nat) (f : Stage → Stage) : stageAt (modStage s d i f) d i = f (stageAt s d i) := by
  have die : dieAt (modStage s d i f) d = { dieAt s d with stages := rset (dieAt s d).stages (BitVec.ofNat 5 i) (f (stageAt s d i)) } :=
    rget_rset_same _ _ _
  rw [stageAt, die]
  exact rget_rset_same _ _ _

/-- What a cell holds of one channel: its receive end and its stub. -/
def endView (eid : Nat) (x : Cell) : Option RecvEnd × Option Stub := (findRecv x eid, findStub x eid)

theorem find?_filter_other {γ : Type} (key : γ → Nat) {k n : Nat} (h : k ≠ n) (l : List γ) :
    (l.filter (fun e => key e != n)).find? (fun e => key e == k) = l.find? (fun e => key e == k) := by
  rw [List.find?_filter]
  refine congrArg (fun p => l.find? p) (funext (fun e => ?_))
  by_cases same : key e = k <;> simp [same, h]

theorem noEnd_endView {chan : Nat} (h : eid ≠ chan) : NoEnd chan (endView eid) := by
  intro x recvs stubs hr hs
  have recv := (find?_filter_other RecvEnd.eid h recvs).symm.trans ((congrArg _ hr).trans (find?_filter_other RecvEnd.eid h x.recvs))
  have stub := (find?_filter_other Stub.chan h stubs).symm.trans ((congrArg _ hs).trans (find?_filter_other Stub.chan h x.stubs))
  exact congrArg₂ Prod.mk recv stub

theorem kept_cutUndone {t : BitVec 3} (h : ∀ u ∈ (thr s c t).undo, ∀ r e, u = .chnew r e → r ≠ eid) :
    Kept (endView eid) (fun _ => ()) s (cutUndone s c t) := by
  unfold cutUndone
  refine Kept.trans ?_ (kept_foldl (fun _ u hu => kept_undoOne (fun _ _ _ => rfl) c (fun r e eq => noEnd_endView (h u hu r e eq).symm)))
  exact kept_modCell

theorem kept_cutUnwound_other {t : BitVec 3} (undone : ∀ u ∈ (thr s c t).undo, ∀ r e, u = .chnew r e → r ≠ eid)
    (others : ∀ k ∈ (thr s c t).consumed, k.eid ≠ eid) : Kept (endView eid) (fun _ => ()) s (cutUnwound s c t) :=
  (kept_cutUndone undone).trans (kept_foldl (fun _ k hk => kept_returnNote (noEnd_endView (others k hk).symm) ..))

theorem OpenEnd.of_view {held : Bool} (h : OpenEnd c eid held s) (view : endView eid (cellAt s' c) = endView eid (cellAt s c)) :
    OpenEnd c eid held s' := by
  obtain ⟨recv, stub⟩ := Prod.mk.inj view
  simpa only [OpenEnd, recv, stub] using h

theorem ClosedEnd.of_view (h : ClosedEnd c eid s) (view : endView eid (cellAt s' c) = endView eid (cellAt s c)) : ClosedEnd c eid s' := by
  obtain ⟨recv, stub⟩ := Prod.mk.inj view
  simpa only [ClosedEnd, recv, stub] using h

/-- What is said of one channel's end holds once a take's messages have returned, where it holds through the return of one of the channel. -/
theorem foldl_returnNote {P : State → Prop} (own : ∀ s home n, P s → P (returnNote s c eid home n false))
    (view : ∀ s s', P s → endView eid (cellAt s' c) = endView eid (cellAt s c) → P s') (l : List Consumed) :
    ∀ s, P s → P (l.foldl (fun s n => returnNote s c n.eid n.home n.note false) s) := by
  induction l with
  | nil => exact fun _ h => h
  | cons k l ih =>
    intro s h
    refine ih _ ?_
    dsimp only
    by_cases same : k.eid = eid
    · rw [same]
      exact own _ _ _ h
    · exact view _ _ h ((kept_returnNote (dpart := fun _ => ()) (noEnd_endView (Ne.symm same)) ..).cell c)

theorem returnOrigin_channel (h : (thr s c t).origin = .channel eid n home) : returnOrigin s c t hold = returnNote s c eid home n hold := by
  rw [returnOrigin, h]

/-- A message of a channel stands at the head of its queue, goes on to where its end is, or frees its slot. -/
theorem returned_channel (undone : ∀ u ∈ (thr s c t).undo, ∀ r e, u = .chnew r e → r ≠ eid) :
    let s' := returnNote (cutUnwound s c t) c eid home n hold
    (∀ e, findRecv (cellAt s c) eid = some e → e.closing = false →
      findStub (cellAt s c) eid = none ∨ (atStub s c eid n = false ∧ ∀ k ∈ (thr s c t).consumed, k.eid ≠ eid) →
      ∃ e', findRecv (cellAt s' c) eid = some e' ∧ n ∈ e'.returned ∧ e'.held = (e.held || hold)) ∧
    (∀ u, findStub (cellAt s c) eid = some u → atStub s c eid n = true → (∀ k ∈ (thr s c t).consumed, k.eid ≠ eid) →
      ∃ f ∈ s'.flights, f.dst = u.successor ∧ f.pkt = .ret eid u.ctx n hold) ∧
    (findStub (cellAt s c) eid = none → (∀ e, findRecv (cellAt s c) eid = some e → e.closing = true) →
      ∃ f ∈ s'.flights, f.dst = home ∧ f.pkt = .free eid 0 home n.slot n.sid) := by
  intro s'
  have same (others : ∀ k ∈ (thr s c t).consumed, k.eid ≠ eid) := Prod.mk.inj ((kept_cutUnwound_other undone others).cell c)
  have back {e : RecvEnd} (found : findRecv (cellAt (cutUnwound s c t) c) eid = some e) (opened : e.closing = false)
      (here : atStub (cutUnwound s c t) c eid n = false) :
      findRecv (cellAt s' c) eid = some (withNote (cutUnwound s c t).cyc.toNat n hold e) := by
    rw [show s' = _ from returnNote_open found opened here, findRecv_modRecv, found, Option.map_some]
  have listed (e : RecvEnd) : n ∈ (withNote (cutUnwound s c t).cyc.toNat n hold e).returned := mem_noteInsert n e.returned
  refine ⟨fun e found opened place => ?_, fun u found gone others => ?_, fun free closed => ?_⟩
  · rcases place with free | ⟨here, others⟩
    · have before : OpenEnd c eid e.held (cutUndone s c t) := OpenEnd.of_view ⟨free, e, found, opened, rfl⟩ ((kept_cutUndone undone).cell c)
      obtain ⟨free', e', found', opened', held⟩ : OpenEnd c eid e.held (cutUnwound s c t) :=
        foldl_returnNote (fun _ home n h => h.returnNote home n) (fun _ _ h view => h.of_view view) _ _ before
      exact ⟨_, back found' opened' (atStub_of_free free'), listed e', congrArg (· || hold) held⟩
    · obtain ⟨recv, stub⟩ := same others
      exact ⟨_, back (recv.trans found) opened ((atStub_congr recv stub).trans here), listed e, rfl⟩
  · obtain ⟨recv, stub⟩ := same others
    exact returnNote_atStub (stub.trans found) ((atStub_congr recv stub).trans gone)
  · have before : ClosedEnd c eid (cutUndone s c t) := ClosedEnd.of_view ⟨free, closed⟩ ((kept_cutUndone undone).cell c)
    have unwound : ClosedEnd c eid (cutUnwound s c t) :=
      foldl_returnNote (fun _ home n h => (h.returnNote home n false).1) (fun _ _ h view => h.of_view view) _ _ before
    exact (unwound.returnNote home n hold).2

/-- A cut returns the triggering message to the queue it came from. -/
theorem returnedTo_cutTake (s : State) (c : Nat) (t : BitVec 3) (hold : Bool) : ReturnedTo s (cutTake s c t hold) c t hold := by
  have take : thr (cutUnwound s c t) c t = thr s c t :=
    (kept_cutUnwound (dpart := fun _ => ()) noEnds_takeSideReports (fun _ _ => rfl) s c t).dropReports.thr_eq c t
  have kept : Kept Cell.pos Die.stages s (cutUnwound s c t) := kept_cutUnwound (fun _ _ _ _ _ => rfl) (fun _ _ => rfl) s c t
  have idx (x : Nat) : posIdx (cellAt (cutUnwound s c t) c) x = posIdx (cellAt s c) x := by rw [posIdx, kept.cell c, posIdx]
  have pos (x : Nat) : posOf (cutUnwound s c t) c x = posOf s c x := by rw [posOf, idx, kept.cell c, posOf]
  have here {x : Nat} (h : resident s c x = true) : resident (cutUnwound s c t) c x = true := by rwa [resident, idx]
  have stage (d i : Nat) : stageAt (cutUnwound s c t) d i = stageAt s d i := by rw [stageAt, kept.die d, stageAt]
  rw [cutTake_eq]
  suffices returned : ReturnedTo s (returnOrigin (cutUnwound s c t) c t hold) c t hold from
    returnedTo_congr ⟨Kept.refl s, rfl⟩ (sameQueues_perf ..) ⟨_, _, rfl⟩ returned
  unfold ReturnedTo
  dsimp only
  cases from_ : (thr s c t).origin with
  | channel eid n home =>
    intro undone
    rw [returnOrigin_channel (by rw [take, from_])]
    exact returned_channel undone
  | completion =>
    intro res
    rw [returnOrigin, take, from_]
    dsimp only
    rw [posOf_modPos (here res), pos]
    exact ⟨rfl, rfl⟩
  | stage i ix lid =>
    intro _ valid mine
    rw [returnOrigin, take, from_]
    dsimp only
    rw [stageAt_modStage, stage, valid, mine, if_pos (by simp)]
    refine ⟨?_, rfl⟩
    split
    · rename_i listed
      exact List.contains_iff_mem.mp listed
    · exact List.mem_cons_self
  | landing ring size =>
    intro res
    rw [returnOrigin, take, from_]
    dsimp only
    rw [posOf_modPos (here res), pos]

/-! ### The two cuts: at a trap, and by `retake` -/

theorem returnedTo_trapEntry (i : TrapInfo) (revocable : isIrrevocable (thr s c t) = false) : ReturnedTo s (trapEntry s c t i) c t true := by
  have framed : SameQueues s (trapFramed s c t i) := by
    unfold trapFramed
    exact (sameQueues_dropWork s c t).trans (sameQueues_modThr ..)
  have freed : SameQueues (trapUnwound s c t i).1 (trapFreed s c t i) := by
    unfold trapFreed
    exact (sameQueues_freeThread ..).trans (sameQueues_modThr ..)
  have filed : SameQueues (trapFreed s c t i) (trapEntry s c t i) := by
    rcases trapEntry_cases s c t i with ⟨s', -, placed, eq⟩ | eq
    · rw [eq]
      exact (sameQueues_placeReport placed).trans (sameQueues_modThr ..)
    · rw [eq]
      exact sameQueues_modCell
  have take : thr (trapFramed s c t i) c t = { thr s c t with orc := 0, frame := frameOf (trapWords s c t i) } := by
    rw [trapFramed, thr_modThr_same, thr_dropWork]
  have unwound : (trapUnwound s c t i).1 = cutTake (trapFramed s c t i) c t true := by
    rw [trapUnwound, revocable, if_neg Bool.false_ne_true]
  refine returnedTo_congr framed (freed.trans filed) ⟨_, _, take⟩ ?_
  rw [unwound]
  exact returnedTo_cutTake ..

theorem retakeCut_ends (s : State) (c : Nat) (t : BitVec 3) :
    TakeEnded (retakeCut s c t) c t ∧ (thr (retakeCut s c t) c t).phase = .idle ∧ ReturnedTo s (retakeCut s c t) c t false ∧
      (cellAt (retakeCut s c t) c).reports = (cellAt s c).reports ∧ (thr (retakeCut s c t) c t).frame = (thr s c t).frame := by
  have kept := kept_cutTake (dropWork s c t) c t false
  have take : thr (cutTake (dropWork s c t) c t false) c t = { thr s c t with orc := 0 } := (kept.dropReports.thr_eq c t).trans (thr_dropWork s c t)
  have freed := thr_freeThread (cutTake (dropWork s c t) c t false) c t .idle
  have stopped : Stopped (cutTake (dropWork s c t) c t false) c t := (stopped_dropWork s c t).of_kept kept.dropReports
  obtain ⟨dropped, before⟩ := cellAt_dropWork s c t
  obtain ⟨waits, after⟩ := cellAt_freeThread (cutTake (dropWork s c t) c t false) c t .idle
  unfold retakeCut
  refine ⟨⟨.inl ⟨by rw [freed], by rw [freed]⟩, released_freeThread stopped _⟩, by rw [freed], ?_, ?_, by rw [freed, take]⟩
  · exact returnedTo_congr (sameQueues_dropWork s c t) (sameQueues_freeThread ..) ⟨0, (thr s c t).frame, thr_dropWork s c t⟩ (returnedTo_cutTake ..)
  · rw [after]
    dsimp only
    rw [kept.reports, before]
    rfl

end queues

end Sys2Proof.Proofs
end

section

namespace Sys2Proof.Proofs

open Sys2Proof Sys2Proof.Machine Sys2Proof.Claims

/-! ## The words that end takes (R338, R339, R75) -/

section words
variable {s r : State} {grd : Guard} {src : Src} {v : Word}

/-- A word reads its source and changes at most the count of values read from untriggered units. -/
theorem state_of_performs (hp : Performs s grd src v r) : ∃ n, r = { s with fresh := n } := by
  rcases readSrc_state hp.source with rfl | rfl
  · exact ⟨_, rfl⟩
  · exact ⟨_, rfl⟩

theorem thr_performs (hp : Performs s grd src v r) : thr r s.cur.1 s.cur.2 = me s := readSrc_thr hp.source _ _

theorem retake_revocable (hp : Performs s grd src v r) (free : unitBusy (me s) 10#4 = false) (phase : (me s).phase = .revocable) :
    exec (.retake grd src) s = .next (retakeCut r s.cur.1 s.cur.2) := by
  rw [exec_retake, execRetake, trigger1_performs hp free, thr_performs hp, phase]
  rfl

theorem retake_irrevocable (hp : Performs s grd src v r) (free : unitBusy (me s) 10#4 = false) (phase : (me s).phase = .irrevocable) :
    exec (.retake grd src) s = .next (faultWord r s.cur.1 s.cur.2 .illegal) := by
  rw [exec_retake, execRetake, trigger1_performs hp free, thr_performs hp, phase]
  rfl

theorem upper_eq_zero_iff (v : Word) : v.extractLsb' 16 48 = 0 ↔ v.toNat < 2 ^ 16 := by
  rw [← BitVec.toNat_inj, BitVec.extractLsb'_toNat, Nat.shiftRight_eq_div_pow]
  have bound := v.isLt
  have small : v.toNat / 2 ^ 16 < 2 ^ 48 := by omega
  rw [Nat.mod_eq_of_lt small]
  exact Nat.div_eq_zero_iff_lt (by decide)

theorem brk_code (hp : Performs s grd src v r) (free : unitBusy (me s) 10#4 = false) (small : v.toNat < 2 ^ 16) :
    exec (.brk grd src) s = .next (trapEntry r s.cur.1 s.cur.2 ⟨.illegal, (me s).pc, 0, 0xFF, none, 2, v.toNat⟩) := by
  have code : (v.extractLsb' 0 16).toNat = v.toNat := by
    rw [BitVec.extractLsb'_toNat, Nat.shiftRight_zero, Nat.mod_eq_of_lt small]
  rw [exec_brk, execBrk, trigger1_performs hp free, (upper_eq_zero_iff v).mpr small, code, thr_performs hp]
  rfl

theorem brk_wide (hp : Performs s grd src v r) (free : unitBusy (me s) 10#4 = false) (wide : 2 ^ 16 ≤ v.toNat) :
    exec (.brk grd src) s = .next (faultWord r s.cur.1 s.cur.2 .illegal) := by
  have upper : v.extractLsb' 16 48 ≠ 0 := fun h => absurd ((upper_eq_zero_iff v).mp h) (Nat.not_lt.mpr wide)
  rw [exec_brk, execBrk, trigger1_performs hp free, if_pos (bne_iff_ne.mpr upper)]
  rfl

theorem mkReport_words (ctx : Nat) (w0 release slate cyc a b : Word) (frame : List Word) (th : Option Nat) :
    ∃ ws, (mkReport ctx w0 release slate cyc a b frame th).words = w0 :: ws ∧ ws.length = 63 :=
  ⟨_, rfl, by simp⟩

/-- A `brk` report is of kind 2 and carries the code of the word (Table 15.3). -/
theorem brk_report (s : State) (c : Nat) (t : BitVec 3) (pc : Word) (code : Nat) :
    let ctx := (thr s c t).ctx.toNat
    let q := ctxRec s (dieOf c) ctx
    let w0 : Word := BitVec.ofNat 64 (2 * 2 ^ 60 + ctx * 2 ^ 48 + 0xFF * 2 ^ 40 + code * 2 ^ 24 + c * 2 ^ 13 + t.toNat * 2 ^ 10)
    let s' := trapEntry s c t ⟨.illegal, pc, 0, 0xFF, none, 2, code⟩
    (thr s' c t).phase = .idle ∧ word64At s' (mgmtKey (dieOf c) (q.base.toNat * 512 + q.widx.toNat % 2 ^ q.k.toNat * 512)) = w0 ∨
      (thr s' c t).phase = .reporting ∧ ∃ rep, (cellAt s' c).reports = (cellAt s c).reports ++ [rep] ∧ rep.ctx = ctx ∧ rep.words[0]? = some w0 := by
  intro ctx q w0 s'
  obtain ⟨ws, words, len⟩ : ∃ ws, (trapReport s c t ⟨.illegal, pc, 0, 0xFF, none, 2, code⟩).words = w0 :: ws ∧ ws.length = 63 := by
    simp only [trapReport, if_true, reportWord0, Nat.add_zero]
    exact mkReport_words ..
  refine (report_trapEntry s c t _ words len).imp_right (fun ⟨phase, reports⟩ => ⟨phase, _, reports, rfl, ?_⟩)
  rw [words]
  rfl

/-- Settles O28: `retake` by what a cut does, `brk` and an undecodable word by what trap entry does. -/
theorem wordsThatEndTakes : Obligations.WordsThatEndTakes := by
  refine ⟨fun s grd src v r hp free => ?_, fun s hc => ?_⟩
  · obtain ⟨n, rfl⟩ := state_of_performs hp
    refine ⟨fun phase => ?_, retake_irrevocable hp free, fun small => ?_, brk_wide hp free⟩
    · obtain ⟨ended, idle, returned, reports, frame⟩ := retakeCut_ends { s with fresh := n } s.cur.1 s.cur.2
      exact ⟨_, retake_revocable hp free phase, ended, idle, returned, reports, frame⟩
    · refine ⟨_, brk_code hp free small, rfl, takeEnded_trapEntry .., fun revocable => returnedTo_trapEntry (s := { s with fresh := n }) _ revocable, ?_⟩
      obtain ⟨word0, word1⟩ := frame_illegal { s with fresh := n } s.cur.1 s.cur.2 (me s).pc 0 0xFF none 2 v.toNat
      exact ⟨word0, word1, brk_report { s with fresh := n } s.cur.1 s.cur.2 (me s).pc v.toNat⟩
  · refine ⟨_, ?_, rfl, takeEnded_trapEntry .., fun revocable => returnedTo_trapEntry _ revocable, frame_illegal ..⟩
    rw [exec_illegalWord, execIllegalWord, word_eq hc]
    rfl

end words

end Sys2Proof.Proofs
end

section

namespace Sys2Proof.Proofs

open Sys2Proof Sys2Proof.Machine Sys2Proof.Claims

/-! ## Reset (Tables 4.3, 4.14, 13.5, 16.1, 16.2, 17.1, 17.4, 18.2) -/

section reset
variable {α : Type} {k : Nat}

theorem rget_replicate (v : α) (i : BitVec k) : rget (Vector.replicate (2 ^ k) v : RegFile k α) i = v := by
  simp only [rget, Vector.getElem_replicate]

theorem thr_reset (c : Nat) (t : BitVec 3) : thr State.reset c t = Thread.reset := rget_replicate (k := 3) Thread.reset t

theorem dieAt_reset (d : Nat) : dieAt State.reset d = Die.reset := rget_replicate (k := 2) Die.reset _

theorem part_reset (f : Nat) : part State.reset f = Partition.reset := rget_replicate (k := 4) Partition.reset _

/-- Of the predicates only p0 holds. -/
theorem rget_p_reset (n : BitVec 3) : rget Thread.reset.p n = (n == 0#3) := by
  have set0 : Thread.reset.p = rset (Vector.replicate 8 false : RegFile 3 Bool) 0#3 true := rfl
  have off : rget (Vector.replicate 8 false : RegFile 3 Bool) n = false := rget_replicate (k := 3) false n
  rw [set0, rget_rset, off]
  by_cases zero : n = 0#3 <;> simp [zero]

theorem rget_pos_reset (c : Nat) (p : BitVec 2) : rget (cellAt State.reset c).pos p = Position.reset :=
  rget_replicate (k := 2) Position.reset p

/-- No context is resident; its tables would be the reset ones in any case. -/
theorem posOf_reset (c ctx : Nat) : posOf State.reset c ctx = Position.reset := by
  unfold posOf
  split
  · exact rget_pos_reset c _
  · rfl

theorem not_bound_reset (c ctx cls : Nat) : bound State.reset c ctx cls = false := by
  have unbound : handlerAt State.reset c ctx cls = 0 := by
    rw [handlerAt, posOf_reset]
    rfl
  rw [bound, unbound]
  decide

theorem stageAt_reset (d i : Nat) : stageAt State.reset d i = Stage.reset := by
  rw [stageAt, dieAt_reset]
  exact rget_replicate (k := 5) Stage.reset _

end reset

/-- Settles O5: every register file holds one value at every index, but for p0. -/
theorem resetValues : Obligations.ResetValues := by
  refine ⟨rfl, rfl, fun _ => rfl, reset_mem_wf, fun c t => ?thread, fun c => ⟨rfl, fun p => ?position⟩, not_bound_reset, fun d => ⟨?balancer, fun i => ?stage⟩,
    fun f => ⟨part_reset f, ?partition⟩, rfl, rfl, rfl, fun i => ⟨?key, ?range⟩, fun i => rget_replicate (k := 4) 0 i, fun _ => rfl, rfl⟩
  case thread =>
    rw [thr_reset]
    exact ⟨rfl, rget_replicate (k := 5) 0, rget_p_reset, rget_replicate (k := 3) 0, rget_replicate (k := 3) 0, rget_replicate (k := 3) 0,
      fun n => ⟨rget_replicate (k := 4) 0 n, rget_replicate (k := 4) 0 n, rget_replicate (k := 4) YLatch.untriggered n⟩, rfl, rfl⟩
  case position => exact congrArg Position.ctx (rget_pos_reset c p)
  case balancer => exact congrArg Die.balancer (dieAt_reset d)
  case stage => exact congrArg Stage.v (stageAt_reset d i)
  case partition =>
    rw [part_reset]
    exact ⟨rfl, rfl, rfl⟩
  case key => exact congrArg KeySlot.v (rget_replicate (k := 6) KeySlot.reset i)
  case range => exact congrArg SealedRange.v (rget_replicate (k := 6) SealedRange.reset i)

/-! ## The frame of a trap (R97, R329) -/

/-- Settles O29: the frame holds the words of `frameWords`, whose first four are the ones asked for; a `brk` alone clears the cause. -/
theorem trapFrameQuotesTheFault : Obligations.TrapFrameQuotesTheFault := by
  intro s c t i notBrk
  dsimp only
  rw [frame_trapEntry, trapWords, if_neg notBrk]
  exact ⟨rget_frameOf .., rget_frameOf .., rget_frameOf .., rget_frameOf ..⟩

end Sys2Proof.Proofs
end

section

namespace Sys2Proof.Proofs

open Sys2Proof Sys2Proof.Machine Sys2Proof.Claims

/-! ## What each control register reads (R94, Table 4.15) -/

section reads
variable (s : State) (c : Nat) (t : BitVec 3) {n : Nat}

@[simp] theorem loopReg_cnt (l : LoopCtr) : loopReg l 0 = l.cnt.setWidth 64 := rfl
@[simp] theorem loopReg_bnd (l : LoopCtr) : loopReg l 1 = l.bnd.setWidth 64 := rfl
@[simp] theorem loopReg_stp (l : LoopCtr) : loopReg l 2 = l.stp.setWidth 64 := rfl

theorem loopReg_end (l : LoopCtr) : BitVec.ofNat 64 ((if l.act then 2 ^ 63 else 0) + l.fin.toNat) = loopReg l 3 := by
  have bound := l.fin.isLt
  have joined : (BitVec.ofBool l.act ++ 0#7 ++ l.fin).toNat = (if l.act then 2 ^ 63 else 0) + l.fin.toNat := by
    rw [BitVec.toNat_append, ← Nat.shiftLeft_add_eq_or_of_lt bound]
    cases l.act <;> rfl
  rw [← joined, BitVec.ofNat_toNat]
  rfl

theorem idcell_eq : BitVec.ofNat 64 (dieOf c * 2 ^ 32 + (if c < 1024 then c % 256 / 16 * 2 ^ 24 + c % 16 * 2 ^ 16 else 0) + c) = idcell c := by
  by_cases compute : c < 1024
  · simp only [idcell, if_pos compute, Nat.add_assoc]
  · simp only [idcell, if_neg compute, Nat.add_zero]

theorem idgrove_eq : BitVec.ofNat 64 (if c < 1024 then c / 256 * 16 + c % 256 / 64 * 4 + c % 16 / 4 else 0x40) = idgrove c := by
  unfold idgrove groveOf
  split <;> rfl

/-- A row of the table names a register that a take of any context may read. -/
def ReadsAs (e : Nat × Word) : Prop := readControl s c t e.1 = e.2 ∧ assigned e.1 = true ∧ supervisorReg e.1 = false

theorem readsAs_controlTable : ∀ e ∈ controlTable s c t, ReadsAs s c t e := by
  simp only [controlTable, loopReg_end, idcell_eq, idgrove_eq, List.forall_mem_cons]
  and_intros
  all_goals simp [readControl, assigned, supervisorReg]

theorem readControl_amax (lo : 0x10 ≤ n) (hi : n ≤ 0x13) : readControl s c t n = rget (thr s c t).amax (BitVec.ofNat 2 n) := by
  simp (disch := omega) only [readControl, Bool.and_eq_true, decide_eq_true_eq, if_neg, if_pos]

theorem readControl_sk (lo : 0x14 ≤ n) (hi : n ≤ 0x17) : readControl s c t n = rget (thr s c t).sk (BitVec.ofNat 2 n) := by
  simp (disch := omega) only [readControl, Bool.and_eq_true, decide_eq_true_eq, if_neg, if_pos]

theorem readControl_tcfg (lo : 0x100 ≤ n) (hi : n ≤ 0x107) : readControl s c t n = rget (cellAt s c).tcfg (BitVec.ofNat 3 n) := by
  simp (disch := omega) only [readControl, Bool.and_eq_true, decide_eq_true_eq, if_neg, if_pos]

theorem readControl_frame (lo : 0x400 ≤ n) (hi : n ≤ 0x5FF) :
    readControl s c t n = rget (thr s c (BitVec.ofNat 3 (n / 64))).frame (BitVec.ofNat 6 n) := by
  simp (disch := omega) only [readControl, Bool.and_eq_true, decide_eq_true_eq, if_neg, if_pos]
  rfl

end reads

/-! ## What `scr` may write, and what then reads back (R95) -/

section writes
variable {s : State} {c : Nat} {t : BitVec 3} {n : Nat} {v w : Word}

theorem accessOf_status (lo : 8 ≤ n) (hi : n ≤ 10) : accessOf n = .w1c := by
  simp (disch := omega) only [accessOf, Bool.and_eq_true, decide_eq_true_eq, if_pos]

theorem accessOf_writable (h : 0x10 ≤ n ∧ n ≤ 0x17 ∨ 0x100 ≤ n ∧ n ≤ 0x107) : accessOf n = .rw := by
  simp (disch := omega) only [accessOf, Bool.or_eq_true, Bool.and_eq_true, decide_eq_true_eq, if_neg, if_pos]

theorem accessOf_readOnly (h : n ≤ 6 ∨ 0x18 ≤ n ∧ n ≤ 0x1F ∨ 0x200 ≤ n) : accessOf n = .ro := by
  simp (disch := omega) only [accessOf, Bool.or_eq_true, Bool.and_eq_true, decide_eq_true_eq, if_neg]

theorem highBits_eq_zero_iff {lo len : Nat} (whole : lo + len = 64) (v : Word) : v.extractLsb' lo len = 0 ↔ v.toNat < 2 ^ lo := by
  have small : v.toNat / 2 ^ lo < 2 ^ len := by
    rw [Nat.div_lt_iff_lt_mul (Nat.two_pow_pos lo), ← Nat.pow_add, Nat.add_comm, whole]
    exact v.isLt
  rw [← BitVec.toNat_inj, toNat_field, Nat.mod_eq_of_lt small]
  exact Nat.div_eq_zero_iff_lt (Nat.two_pow_pos lo)

theorem scrFault_amax (lo : 0x10 ≤ n) (hi : n ≤ 0x13) :
    scrFault n v = if v.getLsbD 31 = true ∨ 0x7F800000 < v.toNat % 2 ^ 31 then some .illegal else none := by
  have bit : v[31] = v.getLsbD 31 := rfl
  simp only [scrFault, lo, hi, bit, toNat_field, Nat.pow_zero, Nat.div_one, Bool.or_eq_true, decide_eq_true_eq, Bool.and_self, decide_true, if_true]

theorem scrFault_sk (lo : 0x14 ≤ n) (hi : n ≤ 0x17) : scrFault n v = if 2 ^ 17 ≤ v.toNat then some .illegal else none := by
  have high : (v.extractLsb' 17 47 != 0) = true ↔ 2 ^ 17 ≤ v.toNat := by
    rw [bne_iff_ne, Ne, highBits_eq_zero_iff rfl, Nat.not_lt]
  simp (disch := omega) only [scrFault, high, Bool.and_eq_true, decide_eq_true_eq, if_neg, if_pos]

theorem scrFault_tcfg (lo : 0x100 ≤ n) : scrFault n v = if 2 ^ 15 ≤ v.toNat then some .illegal
    else if 20 < v.toNat % 32 ∨ 8192 < (v.toNat / 32 % 256 + 1) * (32 * 2 ^ (v.toNat / 2 ^ 13 % 4)) then some .format else none := by
  have high : (v.extractLsb' 15 49 != 0) = true ↔ 2 ^ 15 ≤ v.toNat := by
    rw [bne_iff_ne, Ne, highBits_eq_zero_iff rfl, Nat.not_lt]
  simp (disch := omega) only [scrFault, high, tcfgFmt, tcfgRows, tcfgRowBytes, toNat_field, Nat.pow_zero, Nat.div_one, Bool.and_eq_true, Bool.or_eq_true,
    decide_eq_true_eq, if_neg]
  rfl

/-- The registers that `scr` changes. -/
def Writable (n : Nat) : Prop := n ∈ [8, 9, 10] ∨ (0x10 ≤ n ∧ n ≤ 0x13) ∨ (0x14 ≤ n ∧ n ≤ 0x17) ∨ (0x100 ≤ n ∧ n ≤ 0x107)

theorem mem_status : n ∈ [8, 9, 10] ↔ n = 8 ∨ n = 9 ∨ n = 10 := by simp

theorem readControl_writeControl (h : Writable n) : readControl (writeControl s c t n v) c t n = v := by
  rcases h with status | ⟨lo, hi⟩ | ⟨lo, hi⟩ | ⟨lo, hi⟩
  · rcases mem_status.mp status with rfl | rfl | rfl
    all_goals simp [readControl, writeControl]
  · rw [readControl_amax _ _ _ lo hi]
    simp (disch := omega) [writeControl, if_neg, if_pos]
  · rw [readControl_sk _ _ _ lo hi]
    simp (disch := omega) [writeControl, if_neg, if_pos]
  · rw [readControl_tcfg _ _ _ lo hi]
    simp (disch := omega) [writeControl, if_neg, if_pos]

/-- That a word has issued shows in none of them. -/
theorem readControl_issued (h : Writable n) (u : BitVec 4) : readControl (issued s c t u v) c t n = readControl s c t n := by
  have take : thr (issued s c t u v) c t = withResult (thr s c t) u v := thr_modThr_same ..
  rcases h with status | ⟨lo, hi⟩ | ⟨lo, hi⟩ | ⟨lo, hi⟩
  · rcases mem_status.mp status with rfl | rfl | rfl
    all_goals simp [readControl, take]
  · rw [readControl_amax _ _ _ lo hi, readControl_amax _ _ _ lo hi, take, withResult_amax]
  · rw [readControl_sk _ _ _ lo hi, readControl_sk _ _ _ lo hi, take, withResult_sk]
  · rw [readControl_tcfg _ _ _ lo hi, readControl_tcfg _ _ _ lo hi, issued, cellAt_modThr_tcfg]

theorem writeControl_cur (n : Nat) (v : Word) : (writeControl s c t n v).cur = s.cur := by
  unfold writeControl
  split_ifs <;> rfl

/-- The acting thread's `scr` answers the old value, and its register reads the new one. -/
theorem reads_written (acting : s.cur = (c, t)) (h : Writable n) (w v : Word) :
    let s' := issued (writeControl s c t n v) c t 10#4 w
    rget (me s').y 10#4 = .busy w ∧ readControl s' c t n = v := by
  intro s'
  have cur : s'.cur = (c, t) := (writeControl_cur n v).trans acting
  have take : thr s' c t = withResult (thr (writeControl s c t n v) c t) 10#4 w := thr_modThr_same ..
  refine ⟨?_, (readControl_issued h _).trans (readControl_writeControl h)⟩
  rw [me, cur, take, withResult_y, rget_rset_same]

theorem cur_performs {r : State} {grd : Guard} {src : Src} (hp : Performs s grd src v r) : r.cur = s.cur := by
  obtain ⟨k, rfl⟩ := state_of_performs hp
  rfl

end writes

/-! ## `gcr` and `scr` (R95, R96) -/

section words
variable {s r : State} {grd : Guard} {src : Src} {v : Word} {waits : Cell → BitVec 3 → Nat → Bool} {f : Nat → BitVec 3 → Nat → State → State}

theorem issued_eq_wordDone (s : State) (c : Nat) (t : BitVec 3) (u : BitVec 4) (v : Word) : issued s c t u v = wordDone s c t u v := by
  simp only [issued, withResult, wordDone, resultUnderWay, advance_eq_completed]

/-- The thread may reach register `n`: it is assigned, its context may read it, and of a tcfg the thread holds the files. -/
structure Reaches (s : State) (c : Nat) (t : BitVec 3) (n : Nat) : Prop where
  assigned : assigned n = true
  allowed : supervisorReg n = true → isSupervisor s (thr s c t).ctx.toNat = true
  files : 0x100 ≤ n → n ≤ 0x107 → (cellAt s c).efOwner = some t.toNat ∧ (cellAt s c).efReady ≤ s.cyc.toNat

theorem controlWord_unassigned (hp : Performs s grd src v r) (free : unitBusy (me s) 10#4 = false) (h : assigned v.toNat = false) :
    controlWord s grd src waits f = .next (faultWord r s.cur.1 s.cur.2 .illegal) := by
  rw [controlWord, trigger1_performs hp free]
  dsimp only
  rw [h]
  rfl

theorem controlWord_forbidden (hp : Performs s grd src v r) (free : unitBusy (me s) 10#4 = false) (h : assigned v.toNat = true)
    (sup : supervisorReg v.toNat = true) (plain : isSupervisor r (thr r s.cur.1 s.cur.2).ctx.toNat = false) :
    controlWord s grd src waits f = .next (faultWord r s.cur.1 s.cur.2 .perm) := by
  rw [controlWord, trigger1_performs hp free]
  dsimp only
  rw [h, sup, plain]
  rfl

theorem withFiles_held {s : State} {c : Nat} {t : BitVec 3} {k : State → Option State} (owner : (cellAt s c).efOwner = some t.toNat)
    (ready : (cellAt s c).efReady ≤ s.cyc.toNat) : withFiles s c t k = k s := by
  rw [withFiles, owner, if_pos (beq_self_eq_true _), if_neg (Nat.not_lt.mpr ready)]

theorem controlWord_reaches (hp : Performs s grd src v r) (free : unitBusy (me s) 10#4 = false) (h : Reaches r s.cur.1 s.cur.2 v.toNat)
    (quiet : waits (cellAt r s.cur.1) s.cur.2 v.toNat = false) :
    controlWord s grd src waits f = .next (f s.cur.1 s.cur.2 v.toNat r) := by
  have allowed : (supervisorReg v.toNat && !isSupervisor r (thr r s.cur.1 s.cur.2).ctx.toNat) = false := by
    cases sup : supervisorReg v.toNat with
    | false => rfl
    | true => simp [h.allowed sup]
  rw [controlWord, trigger1_performs hp free]
  simp only [h.assigned, allowed, Bool.not_true, Bool.false_eq_true, if_false]
  split
  · rename_i tcfg
    obtain ⟨lo, hi⟩ : 0x100 ≤ v.toNat ∧ v.toNat ≤ 0x107 := by simpa using tcfg
    obtain ⟨owner, ready⟩ := h.files lo hi
    rw [withFiles_held owner ready, quiet]
    rfl
  · rw [quiet]
    rfl

theorem gcr_reaches (hp : Performs s grd src v r) (free : unitBusy (me s) 10#4 = false) (h : Reaches r s.cur.1 s.cur.2 v.toNat)
    (quiet : engineReads (cellAt r s.cur.1) s.cur.2 v.toNat = false) :
    exec (.gcr grd src) s = .next (wordDone r s.cur.1 s.cur.2 10#4 (readControl r s.cur.1 s.cur.2 v.toNat)) := by
  rw [exec_gcr, execGcr, controlWord_reaches hp free h quiet, issued_eq_wordDone]

/-- `scr` answers the register's old value and leaves the new one in it. -/
def Written (s r : State) (grd : Guard) (src : Src) (n : Nat) (new : Word) : Prop :=
  ∃ s', exec (.scr grd src) s = .next s' ∧ rget (me s').y 10#4 = .busy (readControl r s.cur.1 s.cur.2 n) ∧ readControl s' s.cur.1 s.cur.2 n = new

section reaching
variable (hp : Performs s grd src v r) (free : unitBusy (me s) 10#4 = false) (h : Reaches r s.cur.1 s.cur.2 v.toNat)
  (quiet : engineWrites (cellAt r s.cur.1) s.cur.2 v.toNat = false)
include hp free h quiet

theorem scr_readOnly (ro : accessOf v.toNat = .ro) : exec (.scr grd src) s = .next (faultWord r s.cur.1 s.cur.2 .perm) := by
  rw [exec_scr, execScr, controlWord_reaches hp free h quiet, ro]

theorem scr_refused {e : Cause} (rw_ : accessOf v.toNat = .rw) (bad : scrFault v.toNat (rget (me s).la 10#4) = some e) :
    exec (.scr grd src) s = .next (faultWord r s.cur.1 s.cur.2 e) := by
  rw [exec_scr, execScr, controlWord_reaches hp free h quiet, rw_, thr_performs hp]
  dsimp only
  rw [bad]

theorem scr_writes (writable : Writable v.toNat) (rw_ : accessOf v.toNat = .rw) (good : scrFault v.toNat (rget (me s).la 10#4) = none) :
    Written s r grd src v.toNat (rget (me s).la 10#4) := by
  refine ⟨_, ?_, reads_written (cur_performs hp) writable _ _⟩
  rw [exec_scr, execScr, controlWord_reaches hp free h quiet, rw_, thr_performs hp]
  dsimp only
  rw [good]

theorem scr_clears (status : v.toNat ∈ [8, 9, 10]) :
    Written s r grd src v.toNat (readControl r s.cur.1 s.cur.2 v.toNat &&& ~~~(rget (me s).la 10#4)) := by
  have w1c : accessOf v.toNat = .w1c := by
    refine accessOf_status ?_ ?_ <;> rcases mem_status.mp status with e | e | e <;> omega
  refine ⟨_, ?_, reads_written (cur_performs hp) (.inl status) _ _⟩
  rw [exec_scr, execScr, controlWord_reaches hp free h quiet, w1c, thr_performs hp]

end reaching

end words

/-- Settles O32: the table row by row; then the words, by the access and the value that each register takes. -/
theorem controlRegisters : Obligations.ControlRegisters := by
  refine ⟨fun s c t n v row => readsAs_controlTable s c t (n, v) row, fun s c t => ⟨rfl, rfl, rfl⟩, fun s c t u i => ?_, fun s grd src v r hp free => ?_⟩
  · have hu := u.isLt
    have hi := i.isLt
    refine ⟨?_, ?_, ?_⟩
    · have thread : BitVec.ofNat 3 ((0x400 + 64 * u.toNat + i.toNat) / 64) = u := BitVec.eq_of_toNat_eq (by simp; omega)
      have word : BitVec.ofNat 6 (0x400 + 64 * u.toNat + i.toNat) = i := BitVec.eq_of_toNat_eq (by simp; omega)
      rw [readControl_frame _ _ _ (by omega) (by omega), thread, word]
    · simp only [assigned, Bool.or_eq_true, Bool.and_eq_true, decide_eq_true_eq, beq_iff_eq]
      omega
    · simp only [supervisorReg, Bool.or_eq_true, Bool.and_eq_true, decide_eq_true_eq, beq_iff_eq]
      omega
  · intro c t n a written
    refine ⟨fun bad => ?_, fun named sup plain => ?_,
      fun named allowed quiet files => ?_⟩
    · rw [exec_gcr, execGcr, exec_scr, execScr]
      exact ⟨controlWord_unassigned hp free bad, controlWord_unassigned hp free bad⟩
    · rw [← thr_performs hp] at plain
      rw [exec_gcr, execGcr, exec_scr, execScr]
      exact ⟨controlWord_forbidden hp free named sup plain, controlWord_forbidden hp free named sup plain⟩
    · have reaches : Reaches r c t n := ⟨named, by rwa [thr_performs hp], files⟩
      have refused (rw_ : 0x10 ≤ n ∧ n ≤ 0x17 ∨ 0x100 ≤ n ∧ n ≤ 0x107) {e : Cause} := scr_refused hp free reaches quiet (e := e) (accessOf_writable rw_)
      have writes (rw_ : Writable n ∧ (0x10 ≤ n ∧ n ≤ 0x17 ∨ 0x100 ≤ n ∧ n ≤ 0x107)) :=
        scr_writes hp free reaches quiet rw_.1 (accessOf_writable rw_.2)
      refine ⟨fun idle => gcr_reaches hp free reaches ?_, scr_clears hp free reaches quiet, fun lo hi bad => ?_, fun lo hi good => ?_,
        fun lo hi bad => ?_, fun lo hi plain code => ?_, fun lo hi => ⟨fun bad => ?_, fun low bad => ?_, fun low good => ?_⟩,
        fun ro => scr_readOnly hp free reaches quiet (accessOf_readOnly (by omega))⟩
      · unfold engineReads
        split
        · rename_i flags
          rw [idle flags]
          rfl
        · exact quiet
      · exact refused (by omega) (by rw [scrFault_sk lo hi, if_pos bad])
      · exact writes ⟨.inr (.inr (.inl ⟨lo, hi⟩)), by omega⟩ (by rw [scrFault_sk lo hi, if_neg (Nat.not_le.mpr good)])
      · exact refused (by omega) (by rw [scrFault_amax lo hi, if_pos bad])
      · exact writes ⟨.inr (.inl ⟨lo, hi⟩), by omega⟩ (by rw [scrFault_amax lo hi, if_neg (not_or.mpr ⟨Bool.eq_false_iff.mp plain, Nat.not_lt.mpr code⟩)])
      · exact refused (by omega) (by rw [scrFault_tcfg lo, if_pos bad])
      · exact refused (by omega) (by rw [scrFault_tcfg lo, if_neg (Nat.not_le.mpr low), if_pos bad])
      · exact writes ⟨.inr (.inr (.inr ⟨lo, hi⟩)), by omega⟩ (by rw [scrFault_tcfg lo, if_neg (Nat.not_le.mpr low), if_neg good])

end Sys2Proof.Proofs
end

section

namespace Sys2Proof.Proofs

open Sys2Proof Sys2Proof.Machine Sys2Proof.Claims

/-! ## States that differ in engine queues alone -/

section queues
variable {s s' s'' : State} {c : Nat} {t : BitVec 3}

/-- A cell but for its engine queues, their bookkeeping, and the performance counters. -/
def offQueues (x : Cell) : Cell :=
  { x with vxq := [], vxPop := 0, mxq := [], mxPop := 0, qFreed := (0, []), perfCnt := Vector.replicate 8 0 }

/-- Nothing has changed but engine queues and performance counters. -/
structure QueuesOnly (s s' : State) : Prop where
  cell : ∀ c, offQueues (cellAt s' c) = offQueues (cellAt s c)
  rest : ∃ cells, s' = { s with cells := cells }

theorem QueuesOnly.trans (h : QueuesOnly s s') (h' : QueuesOnly s' s'') : QueuesOnly s s'' := by
  obtain ⟨cell, cells, rfl⟩ := h
  obtain ⟨cell', cells', rfl⟩ := h'
  exact ⟨fun c => (cell' c).trans (cell c), cells', rfl⟩

theorem queuesOnly_modCell {f : Cell → Cell} (h : offQueues (f (cellAt s c)) = offQueues (cellAt s c)) : QueuesOnly s (modCell s c f) := by
  refine ⟨fun c' => ?_, _, rfl⟩
  rw [cellAt_modCell]
  split
  · rename_i same
    rw [h, same]
  · rfl

theorem queuesOnly_perf (s : State) (c ctx code n : Nat) : QueuesOnly s (perf s c ctx code n) := by
  unfold perf
  split
  · exact ⟨fun _ => rfl, s.cells, rfl⟩
  · exact queuesOnly_modCell rfl

variable (h : QueuesOnly s s')
include h

theorem QueuesOnly.mem : s'.mem = s.mem := by
  obtain ⟨-, cells, rfl⟩ := h
  rfl

theorem QueuesOnly.cyc : s'.cyc = s.cyc := by
  obtain ⟨-, cells, rfl⟩ := h
  rfl

theorem QueuesOnly.opErrors : s'.opErrors = s.opErrors := by
  obtain ⟨-, cells, rfl⟩ := h
  rfl

theorem QueuesOnly.pos (c : Nat) : (cellAt s' c).pos = (cellAt s c).pos := (congrArg Cell.pos (h.cell c) :)

theorem QueuesOnly.tiles (c : Nat) : (cellAt s' c).t = (cellAt s c).t := (congrArg Cell.t (h.cell c) :)

theorem QueuesOnly.sends (c : Nat) : (cellAt s' c).sends = (cellAt s c).sends := (congrArg Cell.sends (h.cell c) :)

theorem QueuesOnly.recvs (c : Nat) : (cellAt s' c).recvs = (cellAt s c).recvs := (congrArg Cell.recvs (h.cell c) :)

theorem QueuesOnly.thr (c : Nat) (t : BitVec 3) : thr s' c t = thr s c t :=
  congrArg (fun threads => rget threads t) (congrArg Cell.threads (h.cell c) :)

theorem QueuesOnly.posOf (c ctx : Nat) : posOf s' c ctx = posOf s c ctx := by
  simp only [Machine.posOf, posIdx, h.pos]

/-! ### Operands and places -/

theorem QueuesOnly.stageAt (d i : Nat) : stageAt s' d i = stageAt s d i := by
  obtain ⟨-, cells, rfl⟩ := h
  rfl

theorem QueuesOnly.groveCheck (g ctx a n : Nat) (w : Bool) : groveCheck s' g ctx a n w = groveCheck s g ctx a n w := by
  obtain ⟨-, cells, rfl⟩ := h
  rfl

theorem QueuesOnly.checkEnd (c ctx : Nat) (d : Handle) : checkEnd s' c ctx d = checkEnd s c ctx d := by
  simp only [Machine.checkEnd, lookupEnd, findSend, findRecv, h.sends, h.recvs, h.stageAt]

theorem QueuesOnly.grantCell (c ctx home : Nat) : grantCell s' c ctx home = grantCell s c ctx home := by
  simp only [Machine.grantCell, grantsOf, h.posOf]

theorem QueuesOnly.grantStage (c ctx i : Nat) : grantStage s' c ctx i = grantStage s c ctx i := by
  simp only [Machine.grantStage, grantsOf, h.posOf]

theorem QueuesOnly.sendTarget (c ctx : Nat) (d : Handle) (k : BitVec 4) : sendTarget s' c ctx d k = sendTarget s c ctx d k := by
  rw [Machine.sendTarget, Machine.sendTarget, h.checkEnd]
  split
  · rw [homeGranted, homeGranted, h.grantCell]
  · rw [h.stageAt, h.grantStage]
  · rfl

theorem QueuesOnly.vxOperandFault (c ctx : Nat) (o : EngOp) : vxOperandFault s' c ctx o = vxOperandFault s c ctx o := by
  simp only [Machine.vxOperandFault, h.checkEnd, h.sendTarget]

theorem QueuesOnly.vxNarrow (c : Nat) (o : EngOp) : vxNarrow s' c o = vxNarrow s c o := by
  obtain ⟨-, cells, rfl⟩ := h
  rfl

theorem QueuesOnly.placeOf (c : Nat) (t : BitVec 3) (sp : Space) (a n : Nat) (w : Bool) : placeOf s' c t sp a n w = placeOf s c t sp a n w := by
  simp only [Machine.placeOf, scrPlace, locPlace, grvPlace, h.thr, h.posOf, h.groveCheck]

theorem QueuesOnly.placesOf (c : Nat) (t : BitVec 3) (sp : Space) (w : Bool) (l : List (Nat × Nat)) : placesOf s' c t sp w l = placesOf s c t sp w l := by
  induction l with
  | nil => rfl
  | cons r l ih => simp only [Machine.placesOf, ih, h.placeOf]

theorem QueuesOnly.vmemPlaces (c : Nat) (t : BitVec 3) (o : EngOp) (sp : VSpace) (part : Part) (w : Bool) :
    vmemPlaces s' c t o sp part w = vmemPlaces s c t o sp part w := by
  simp only [Machine.vmemPlaces, h.placesOf]

theorem QueuesOnly.mxNarrow (c : Nat) (o : EngOp) : mxNarrow s' c o = mxNarrow s c o := by
  obtain ⟨-, cells, rfl⟩ := h
  rfl

theorem QueuesOnly.mxStartFault (c : Nat) (o : EngOp) : mxStartFault s' c o = mxStartFault s c o := by
  simp only [Machine.mxStartFault, tileBandFault, h.mxNarrow, h.tiles]

theorem QueuesOnly.directAhead (c : Nat) (t : BitVec 3) (ks : List Nat) : directAhead s' c t ks = directAhead s c t ks := by
  obtain ⟨-, cells, rfl⟩ := h
  rfl

theorem QueuesOnly.isProtected (ctx : Nat) : isProtected s' ctx = isProtected s ctx := by
  obtain ⟨-, cells, rfl⟩ := h
  rfl

theorem QueuesOnly.keys : s'.keys = s.keys := by
  obtain ⟨-, cells, rfl⟩ := h
  rfl

theorem QueuesOnly.sealedRange (ctx pa n : Nat) : sealedRange s' ctx pa n = sealedRange s ctx pa n := by
  obtain ⟨-, cells, rfl⟩ := h
  rfl

theorem QueuesOnly.openBlock (r : SealedRange) : openBlock s' r = openBlock s r := by
  funext j
  rw [Machine.openBlock, Machine.openBlock, word64At, word64At, h.keys, h.mem]

theorem QueuesOnly.homeRead (ctx k n : Nat) : homeRead s' ctx k n = homeRead s ctx k n := by
  simp only [Machine.homeRead, h.isProtected, h.sealedRange, h.openBlock, h.mem]

theorem QueuesOnly.readParts (ctx : Nat) (ks : List Nat) : readParts s' ctx ks = readParts s ctx ks := by
  simp only [Machine.readParts, h.isProtected, h.homeRead, h.mem]

theorem QueuesOnly.readRuns (c : Nat) (t : BitVec 3) (o : EngOp) (ks : List Nat) : readRuns s' c t o ks = readRuns s c t o ks := by
  simp only [Machine.readRuns, earlyBytes, h.thr, h.readParts, h.isProtected]

theorem QueuesOnly.readHere {o p : EngOp} {rs : List (Place × Nat)} (here : ReadHere s c t o rs p) : ReadHere s' c t o rs p := by
  simpa only [ReadHere, h.cyc, h.opErrors, h.directAhead, h.readRuns] using here

theorem QueuesOnly.skipByte (c : Nat) (t : BitVec 3) (o : EngOp) : skipByte s' c t o = skipByte s c t o := by
  funext off
  simp only [Machine.skipByte, viewDirect, h.thr, h.posOf, h.mem]

theorem QueuesOnly.readSkip (c : Nat) (t : BitVec 3) (o : EngOp) (k : BitVec 2) : readSkip s' c t o k = readSkip s c t o k := by
  simp only [Machine.readSkip, skipStart, h.thr, h.opErrors, h.skipByte, h.directAhead]
  rfl

end queues
end Sys2Proof.Proofs
end

section

namespace Sys2Proof.Proofs

open Sys2Proof Sys2Proof.Machine Sys2Proof.Claims

/-! ## The engine files (R77, R78) -/

/-- A register of the files as a new holder finds it: kept or zero. -/
theorem mapIdx_eq_ofFn {α : Type} {n : Nat} (l : Vector α n) (keep : Nat → Bool) (zero : α) :
    l.mapIdx (fun i w => if keep i then w else zero) = Vector.ofFn (fun i : Fin n => if keep i then l[i] else zero) := by
  ext i hi
  simp

theorem replicate_eq_ofFn {α : Type} (n : Nat) (zero : α) : Vector.replicate n zero = Vector.ofFn (fun _ => zero) := by
  ext i hi
  simp

theorem takeFiles_eq (x : Cell) (t : BitVec 3) (ctx cyc fresh : Nat) :
    let same : Bool := x.efCtx == some ctx
    let kept : Nat → Bool := fun i => same && Config.fileKept fresh i
    takeFiles x t ctx cyc fresh = { x with
      efOwner := some t.toNat, efCtx := some ctx, efWait := x.efWait.filter (· != t.toNat), tcfg := Vector.replicate 8 0
      efReady := if same then cyc else cyc + 256
      v := Vector.ofFn (fun (i : Fin 32) => if kept i then x.v[i] else 0)
      t := Vector.ofFn (fun (i : Fin 8) => if kept (32 + i) then x.t[i] else 0)
      acc := Vector.ofFn (fun (i : Fin 4) => if kept (40 + i) then x.acc[i] else 0) } := by
  dsimp only
  unfold takeFiles
  by_cases same : (x.efCtx == some ctx) = true
  · simp only [same, if_true, Bool.true_and, mapIdx_eq_ofFn]
    rfl
  · simp only [same, if_false, Bool.false_and, Bool.false_eq_true, replicate_eq_ofFn]

theorem acquireFiles_waiting {s : State} {c t : Nat} {rest : List Nat} (free : (cellAt s c).efOwner = none) (first : (cellAt s c).efWait = t :: rest) :
    acquireFiles s c = some { modCell s c (fun x =>
      takeFiles x (BitVec.ofNat 3 t) (rget x.threads (BitVec.ofNat 3 t)).ctx.toNat s.cyc.toNat s.fresh) with fresh := s.fresh + 1 } := by
  rw [acquireFiles, free, first]

/-! ## An operation begins (R144, R145) -/

section begins
variable {s : State} {c : Nat} {t : BitVec 3} {o p : EngOp} {put : State → EngOp → State}

theorem engineMemory_eq (i : Instr) : engineMemory i = (memReads i || memWrites i) := by cases i <;> rfl

/-- What reads the runs of its operand itself is an operation on memory. -/
theorem loadsRuns_of_registers {i : Instr} (reg : engineMemory i = false) : loadsRuns i = false := by
  unfold loadsRuns
  split
  · cases reg
  · cases reg
  · rfl

theorem beginOp_registers (idle : loadsRuns o.insn = false) :
    beginOp s c t o put (.ok []) = some (put s { o with start := s.cyc.toNat, runs := [], keys := some [] }) := by
  simp [beginOp, readNow, idle]

theorem beginOp_here {rs : List (Place × Nat)} (loads : loadsRuns o.insn = true) (here : ReadHere s c t o rs p) :
    beginOp s c t o put (.ok rs) = some (put s p) := by
  obtain ⟨near, clear, sound, bss, read, rfl⟩ := here
  have all : rs.all (fun r => isHere r.1) = true := List.all_eq_true.mpr near
  rw [List.flatMap_map] at clear read ⊢
  simp [beginOp, all, clear, readNow, loads, sound, read]

theorem takeEnded_engineFault (s : State) (c : Nat) (t : BitVec 3) (o : EngOp) (e : Cause) : TakeEnded (engineFault s c t o e) c t :=
  takeEnded_trapEntry ..

end begins

/-! ## The vector engine starts its head (R144, R148) -/

section vector
variable {s : State} {c : Nat} {t : BitVec 3} {o p : EngOp} {rest : List EngOp}

/-- The state once the head has left the `vx` queue, its start counted. -/
def vxPopped (s : State) (c : Nat) (t : BitVec 3) (rest : List EngOp) : State :=
  let s1 := modCell s c (fun x => freedQueue 11 1 s.cyc.toNat { x with vxq := rest, vxPop := s.cyc.toNat + 1 })
  perf s1 c (thr s1 c t).ctx.toNat 0x0C 1

theorem queuesOnly_vxPopped (s : State) (c : Nat) (t : BitVec 3) (rest : List EngOp) : QueuesOnly s (vxPopped s c t rest) :=
  (queuesOnly_modCell rfl).trans (queuesOnly_perf ..)

/-- An operation put in flight: it alone, and the queue without its head. -/
theorem putVx_popped (s : State) (c : Nat) (t : BitVec 3) (rest : List EngOp) (p : EngOp) :
    let s' := putVx c (vxPopped s c t rest) p
    (cellAt s' c).vxf = some p ∧ (cellAt s' c).vxq = rest ∧ s'.mem = s.mem ∧ thr s' c t = thr s c t := by
  have popped := queuesOnly_vxPopped s c t rest
  have queue : (cellAt (vxPopped s c t rest) c).vxq = rest := by
    refine ((kept_perf (part := Cell.vxq) (dpart := fun _ => ()) (fun _ _ => rfl) _ _ _ _).cell c).trans ?_
    rw [cellAt_modCell_same]
    rfl
  have cell := cellAt_modCell_same (vxPopped s c t rest) c (fun x => { x with vxf := some p })
  refine ⟨?_, ?_, popped.mem, ?_⟩
  · rw [putVx, cell]
  · rw [putVx, cell, queue]
  · rw [← popped.thr, thr, putVx, cell, thr]

/-- The head of the queue may start. -/
structure VxHead (s : State) (c : Nat) (o : EngOp) (rest : List EngOp) : Prop where
  idle : (cellAt s c).vxf = none
  queue : (cellAt s c).vxq = o :: rest
  aged : o.pushed < s.cyc.toNat
  paced : (cellAt s c).vxPop ≤ s.cyc.toNat
  clear : crossWaits ((cellAt s c).mxf.toList ++ (cellAt s c).mxq) o = false

theorem startVx_head (h : VxHead s c o rest) :
    startVx s c = beginVx (vxPopped s c (BitVec.ofNat 3 o.th) rest) c (BitVec.ofNat 3 o.th) o := by
  simp only [startVx, h.idle, h.queue, h.clear, decide_eq_false (Nat.not_le.mpr h.aged), decide_eq_false (Nat.not_lt.mpr h.paced)]
  rfl

theorem beginVx_faults {e : Cause} (h : withNarrow (vxNarrow s c o) (vxOperandFault s c (thr s c t).ctx.toNat o) = some e) :
    beginVx s c t o = some (engineFault (putVx c s o) c t o e) := by
  rw [beginVx, h]

variable (sound : withNarrow (vxNarrow s c o) (vxOperandFault s c (thr s c t).ctx.toNat o) = none)
include sound

theorem beginVx_vld {g : Guard} {src : Src} {sp : VSpace} {part : Part} {d : BitVec 5} (insn : o.insn = .vld g src sp part d) :
    beginVx s c t o = beginOp s c t o (putVx c) (vmemPlaces s c t o sp part false) := by
  rw [beginVx, sound]
  simp only [insn]

theorem beginVx_registers (reg : engineMemory o.insn = false) :
    beginVx s c t o = some (putVx c s { o with
      start := s.cyc.toNat, runs := [], keys := some [], amax := rget (thr s c t).amax (o.t.extractLsb' 0 2) }) := by
  rw [beginVx, sound]
  dsimp only
  split
  · rename_i insn
    simp [insn, engineMemory] at reg
  · rename_i insn
    simp [insn, engineMemory] at reg
  · exact beginOp_registers (o := { o with amax := rget (thr s c t).amax (o.t.extractLsb' 0 2) }) (loadsRuns_of_registers reg)

end vector

/-! ## Skip lists (R173) -/

section skips
variable {byte : Nat → Option Nat} {blocks cap : Nat}

theorem kept_append (l l' : List Nat) : kept (l ++ l') = kept l ++ kept l' := by simp [kept]

theorem kept_singleton (x : Nat) : kept [x] = List.replicate (x / 16) false ++ List.replicate (x % 16) true := by simp [kept]

/-- `byte` spells the list from `off` on. -/
def Spells (byte : Nat → Option Nat) (off : Nat) (l : List Nat) : Prop := ∀ j, j < l.length → byte (off + j) = some (l.getD j 0)

theorem Spells.append {off : Nat} {l l' : List Nat} (h : Spells byte off (l ++ l')) : Spells byte off l ∧ Spells byte (off + l.length) l' := by
  refine ⟨fun j hj => ?_, fun j hj => ?_⟩
  · rw [h j (by rw [List.length_append]; omega), List.getD_append _ _ _ _ hj]
  · rw [Nat.add_assoc, h _ (by rw [List.length_append]; omega), List.getD_append_right _ _ _ _ (Nat.le_add_right ..), Nat.add_sub_cancel_left]

/-- The walk of a row whose bytes so far are `pre` ends where its blocks are all told. -/
theorem skipRow_walk (rest : List Nat) : ∀ (pre : List Nat) (fuel off : Nat), Spells byte off rest → rest.length < fuel →
    (kept (pre ++ rest)).length = blocks → (∀ m, m < (pre ++ rest).length → (kept ((pre ++ rest).take m)).length < blocks) →
    skipRow byte blocks fuel off (kept pre) = .row (kept (pre ++ rest)) (off + rest.length) := by
  induction rest with
  | nil =>
    intro pre fuel off _ room whole _
    obtain ⟨fuel, rfl⟩ := Nat.exists_eq_succ_of_ne_zero (Nat.ne_of_gt room)
    rw [List.append_nil] at whole ⊢
    rw [skipRow, if_pos (Nat.le_of_eq whole.symm)]
    rfl
  | cons x rest ih =>
    intro pre fuel off spells room whole short
    obtain ⟨fuel, rfl⟩ := Nat.exists_eq_succ_of_ne_zero (Nat.ne_zero_of_lt room)
    have first : byte off = some x := spells 0 (Nat.zero_lt_succ _)
    have next : Spells byte (off + 1) rest := (Spells.append (l := [x]) spells).2
    have open_ : ¬blocks ≤ (kept pre).length := by
      have := short pre.length (by simp)
      rw [List.take_left] at this
      exact Nat.not_le.mpr this
    have fits : ¬blocks < (kept pre).length + x / 16 + x % 16 := by
      have split_ : pre ++ x :: rest = pre ++ ([x] ++ rest) := rfl
      rw [split_, kept_append, kept_append, kept_singleton] at whole
      simp at whole
      omega
    have step : pre ++ x :: rest = (pre ++ [x]) ++ rest := by simp
    rw [step] at whole short ⊢
    rw [skipRow, if_neg open_, first]
    dsimp only
    rw [if_neg fits, List.append_assoc, ← kept_singleton, ← kept_append, ih (pre ++ [x]) fuel (off + 1) next (Nat.lt_of_succ_lt_succ room) whole short,
      List.length_cons, Nat.add_assoc, Nat.add_comm 1]

theorem skipRows_walk (walk : List (List Nat)) : ∀ off, Spells byte off walk.flatten → (∀ bs ∈ walk, RowWalk blocks cap bs) →
    off + walk.flatten.length ≤ 0x16000 → skipRows byte blocks cap walk.length off = .ok (walk.map kept, off + walk.flatten.length) := by
  induction walk with
  | nil => exact fun _ _ _ _ => rfl
  | cons bs walk ih =>
    intro off spells rows bound
    obtain ⟨whole, short, room, -⟩ := rows bs List.mem_cons_self
    rw [List.flatten_cons] at spells bound ⊢
    rw [List.length_append] at bound ⊢
    obtain ⟨here, there⟩ := spells.append
    have row : skipRow byte blocks 0x16001 off [] = .row (kept bs) (off + bs.length) :=
      skipRow_walk bs [] 0x16001 off here (by omega) whole short
    have fits : ¬cap < 8 * ((kept bs).filter (fun b => b)).length := Nat.not_lt.mpr room
    rw [List.length_cons, skipRows, row]
    dsimp only
    rw [if_neg fits, ih _ there (fun bs' h => rows bs' (List.mem_cons_of_mem _ h)) (by omega), Nat.add_assoc]
    rfl

end skips

/-! ## The matrix engine starts its head (R164, R165, R175) -/

section matrix
variable {s : State} {c : Nat} {t : BitVec 3} {o p : EngOp} {rest : List EngOp}

/-- The state once the head has left the `mx` queue. -/
def mxPopped (s : State) (c : Nat) (rest : List EngOp) : State :=
  modCell s c (fun x => freedQueue 12 1 s.cyc.toNat { x with mxq := rest, mxPop := s.cyc.toNat + 1 })

theorem queuesOnly_mxPopped (s : State) (c : Nat) (rest : List EngOp) : QueuesOnly s (mxPopped s c rest) := queuesOnly_modCell rfl

theorem putMx_popped (s : State) (c : Nat) (t : BitVec 3) (rest : List EngOp) (p : EngOp) :
    let s' := putMx c (mxPopped s c rest) p
    (cellAt s' c).mxf = some p ∧ (cellAt s' c).mxq = rest ∧ s'.mem = s.mem ∧ thr s' c t = thr s c t := by
  have cell : cellAt (putMx c (mxPopped s c rest) p) c =
      freedQueue 12 1 s.cyc.toNat { cellAt s c with mxq := rest, mxPop := s.cyc.toNat + 1, mxf := some p } := by
    rw [putMx, cellAt_modCell_same, mxPopped, cellAt_modCell_same]
    rfl
  refine ⟨?_, ?_, rfl, ?_⟩
  · rw [cell]
    rfl
  · rw [cell]
    rfl
  · rw [thr, cell]
    rfl

theorem registersOnly_eq (o : EngOp) : registersOnly o = !engineMemory o.insn := by
  rw [registersOnly, engineMemory_eq, Bool.not_or]

/-- The head of the queue is old enough, and the engine has started nothing in this cycle. -/
structure MxHead (s : State) (c : Nat) (o : EngOp) (rest : List EngOp) : Prop where
  queue : (cellAt s c).mxq = o :: rest
  aged : o.pushed < s.cyc.toNat
  paced : (cellAt s c).mxPop ≤ s.cyc.toNat

theorem startMx_crossed (h : MxHead s c o rest) (crossed : crossWaits ((cellAt s c).vxf.toList ++ (cellAt s c).vxq) o = true) :
    startMx s c = none := by
  simp [startMx, h.queue, crossed]

section clear
variable (h : MxHead s c o rest) (clear : crossWaits ((cellAt s c).vxf.toList ++ (cellAt s c).vxq) o = false)
include h clear

theorem startMx_idle (idle : (cellAt s c).mxf = none) : startMx s c = beginMx (mxPopped s c rest) c (BitVec.ofNat 3 o.th) o := by
  simp only [startMx, h.queue, clear, idle, decide_eq_false (Nat.not_le.mpr h.aged), decide_eq_false (Nat.not_lt.mpr h.paced)]
  rfl

theorem startMx_beside_waits (busy : (cellAt s c).mxf = some p)
    (waits : mxClash p o = true ∨ engineMemory o.insn = true ∨ s.cyc.toNat < o.pushed + Config.engineDelay o.id) : startMx s c = none := by
  have held : (mxClash p o || !registersOnly o || decide (s.cyc.toNat < o.pushed + Config.engineDelay o.id)) = true := by
    rcases waits with clash | mem | early
    · simp [clash]
    · simp [registersOnly_eq, mem]
    · simp [early]
  simp only [startMx, h.queue, clear, busy, held, if_true, ite_self]

section beside
variable (busy : (cellAt s c).mxf = some p) (apart : mxClash p o = false) (reg : engineMemory o.insn = false)
  (late : o.pushed + Config.engineDelay o.id ≤ s.cyc.toNat)
include busy apart reg late

theorem startMx_beside : startMx s c = match mxStartFault s c o with
    | some e => some (engineFault s c (BitVec.ofNat 3 o.th) o e)
    | none => completeOp (mxPopped s c rest) c { o with start := s.cyc.toNat, keys := some [] } := by
  have free : (mxClash p o || !registersOnly o || decide (s.cyc.toNat < o.pushed + Config.engineDelay o.id)) = false := by
    simp [apart, registersOnly_eq, reg, late]
  simp only [startMx, h.queue, clear, busy, free, decide_eq_false (Nat.not_le.mpr h.aged), decide_eq_false (Nat.not_lt.mpr h.paced)]
  rfl

theorem startMx_beside_faults {e : Cause} (bad : mxStartFault s c o = some e) :
    startMx s c = some (engineFault s c (BitVec.ofNat 3 o.th) o e) := by
  rw [startMx_beside h clear busy apart reg late, bad]

theorem startMx_beside_completes (sound : mxStartFault s c o = none) :
    startMx s c = completeOp (mxPopped s c rest) c { o with start := s.cyc.toNat, keys := some [] } := by
  rw [startMx_beside h clear busy apart reg late, sound]

end beside

end clear

theorem beginMx_faults {e : Cause} (h : mxStartFault s c o = some e) : beginMx s c t o = some (engineFault (putMx c s o) c t o e) := by
  rw [beginMx, h]

section sound
variable (sound : mxStartFault s c o = none)
include sound

theorem beginMx_registers (reg : engineMemory o.insn = false) :
    beginMx s c t o = some (putMx c s { o with start := s.cyc.toNat, runs := [], keys := some [] }) := by
  rw [beginMx, sound]
  dsimp only
  split
  case h_6 => exact beginOp_registers (loadsRuns_of_registers reg)
  all_goals
    rename_i insn
    simp [insn, engineMemory] at reg

/-- `tld` reads the runs of its rows, and checks the band scales that it read. -/
theorem beginMx_tld {g : Guard} {src : Src} {sp : VSpace} {n : BitVec 3} {rs : List (Place × Nat)} (insn : o.insn = .tld g src sp n)
    (places : placesOf s c t (spaceOf sp) false (tileRuns o (opShape o.tcfgA) (opFmt o)) = .ok rs) (here : ReadHere s c t o rs p)
    (bands : p.data.bind (loadedBandFault p) = none) : beginMx s c t o = some (putMx c s p) := by
  have loads : loadsRuns o.insn = true := by rw [insn]; rfl
  have flight : (cellAt (putMx c s p) c).mxf = some p := by rw [putMx, cellAt_modCell_same]
  rw [beginMx, sound]
  dsimp only
  rw [insn]
  dsimp only
  rw [places, beginOp_here loads here, Option.map_some, checkLoaded, flight]
  dsimp only
  rw [bands]

/-- `mmsk` reads its skip list. -/
theorem beginMx_mmsk {g : Guard} {src : Src} {k a : BitVec 2} {n : BitVec 3} {bs : List Byte} (insn : o.insn = .mmsk g src k n a)
    (read : readSkip s c t o k = .ok (.ok bs)) :
    beginMx s c t o = some (putMx c s { o with start := s.cyc.toNat, runs := [], keys := some [], data := some bs }) := by
  cases o
  cases insn
  rw [beginMx, sound]
  dsimp only
  rw [read]
  exact beginOp_registers rfl

end sound

theorem skipByte_of_read {off : Nat} (ok : localOk (posOf s c (thr s c t).ctx.toNat) off 1 false false = true) :
    skipByte s c t o off = some (leNat (viewDirect s ((thr s c t).effects.take o.neff) (.loc c off) 1)) := by
  rw [skipByte, if_pos ok]

/-- The bytes of a skip list that lies in a region of the context, and that nothing hides. -/
theorem readSkip_walk {k : BitVec 2} {walk : List (List Nat)} (rows : walk.length = (opShape o.tcfgA).rows)
    (rowWalks : ∀ bs ∈ walk, RowWalk ((opShape o.tcfgB).e / 8) (opShape o.tcfgA).e bs) (bound : skipStart s c t k + walk.flatten.length ≤ 0x16000)
    (bytes : Spells (skipByte s c t o) (skipStart s c t k) walk.flatten)
    (known : viewUnknown ((thr s c t).effects.take o.neff) (locKey c (skipStart s c t k)) walk.flatten.length = false)
    (clear : directAhead s c t (keysFrom (locKey c (skipStart s c t k)) walk.flatten.length) = false) (sound : o.id ∉ s.opErrors) :
    readSkip s c t o k = .ok (.ok (walk.flatten.map (BitVec.ofNat 8))) := by
  have read : skipRead o (skipByte s c t o) (skipStart s c t k) = .ok (walk.map kept, skipStart s c t k + walk.flatten.length) := by
    rw [skipRead, ← rows]
    exact skipRows_walk walk _ bytes rowWalks bound
  have listed : (List.range walk.flatten.length).map (fun i => BitVec.ofNat 8 ((skipByte s c t o (skipStart s c t k + i)).getD 0)) =
      walk.flatten.map (BitVec.ofNat 8) := by
    refine List.ext_getElem (by rw [List.length_map, List.length_range, List.length_map]) (fun i hi hi' => ?_)
    rw [List.length_map] at hi'
    rw [List.getElem_map, List.getElem_map, List.getElem_range, bytes i hi', List.getD_eq_getElem _ _ hi', Option.getD_some]
  have ok : s.opErrors.contains o.id = false := by simpa using sound
  simp only [readSkip, ok, read, Nat.add_sub_cancel_left, known, clear, listed]
  rfl

end matrix

end Sys2Proof.Proofs
end

section

namespace Sys2Proof.Proofs

open Sys2Proof Sys2Proof.Machine Sys2Proof.Claims

/-! ## The join of a grove completes (R175) -/

section join
variable {s s' : State} {c c' : Nat} {bs : List Byte}

theorem mxf_putMx (s : State) (c c' : Nat) (o : EngOp) : (cellAt (putMx c s o) c').mxf = if c' = c then some o else (cellAt s c').mxf := by
  rw [putMx, cellAt_modCell]
  split <;> rfl

/-- An entrant once B has reached it. -/
def given (bs : List Byte) (o : EngOp) : EngOp := { o with joined := false, data := some bs, keys := some [] }

/-- What is in flight at an entrant's cell once B has reached it. -/
def giveTo (bs : List Byte) (m : Option EngOp) : Option EngOp := (m.filter (·.joined)).elim m (fun o => some (given bs o))

theorem giveTo_joins {m : Option EngOp} {o : EngOp} (h : m.filter (·.joined) = some o) : giveTo bs m = some (given bs o) := by
  rw [giveTo, h]
  rfl

theorem giveTo_passes {m : Option EngOp} (h : m.filter (·.joined) = none) : giveTo bs m = m := by
  rw [giveTo, h]
  rfl

theorem filter_giveTo (bs : List Byte) (m : Option EngOp) : (giveTo bs m).filter (·.joined) = none := by
  cases h : m.filter (·.joined) with
  | none => rw [giveTo_passes h, h]
  | some o =>
    rw [giveTo_joins h]
    rfl

/-- Every entrant among the cells has band scales that are allowed. -/
def BandsAllowed (bs : List Byte) (l : List Nat) (s : State) : Prop := ∀ c ∈ l, ∀ o, joinOp s c = some o → entrantBandsOk o bs = true

theorem giveEntrant_spec (allowed : ∀ o, joinOp s c = some o → entrantBandsOk o bs = true) : (giveEntrant bs s c).groves = s.groves ∧
    ∀ c', (cellAt (giveEntrant bs s c) c').mxf = if c' = c then giveTo bs (cellAt s c).mxf else (cellAt s c').mxf := by
  unfold giveEntrant
  cases h : joinOp s c with
  | none =>
    refine ⟨rfl, fun c' => ?_⟩
    dsimp only
    split
    · rename_i same
      rw [giveTo_passes h, same]
    · rfl
  | some o =>
    dsimp only
    rw [if_pos (allowed o h)]
    refine ⟨rfl, fun c' => ?_⟩
    rw [mxf_putMx, giveTo_joins h]
    rfl

theorem foldl_giveEntrant (l : List Nat) : ∀ s : State, BandsAllowed bs l s → (l.foldl (giveEntrant bs) s).groves = s.groves ∧
    ∀ c, (cellAt (l.foldl (giveEntrant bs) s) c).mxf = if c ∈ l then giveTo bs (cellAt s c).mxf else (cellAt s c).mxf := by
  induction l with
  | nil => exact fun s _ => ⟨rfl, fun c => by simp⟩
  | cons a l ih =>
    intro s allowed
    obtain ⟨groves, first⟩ := giveEntrant_spec (allowed a List.mem_cons_self)
    have later : BandsAllowed bs l (giveEntrant bs s a) := by
      intro c hc o h
      rw [joinOp, first] at h
      split at h
      · rw [filter_giveTo] at h
        cases h
      · exact allowed c (List.mem_cons_of_mem _ hc) o h
    obtain ⟨groves', rest⟩ := ih _ later
    refine ⟨groves'.trans groves, fun c => (rest c).trans ?_⟩
    rw [first]
    by_cases same : c = a
    · subst same
      simp [giveTo_passes (filter_giveTo _ _)]
    · simp [same]

theorem completeJoin_bytes {j : Join} {g ctx : Nat} (found : (groveAt s g).joins.find? (fun j => j.ctx == ctx && j.cells.length == 16) = some j)
    (read : joinRead s j g = .bytes bs) : completeJoin s g ctx =
      some (j.cells.foldl (giveEntrant bs) (modGrove s g (fun x => { x with joins := x.joins.filter (fun k => k.ctx != ctx) }))) := by
  rw [completeJoin, found]
  dsimp only
  rw [read]

end join

/-! ## `vrecv` times out (R159) -/

section vrecv
variable {s : State} {c : Nat} {o : EngOp}

theorem timeoutVrecv_late {g : Guard} {src : Src} {ty : ElTy} {d : BitVec 5} (flight : (cellAt s c).vxf = some o) (insn : o.insn = .vrecv g src ty d)
    (empty : recvHead s c o = none) (armed : o.a.toNat % 2 ^ 32 ≠ 0) (late : o.a.toNat % 2 ^ 32 ≤ s.cyc.toNat - o.start) :
    timeoutVrecv s c = some (endVrecv s c (BitVec.ofNat 3 o.th) o d (BitVec.ofNat 64 o.cnt ||| 0x2000000000000000#64)) := by
  have limit : (o.a.extractLsb' 0 32).toNat = o.a.toNat % 2 ^ 32 := by rw [toNat_field, pow_zero, Nat.div_one]
  rw [timeoutVrecv, flight]
  dsimp only
  rw [insn]
  simp only [limit, empty, bne_iff_ne.mpr armed, late]
  rfl

/-- A register operation that leaves the engine: its registers, the empty engine, and its latch. -/
theorem finishVx_spec (s : State) (c : Nat) (t : BitVec 3) (o : EngOp) (r : VRes) : (cellAt (finishVx s c t o r) c).v = writeVs (cellAt s c).v r.v ∧
    (cellAt (finishVx s c t o r) c).vxf = none ∧ latchHolds (finishVx s c t o r) c t 11 (cellAt s c).vxq r.y := by
  unfold finishVx opDone
  refine ⟨by simp, by simp, fun none_ => ?_⟩
  have alone : opsOf t (cellAt s c).vxq = [] := by
    rw [opsOf, List.filter_eq_nil_iff]
    intro p hp
    simpa using none_ p hp
  simp [alone]

/-- The messages that a `vrecv` of an irrevocable take frees leave the vector registers and the engine. -/
theorem endVrecv_spec (s : State) (c : Nat) (t : BitVec 3) (o : EngOp) (d : BitVec 5) (y : Word) : rget (cellAt (endVrecv s c t o d y) c).v d = o.part ∧
    (cellAt (endVrecv s c t o d y) c).vxf = none ∧ latchHolds (endVrecv s c t o d y) c t 11 (cellAt s c).vxq y := by
  unfold endVrecv
  dsimp only
  generalize freed : (if (thr s c t).phase == .irrevocable then
    modThr (consumeAll s c (thr s c t).consumed) c t (fun x => { x with consumed := [] }) else s) = s'
  have queue : (cellAt s' c).vxq = (cellAt s c).vxq := by
    rw [← freed]
    split
    · rw [cellAt_modThr_vxq]
      exact (kept_consumeAll (part := Cell.vxq) (dpart := fun _ => ()) (fun _ _ _ _ _ => rfl) c _).cell c
    · rfl
  obtain ⟨v, flight, latch⟩ := finishVx_spec s' c t o { VRes.vec d o.part with y := y }
  rw [queue] at latch
  refine ⟨?_, flight, latch⟩
  rw [v]
  simp [writeVs, VRes.vec]

end vrecv
/-! ## The `cp` unit serves its head (R215 to R219) -/

section copies
variable {s : State} {c : Nat} {t : BitVec 3} {o : EngOp} {rest : List EngOp}

/-- The head of the `cp` queue, which its thread waits for. -/
structure CpHead (s : State) (c : Nat) (t : BitVec 3) (o : EngOp) (rest : List EngOp) : Prop where
  queue : (cellAt s c).cpq = o :: rest
  own : o.th = t.toNat
  waits : rget (thr s c t).y 13#4 = .pending .engine

theorem CpHead.thread (h : CpHead s c t o rest) : BitVec.ofNat 3 o.th = t := by
  rw [h.own, BitVec.ofNat_toNat, BitVec.setWidth_eq]

theorem unitDone_cp (h : CpHead s c t o rest) : unitDone s c t 13#4 = serveCp s c := by
  rw [unitDone, h.waits]
  dsimp only
  rw [h.queue]
  simp [h.own]

theorem exec_cp {th : Nat} (h : CpHead s c (BitVec.ofNat 3 th) o rest) : exec (.unitOpComplete c th 13) s = event s (serveCp s c) :=
  (exec_unitOpComplete ..).trans (congrArg (event s) (unitDone_cp h))

theorem serveCp_young (h : CpHead s c t o rest) (young : s.cyc.toNat ≤ o.pushed) : serveCp s c = none := by
  simp [serveCp, h.queue, young]

/-- The head of the `cp` queue leaves with a result. -/
structure CpLeft (s s' : State) (c : Nat) (t : BitVec 3) (rest : List EngOp) (y : Word) : Prop where
  queue : (cellAt s' c).cpq = rest
  latch : latchHolds s' c t 13 rest y
  fifo : (cellAt s' c).fifo = (cellAt s c).fifo
  take : ∃ l, thr s' c t = { thr s c t with y := l } ∧ ∀ u, u ≠ 13#4 → rget l u = rget (thr s c t).y u
  engines : vxOps (cellAt s' c) t = vxOps (cellAt s c) t ∧ mxOps (cellAt s' c) t = mxOps (cellAt s c) t
  state : ∃ cells, s' = { s with cells := cells }

theorem cpLeft_cpDone (queue : (cellAt s c).cpq = o :: rest) (y : Word) : CpLeft s (cpDone s c t y) c t rest y := by
  have cell : cellAt (modCell s c (fun x => freedQueue 13 1 s.cyc.toNat { x with cpq := x.cpq.drop 1 })) c =
      freedQueue 13 1 s.cyc.toNat { cellAt s c with cpq := rest } := by
    rw [cellAt_modCell_same, queue]
    rfl
  unfold cpDone opDone
  refine ⟨?_, fun none_ => ?_, ?_, ?_, ?_, _, rfl⟩
  · rw [cellAt_modThr_cpq, cell]
    rfl
  · have alone : cpOps (freedQueue 13 1 s.cyc.toNat { cellAt s c with cpq := rest }) t = [] := by
      rw [cpOps, opsOf, List.filter_eq_nil_iff]
      intro p hp
      simpa using none_ p hp
    dsimp only
    rw [thr_modThr_same, cell, alone]
    exact rget_rset_same ..
  · rw [cellAt_modThr_fifo, cell]
    rfl
  · dsimp only
    rw [thr_modThr_same, thr, cell]
    refine ⟨_, rfl, fun u other => ?_⟩
    split
    · rfl
    · exact rget_rset_ne _ other _
  · dsimp only
    simp only [vxOps, mxOps, cellAt_modThr_vxf, cellAt_modThr_vxq, cellAt_modThr_mxf, cellAt_modThr_mxq, cell]
    exact ⟨rfl, rfl⟩

/-! ### Counting entries -/

/-- The numbers of the 16 entries. -/
def entries : List (BitVec 4) := (List.range 16).map (BitVec.ofNat 4)

theorem mem_entries (i : BitVec 4) : i ∈ entries :=
  List.mem_map.mpr ⟨i.toNat, List.mem_range.mpr i.isLt, BitVec.ofNat_toNat .. |>.trans (BitVec.setWidth_eq i)⟩

theorem nodup_entries : entries.Nodup := by decide

theorem toList_fifo {α : Type} (fifo : RegFile 4 α) : fifo.toList = entries.map (rget fifo) := by
  refine List.ext_getElem (by simp [entries]) (fun i hi hi' => ?_)
  have small : i < 16 := by simpa using hi
  simp [entries, rget, Nat.mod_eq_of_lt small]

/-- As many entries of the FIFO as `p` holds of. -/
def Counts (fifo : RegFile 4 FifoEntry) (p : FifoEntry → Prop) (k : Nat) : Prop :=
  ∃ l : List (BitVec 4), l.Nodup ∧ (∀ i, i ∈ l ↔ p (rget fifo i)) ∧ l.length = k

theorem counts_countFifo {p : FifoEntry → Prop} {f : FifoEntry → Bool} (x : Cell) (h : ∀ e, f e = true ↔ p e) : Counts x.fifo p (countFifo x f) := by
  refine ⟨entries.filter (fun i => f (rget x.fifo i)), nodup_entries.filter _, fun i => ?_, ?_⟩
  · rw [List.mem_filter, ← h]
    exact and_iff_right (mem_entries i)
  · rw [countFifo, toList_fifo, List.filter_map, List.length_map]
    rfl

/-- Whether an entry is kicked for the context, as `pollWord` asks it. -/
theorem kickedFor_iff (ctx : Nat) (e : FifoEntry) :
    ((match e.st with | .kicked _ _ => true | _ => false) && e.ctx == ctx) = true ↔ (∃ a b, e.st = .kicked a b) ∧ e.ctx = ctx := by
  rw [Bool.and_eq_true, beq_iff_eq]
  refine and_congr_left (fun _ => ?_)
  split
  · rename_i a b kicked
    exact iff_of_true rfl ⟨a, b, kicked⟩
  · rename_i other
    exact iff_of_false Bool.false_ne_true (fun ⟨a, b, kicked⟩ => other a b kicked)

/-- All 16 entries are counted exactly where the condition holds of each. -/
theorem countFifo_eq_16 (x : Cell) (f : FifoEntry → Bool) : countFifo x f = 16 ↔ ∀ i, f (rget x.fifo i) = true := by
  have whole : entries.length = 16 := rfl
  rw [countFifo, toList_fifo, List.filter_map, List.length_map, ← whole, List.length_filter_eq_length_iff]
  exact ⟨fun h i => h i (mem_entries i), fun h i _ => h i⟩

/-! ### The checks of a push -/

/-- The operation is a `cpush`, which waits for an entry. -/
def Waits (o : EngOp) : Prop := ∃ g src, o.insn = .cpush g src

/-- An entry that the operation may take (R43, R218, R233). -/
def Usable (s : State) (c : Nat) (o : EngOp) (k : BitVec 4) : Prop :=
  (rget (cellAt s c).fifo k).st = .free ∧ (Waits o → (rget (cellAt s c).fifo k).since ≤ s.cyc.toNat)

/-- `Usable` as `freeFifo` asks it. -/
def usableBit (s : State) (c : Nat) (o : EngOp) (k : BitVec 4) : Bool :=
  (rget (cellAt s c).fifo k).st == .free && (match o.insn with
    | .cpush _ _ => decide ((rget (cellAt s c).fifo k).since ≤ s.cyc.toNat)
    | _ => true)

theorem freeFifo_eq (s : State) (c : Nat) (o : EngOp) : freeFifo s c o = entries.find? (usableBit s c o) := rfl

theorem usableBit_iff (s : State) (c : Nat) (o : EngOp) (k : BitVec 4) : usableBit s c o k = true ↔ Usable s c o k := by
  rw [usableBit, Bool.and_eq_true, beq_iff_eq, Usable]
  refine and_congr_right (fun _ => ?_)
  split
  · rename_i g src insn
    exact decide_eq_true_iff.trans ⟨fun old _ => old, fun old => old ⟨g, src, insn⟩⟩
  · rename_i other
    exact iff_of_true rfl (fun ⟨g, src, insn⟩ => absurd insn (other g src))

theorem freeFifo_usable (h : ∃ k, Usable s c o k) : ∃ k, freeFifo s c o = some k ∧ Usable s c o k := by
  obtain ⟨k, usable⟩ := h
  have some_ : (freeFifo s c o).isSome = true := by
    rw [freeFifo_eq, List.find?_isSome]
    exact ⟨k, mem_entries k, (usableBit_iff ..).mpr usable⟩
  obtain ⟨j, found⟩ := Option.isSome_iff_exists.mp some_
  exact ⟨j, found, (usableBit_iff ..).mp (List.find?_some (freeFifo_eq s c o ▸ found))⟩

theorem freeFifo_full (h : ∀ k, ¬Usable s c o k) : freeFifo s c o = none := by
  rw [freeFifo_eq, List.find?_eq_none]
  exact fun k _ => (usableBit_iff ..).not.mpr (h k)

/-- Where the reel header of a request stands. -/
def reelPlace (s : State) (c ctx : Nat) (w0 : Word) : Except Cause Place :=
  let addr := w0.toNat / 2 ^ 24 % 2 ^ 20 * 16
  if w0.getLsbD 47 then grvPlace s c ctx addr 16 true else locPlace s c ctx addr 16 true

theorem cpReel_eq (s : State) (c ctx : Nat) (w0 : Word) : cpReel s c ctx w0 = reelPlace s c ctx w0 := by
  rw [cpReel, toNat_field]
  rfl

section faults
variable {ctx : Nat}

theorem cpushFault_illegal (bad : (rget o.e 3#3).toNat / 2 ^ 17 ≠ 0) : cpushFault s c ctx o = some .illegal := by
  have high : ((rget o.e 3#3).extractLsb' 17 47 != 0) = true := by
    rw [bne_iff_ne, Ne, highBits_eq_zero_iff rfl, ← Nat.div_eq_zero_iff_lt (by decide)]
    exact bad
  rw [cpushFault, if_pos high]

theorem low4_ne_zero (w : Word) : (w.extractLsb' 0 4 != 0) = true ↔ w.toNat % 16 ≠ 0 := by
  rw [bne_iff_ne, Ne, ← BitVec.toNat_inj, toNat_field, pow_zero, Nat.div_one]
  rfl

/-- What is checked once e3 names an address of the cell. -/
theorem cpushFault_low (low : (rget o.e 3#3).toNat / 2 ^ 17 = 0) : cpushFault s c ctx o =
    if (rget o.e 3#3).toNat % 16 ≠ 0 then some .align
    else if localOk (posOf s c ctx) ((rget o.e 3#3).toNat % 2 ^ 17) 32 false false = false then some .perm
    else (match reelPlace s c ctx o.a with
      | .error e => some e
      | .ok (.here _) => none
      | .ok (.away _) => some .perm) := by
  have high : ((rget o.e 3#3).extractLsb' 17 47 != 0) = false := by
    rw [bne_eq_false_iff_eq, highBits_eq_zero_iff rfl, ← Nat.div_eq_zero_iff_lt (by decide)]
    exact low
  simp only [cpushFault, high, low4_ne_zero, cpReel_eq, toNat_field, pow_zero, Nat.div_one, Bool.not_eq_true', Bool.false_eq_true, if_false] <;>
    rfl

end faults

/-! ### The head is served -/

/-- The operation is a copy request: `cpush` or `cpushn`. -/
def Pushes (o : EngOp) : Prop := ∃ g src, o.insn = .cpush g src ∨ o.insn = .cpushn g src

section served
variable (h : CpHead s c t o rest) (aged : o.pushed < s.cyc.toNat)
include h aged

theorem serveCp_cpoll {g : Guard} {src : Src} (insn : o.insn = .cpoll g src) :
    serveCp s c = some (cpDone s c t (pollWord (cellAt s c) t (thr s c t).ctx.toNat)) := by
  simp only [serveCp, h.queue, h.thread, if_neg (Nat.not_le.mpr aged), insn]

variable (push : Pushes o)
include push

theorem serveCp_faults {e : Cause} (bad : cpushFault s c (thr s c t).ctx.toNat o = some e) : serveCp s c = some (cpFault s c t o e) := by
  obtain ⟨g, src, insn | insn⟩ := push
  · simp only [serveCp, h.queue, h.thread, if_neg (Nat.not_le.mpr aged), insn, bad]
  · simp only [serveCp, h.queue, h.thread, if_neg (Nat.not_le.mpr aged), insn, bad]

variable (sound : cpushFault s c (thr s c t).ctx.toNat o = none)
include sound

theorem serveCp_takes {k : BitVec 4} (found : freeFifo s c o = some k) : serveCp s c = reserveEntry (cpDone s c t 0) c t o k := by
  obtain ⟨g, src, insn | insn⟩ := push
  · simp only [serveCp, h.queue, h.thread, if_neg (Nat.not_le.mpr aged), insn, sound, found]
  · simp only [serveCp, h.queue, h.thread, if_neg (Nat.not_le.mpr aged), insn, sound, found]

end served

end copies

end Sys2Proof.Proofs
end

section

namespace Sys2Proof.Proofs

open Sys2Proof Sys2Proof.Machine Sys2Proof.Claims

section copies
variable {s s' : State} {c : Nat} {t : BitVec 3} {o : EngOp} {rest : List EngOp} {k : BitVec 4}

/-! ### A push with no entry free (R218) -/

section full
variable (h : CpHead s c t o rest) (aged : o.pushed < s.cyc.toNat) (sound : cpushFault s c (thr s c t).ctx.toNat o = none)
  (full : freeFifo s c o = none)
include h aged sound full

theorem serveCp_cpushn_full {g : Guard} {src : Src} (insn : o.insn = .cpushn g src) :
    serveCp s c = some (modThr (cpDone s c t 1) c t (fun x => { x with effects := fillKick o.id none x.effects })) := by
  simp only [serveCp, h.queue, h.thread, if_neg (Nat.not_le.mpr aged), insn, sound, full]

theorem serveCp_cpush_full {g : Guard} {src : Src} (insn : o.insn = .cpush g src) : serveCp s c =
    if (thr s c t).phase = .revocable ∧ (thr s c t).pinning = false ∧ ∀ i, (rget (cellAt s c).fifo i).st = .reserved t.toNat then
      some (modThr s c t (fun x => { x with pinning := true })) else none := by
  simp only [serveCp, h.queue, h.thread, if_neg (Nat.not_le.mpr aged), insn, sound, full, countFifo_eq_16, Bool.and_eq_true, decide_eq_true_eq,
    beq_iff_eq, Bool.not_eq_true', and_assoc]

end full

/-! ### The entry is reserved, or kicked (R216, R217) -/

theorem fillKick_eq (id : Nat) (i : Option (BitVec 4)) (es : List Effect) : fillKick id i es =
    es.map (fun e => if e = .kick id none then i.elim (.store [] 0 none (some []) false 0) (fun k => .kick id (some k)) else e) := by
  refine List.map_congr_left (fun e _ => ?_)
  split
  · rename_i j _
    by_cases same : j = id
    · subst same
      cases i <;> simp
    · simp [same]
  · rename_i other
    rw [if_neg (other id)]

theorem mayPerform_left (queue : (cellAt s c).cpq = o :: rest) (left : CpLeft s s' c t rest y) : mayPerform s' c t o.id = mayPerform s c t o.id := by
  obtain ⟨queue', -, -, ⟨l, take, others⟩, ⟨vx, mx⟩, cells, state⟩ := left
  have waits : awaitsAcquire (thr s' c t) = awaitsAcquire (thr s c t) := by
    rw [take, awaitsAcquire, awaitsAcquire]
    dsimp only
    rw [others 15#4 (by decide), others 14#4 (by decide)]
  have ranks : ldaRanks s' c t = ldaRanks s c t := by
    rw [state]
    rfl
  have next : s'.nextOp = s.nextOp := by
    rw [state]
  have earlier : (cpOps (cellAt s' c) t).any (fun p => decide (p.id < o.id)) = (cpOps (cellAt s c) t).any (fun p => decide (p.id < o.id)) := by
    rw [cpOps, cpOps, queue, queue', opsOf, opsOf, List.filter_cons]
    split
    · rw [List.any_cons, decide_eq_false (Nat.lt_irrefl _), Bool.false_or]
    · rfl
  rw [mayPerform, mayPerform, acquiring, acquiring, ranks, waits, next, earlier, vx, mx, take]

theorem mayPerform_fifo (s : State) (c : Nat) (t : BitVec 3) (n : Nat) (f : RegFile 4 FifoEntry → RegFile 4 FifoEntry) :
    mayPerform (modCell s c (fun y => { y with fifo := f y.fifo })) c t n = mayPerform s c t n := by
  simp only [mayPerform, acquiring, ldaRanks, thr, cellAt_modCell_same]
  rfl

/-- The reserved entry that a copy request leaves in a state where its head has left the queue. -/
theorem reservedEntry_left (left : CpLeft s s' c t rest y) : reservedEntry s' c t o = reservedEntry s c t o := by
  obtain ⟨l, take, -⟩ := left.take
  rw [reservedEntry, take, reservedEntry]

/-- The state with the entry reserved. -/
def reservedIn (s : State) (c : Nat) (t : BitVec 3) (o : EngOp) (k : BitVec 4) : State :=
  modCell s c (fun y => { y with fifo := rset y.fifo k (reservedEntry s c t o) })

theorem reserveEntry_eq (s : State) (c : Nat) (t : BitVec 3) (o : EngOp) (k : BitVec 4) : reserveEntry s c t o k =
    if (thr s c t).effects.contains (.kick o.id none) then
      some (modThr (reservedIn s c t o k) c t (fun x => { x with effects := fillKick o.id (some k) x.effects }))
    else if !mayPerform s c t o.id then none
    else
      match performAll c t (thr s c t).effects (reservedIn s c t o k) with
      | (s, [], _) => some (kickEntry (modThr s c t (fun x => { x with effects := [] })) c k)
      | _ => none := by
  rw [← mayPerform_fifo s c t o.id (fun fifo => rset fifo k (reservedEntry s c t o))]
  rfl

/-- Only the entry's own cell changes, and there only the FIFO. -/
theorem cellAt_reservedIn (s : State) (c : Nat) (t : BitVec 3) (o : EngOp) (k : BitVec 4) : cellAt (reservedIn s c t o k) c =
    { cellAt s c with fifo := rset (cellAt s c).fifo k (reservedEntry s c t o) } := cellAt_modCell_same ..

theorem cellAt_kickEntry (s : State) (c : Nat) (k : BitVec 4) : cellAt (kickEntry s c k) c = { cellAt s c with
    fifo := rset (cellAt s c).fifo k { rget (cellAt s c).fifo k with st := .kicked s.nextKick s.cyc.toNat } } :=
  cellAt_modCell_same s c (fun x => { x with fifo := rset x.fifo k { rget x.fifo k with st := .kicked s.nextKick s.cyc.toNat } })

/-- What reserving an entry leaves of the state where the head has left. -/
theorem thr_reservedIn (s : State) (c : Nat) (t : BitVec 3) (o : EngOp) (k : BitVec 4) : thr (reservedIn s c t o k) c t = thr s c t := by
  rw [thr, cellAt_reservedIn, thr]

section left
variable {s1 : State} {y : Word} (queue : (cellAt s c).cpq = o :: rest) (left : CpLeft s s1 c t rest y)
include left

theorem effects_left : (thr s1 c t).effects = (thr s c t).effects := by
  obtain ⟨l, take, -⟩ := left.take
  rw [take]

/-- The kick of a reserved entry is held: the take may yet be undone. -/
theorem reserveEntry_held (held : (thr s c t).effects.contains (.kick o.id none) = true) :
    let s2 := modThr (reservedIn s1 c t o k) c t (fun x => { x with effects := fillKick o.id (some k) x.effects })
    reserveEntry s1 c t o k = some s2 ∧ (cellAt s2 c).cpq = rest ∧ latchHolds s2 c t 13 rest y ∧
      (cellAt s2 c).fifo = rset (cellAt s c).fifo k (reservedEntry s c t o) ∧
      (thr s2 c t).effects = (thr s c t).effects.map (fun e => if e = .kick o.id none then .kick o.id (some k) else e) := by
  refine ⟨?_, ?_, fun none_ => ?_, ?_, ?_⟩
  · rw [reserveEntry_eq, effects_left left, if_pos held]
  · rw [cellAt_modThr_cpq, cellAt_reservedIn]
    exact left.queue
  · rw [thr_modThr_same, thr_reservedIn]
    exact left.latch none_
  · rw [cellAt_modThr_fifo, cellAt_reservedIn, left.fifo, reservedEntry_left left]
  · rw [thr_modThr_same, thr_reservedIn, effects_left left, fillKick_eq]
    rfl

/-- With no entry free, a `cpushn` leaves a store of nothing in the place of its kick. -/
theorem noEntry_answers :
    let s2 := modThr s1 c t (fun x => { x with effects := fillKick o.id none x.effects })
    (cellAt s2 c).cpq = rest ∧ latchHolds s2 c t 13 rest y ∧ (cellAt s2 c).fifo = (cellAt s c).fifo ∧
      (thr s2 c t).effects = (thr s c t).effects.map (fun e => if e = .kick o.id none then .store [] 0 none (some []) false 0 else e) := by
  refine ⟨(cellAt_modThr_cpq ..).trans left.queue, fun none_ => ?_, (cellAt_modThr_fifo ..).trans left.fifo, ?_⟩
  · rw [thr_modThr_same]
    exact left.latch none_
  · rw [thr_modThr_same, effects_left left, fillKick_eq]
    rfl

include queue

theorem reserveEntry_waits (none_ : (thr s c t).effects = []) (may : mayPerform s c t o.id = false) : reserveEntry s1 c t o k = none := by
  rw [reserveEntry_eq, effects_left left, none_, mayPerform_left queue left, may]
  rfl

/-- An irrevocable take kicks its entry at once. -/
theorem reserveEntry_kicks (none_ : (thr s c t).effects = []) (may : mayPerform s c t o.id = true) :
    let s2 := kickEntry (modThr (reservedIn s1 c t o k) c t (fun x => { x with effects := [] })) c k
    reserveEntry s1 c t o k = some s2 ∧ (cellAt s2 c).cpq = rest ∧ latchHolds s2 c t 13 rest y ∧
      (cellAt s2 c).fifo = rset (cellAt s c).fifo k { reservedEntry s c t o with st := .kicked s.nextKick s.cyc.toNat } ∧
      s2.nextKick = s.nextKick + 1 := by
  have next : s1.nextKick = s.nextKick ∧ s1.cyc = s.cyc := by
    obtain ⟨cells, state⟩ := left.state
    rw [state]
    exact ⟨rfl, rfl⟩
  refine ⟨?_, ?_, fun alone => ?_, ?_, congrArg (· + 1) next.1⟩
  · rw [reserveEntry_eq, effects_left left, none_, mayPerform_left queue left, may]
    rfl
  · rw [cellAt_kickEntry, cellAt_modThr_cpq, cellAt_reservedIn]
    exact left.queue
  · rw [thr, cellAt_kickEntry]
    change rget (thr (modThr (reservedIn s1 c t o k) c t _) c t).y 13#4 = _
    rw [thr_modThr_same, thr_reservedIn]
    exact left.latch alone
  · rw [cellAt_kickEntry, cellAt_modThr_fifo, cellAt_reservedIn, left.fifo, reservedEntry_left left, rset_rset, rget_rset_same]
    exact congrArg₂ (fun a b => rset (cellAt s c).fifo k { reservedEntry s c t o with st := .kicked a b.toNat }) next.1 next.2

end left

/-! ### The checks of a push whose e3 names an address of the cell (R218) -/

section checks
variable {ctx : Nat} (low : (rget o.e 3#3).toNat / 2 ^ 17 = 0)
include low

theorem cpushFault_odd (odd : (rget o.e 3#3).toNat % 16 ≠ 0) : cpushFault s c ctx o = some .align := by
  rw [cpushFault_low low, if_pos odd]

variable (aligned : (rget o.e 3#3).toNat % 16 = 0)
include aligned

theorem cpushFault_hidden (hidden : localOk (posOf s c ctx) ((rget o.e 3#3).toNat % 2 ^ 17) 32 false false = false) :
    cpushFault s c ctx o = some .perm := by
  rw [cpushFault_low low, if_neg (not_not.mpr aligned), if_pos hidden]

variable (readable : localOk (posOf s c ctx) ((rget o.e 3#3).toNat % 2 ^ 17) 32 false false = true)
include readable

theorem cpushFault_refused {e : Cause} (refused : reelPlace s c ctx o.a = .error e) : cpushFault s c ctx o = some e := by
  rw [cpushFault_low low, if_neg (not_not.mpr aligned), readable, refused]
  rfl

theorem cpushFault_passes {tgt : Target} (place : reelPlace s c ctx o.a = .ok (.here tgt)) : cpushFault s c ctx o = none := by
  rw [cpushFault_low low, if_neg (not_not.mpr aligned), readable, place]
  rfl

end checks

end copies
end Sys2Proof.Proofs
end

section

namespace Sys2Proof.Proofs

open Sys2Proof Sys2Proof.Machine Sys2Proof.Claims

/-- Settles O43: each event is the lemma on its function (`acquireFiles`, `startVx`, `startMx`, `completeJoin`, `timeoutVrecv`, `serveCp`); what an
operation checks and reads it checks after it has left its queue, which changes none of that (`QueuesOnly`). -/
theorem engineStarts : Obligations.EngineStarts := by
  unfold Obligations.EngineStarts
  refine ⟨fun s c t rest free first => ?files, fun s c o rest idle queue aged paced clear => ⟨?vld, ?vregs, ?vfault⟩,
    fun s c o rest queue aged paced => ?mx, fun s g ctx j bs found read allowed => ?join, fun s c o g src ty d flight insn empty armed late => ?vrecv,
    fun s c th o rest => ?cp⟩
  case files =>
    refine (exec_engineFileAcquire ..).trans (event_some ((acquireFiles_waiting free first).trans ?_))
    rw [modCell, modCell, takeFiles_eq]
    rfl
  case vld =>
    intro g src sp part d rs p sound insn places here
    have head : VxHead s c o rest := ⟨idle, queue, aged, paced, clear⟩
    have popped := queuesOnly_vxPopped s c (BitVec.ofNat 3 o.th) rest
    rw [← popped.vxNarrow, ← popped.thr, ← popped.vxOperandFault] at sound
    have loads : loadsRuns o.insn = true := by rw [insn]; rfl
    have begins := beginVx_vld sound insn
    rw [popped.vmemPlaces, places, beginOp_here loads (popped.readHere here)] at begins
    exact ⟨_, (exec_vxOpStart ..).trans (event_some ((startVx_head head).trans begins)), putVx_popped ..⟩
  case vregs =>
    intro sound reg
    have head : VxHead s c o rest := ⟨idle, queue, aged, paced, clear⟩
    have popped := queuesOnly_vxPopped s c (BitVec.ofNat 3 o.th) rest
    rw [← popped.vxNarrow, ← popped.thr, ← popped.vxOperandFault] at sound
    have begins := beginVx_registers sound reg
    rw [popped.cyc, popped.thr] at begins
    exact ⟨_, (exec_vxOpStart ..).trans (event_some ((startVx_head head).trans begins)), putVx_popped ..⟩
  case vfault =>
    intro bad
    have head : VxHead s c o rest := ⟨idle, queue, aged, paced, clear⟩
    have popped := queuesOnly_vxPopped s c (BitVec.ofNat 3 o.th) rest
    obtain ⟨e, bad⟩ := Option.ne_none_iff_exists'.mp bad
    rw [← popped.vxNarrow, ← popped.thr, ← popped.vxOperandFault] at bad
    exact ⟨_, (exec_vxOpStart ..).trans (event_some ((startVx_head head).trans (beginVx_faults bad))), takeEnded_engineFault ..⟩
  case mx =>
    intro t x fault crossed popped begun
    have head : MxHead s c o rest := ⟨queue, aged, paced⟩
    have same := queuesOnly_mxPopped s c rest
    have begins : ∀ p, startMx s c = some (putMx c (mxPopped s c rest) p) → begun p := fun p h =>
      ⟨_, (exec_mxOpStart ..).trans (event_some h), putMx_popped ..⟩
    refine ⟨fun cross => (exec_mxOpStart ..).trans (event_none (startMx_crossed head cross)), fun clear idle => ?_,
      fun p clear busy => ⟨fun waits => ?_, fun apart reg late => ⟨fun bad => ?_, fun sound s' completed => ?_⟩⟩⟩
    · have starts := startMx_idle head clear idle
      have faults : mxStartFault (mxPopped s c rest) c o = fault := same.mxStartFault c o
      refine ⟨fun bad => ?_, fun sound reg => ?_, fun g src sp n rs p sound insn places here bands => ?_,
        fun g src k n q sound insn => ?_⟩
      · obtain ⟨e, bad⟩ := Option.ne_none_iff_exists'.mp bad
        exact ⟨_, (exec_mxOpStart ..).trans (event_some (starts.trans (beginMx_faults (faults.trans bad)))), takeEnded_engineFault ..⟩
      · exact begins _ (starts.trans (beginMx_registers (faults.trans sound) reg))
      · rw [← same.placesOf] at places
        exact begins _ (starts.trans (beginMx_tld (faults.trans sound) insn places (same.readHere here) bands))
      · intro a off walk rows rowWalks bound bytes known clearAhead clean
        have offset : off = skipStart s c t k := by rw [skipStart, toNat_field, pow_zero, Nat.div_one]
        have spells : Spells (skipByte s c t o) (skipStart s c t k) walk.flatten := by
          intro j hj
          obtain ⟨ok, byte⟩ := bytes j hj
          rw [← offset, skipByte_of_read ok, byte]
        rw [offset] at bound known clearAhead
        have read := readSkip_walk rows rowWalks bound spells known clearAhead clean
        rw [← same.readSkip] at read
        exact begins _ (starts.trans (beginMx_mmsk (faults.trans sound) insn read))
    · exact (exec_mxOpStart ..).trans (event_none (startMx_beside_waits head clear busy waits))
    · obtain ⟨e, bad⟩ := Option.ne_none_iff_exists'.mp bad
      exact ⟨_, (exec_mxOpStart ..).trans (event_some (startMx_beside_faults head clear busy apart reg late bad)), takeEnded_engineFault ..⟩
    · exact (exec_mxOpStart ..).trans (event_some ((startMx_beside_completes head clear busy apart reg late sound).trans completed))
  case join =>
    have completed := completeJoin_bytes found read
    obtain ⟨groves, flights⟩ :=
      foldl_giveEntrant j.cells (modGrove s g (fun x => { x with joins := x.joins.filter (fun k => k.ctx != ctx) })) allowed
    refine ⟨_, (exec_gmmaJoinComplete ..).trans (event_some completed), fun k hk => ?_, fun c hc o entrant => ?_⟩
    · rw [groveAt, groves, modGrove, tget_tput_same] at hk
      simpa using (List.mem_filter.mp hk).2
    · rw [flights, if_pos hc]
      exact giveTo_joins entrant
  case vrecv =>
    exact ⟨_, (exec_vrecvTimeout ..).trans (event_some (timeoutVrecv_late flight insn empty armed late)), endVrecv_spec ..⟩
  case cp =>
    intro t x fifo w3 serve queue own waits served count
    have head : CpHead s c t o rest := ⟨queue, own, waits⟩
    have serves : ∀ {s'}, serveCp s c = some s' → serve = .next s' := fun h => (exec_cp head).trans (event_some h)
    have idles : serveCp s c = none → serve = .next s := fun h => (exec_cp head).trans (event_none h)
    refine ⟨fun young => idles (serveCp_young head young), fun aged => ⟨fun g src insn => ?cpoll, ?push⟩⟩
    case cpoll =>
      have left := cpLeft_cpDone (t := t) queue (pollWord (cellAt s c) t x.ctx.toNat)
      have mem : (cpDone s c t (pollWord (cellAt s c) t x.ctx.toNat)).mem = s.mem := by
        obtain ⟨cells, state⟩ := left.state
        rw [state]
      exact ⟨_, _, _, _, ⟨serves (serveCp_cpoll head aged insn), left.queue, left.latch⟩, counts_countFifo _ (kickedFor_iff _),
        counts_countFifo _ (fun _ => beq_iff_eq), counts_countFifo _ (fun _ => beq_iff_eq), left.fifo, mem⟩
    case push =>
      intro push fault addr place readable waited usable
      have faults : ∀ {e}, cpushFault s c x.ctx.toNat o = some e → serve = .next (fault e) := fun bad =>
        serves (serveCp_faults head aged push bad)
      refine ⟨fun high => faults (cpushFault_illegal high), fun low odd => faults (cpushFault_odd low odd),
        fun low aligned hidden => faults (cpushFault_hidden low aligned hidden),
        fun low aligned shown e refused => faults (cpushFault_refused low aligned shown refused), fun low aligned shown ⟨tgt, here⟩ => ?_⟩
      have sound := cpushFault_passes low aligned shown here
      refine ⟨fun free held => ?_, fun free none_ => ⟨fun may => ?_, fun may => ?_⟩, fun full ⟨g, src, insn⟩ => ?_,
        fun full ⟨g, src, insn⟩ => ?_⟩
      · obtain ⟨k, found, usable⟩ := freeFifo_usable free
        obtain ⟨reserved, left, latch, entry, kicks⟩ := reserveEntry_held (k := k) (cpLeft_cpDone queue 0) held
        exact ⟨_, k, usable, ⟨serves ((serveCp_takes head aged push sound found).trans reserved), left, latch⟩, entry, kicks⟩
      · obtain ⟨k, found, usable⟩ := freeFifo_usable free
        obtain ⟨kicked, left, latch, entry, next⟩ := reserveEntry_kicks (k := k) queue (cpLeft_cpDone queue 0) none_ may
        exact ⟨_, k, usable, ⟨serves ((serveCp_takes head aged push sound found).trans kicked), left, latch⟩, entry, next⟩
      · obtain ⟨k, found, -⟩ := freeFifo_usable free
        exact idles ((serveCp_takes head aged push sound found).trans (reserveEntry_waits queue (cpLeft_cpDone queue 0) none_ may))
      · obtain ⟨left, latch, entries, effects⟩ := noEntry_answers (cpLeft_cpDone (t := t) queue 1)
        exact ⟨_, ⟨serves (serveCp_cpushn_full head aged sound (freeFifo_full full) insn), left, latch⟩, entries, effects⟩
      · have waits := serveCp_cpush_full head aged sound (freeFifo_full full) insn
        refine ⟨fun own rev unpinned => serves (waits.trans (if_pos ⟨rev, unpinned, own⟩)), fun other => idles (waits.trans (if_neg ?_))⟩
        rintro ⟨rev, unpinned, own⟩
        rcases other with notOwn | notRev | pinning
        · exact notOwn own
        · exact notRev rev
        · rw [unpinned] at pinning
          cases pinning
end Sys2Proof.Proofs
end

section

namespace Sys2Proof.Proofs

open Sys2Proof Sys2Proof.Machine Sys2Proof.Claims

/-! ## Reel headers (R263) -/

section headers
variable (h : BitVec 128) (c : BitVec 32)

theorem reelK_withC : reelK (withC h c) = reelK h := by
  rw [reelK, withC, BitVec.extractLsb'_append_eq_of_le (by decide), BitVec.extractLsb'_append_eq_of_le (by decide)]
  simp [reelK]

theorem reelZ_withC : reelZ (withC h c) = reelZ h := by
  rw [reelZ, withC, BitVec.extractLsb'_append_eq_of_le (by decide), BitVec.extractLsb'_append_eq_of_le (by decide)]
  refine congrArg BitVec.toNat (BitVec.eq_of_getLsbD_eq (fun i hi => ?_))
  simp only [BitVec.getLsbD_extractLsb', decide_eq_true hi, ← Nat.add_assoc, Bool.true_and, Bool.and_eq_right_iff_imp, decide_eq_true_eq]
  omega

theorem reelW_withC : reelW (withC h c) = reelW h := by
  rw [reelW, withC, BitVec.extractLsb'_append_eq_of_add_le (by decide), BitVec.extractLsb'_extractLsb'_of_le (by decide), reelW]

theorem reelSlot_withC (i : BitVec 32) : reelSlot (withC h c) i = reelSlot h i := by rw [reelSlot, reelK_withC, reelZ_withC, reelSlot]

theorem slotKeys_withC (k n : Nat) (i : BitVec 32) : slotKeys k (withC h c) i n = slotKeys k h i n := by
  rw [slotKeys, reelSlot_withC, slotKeys]

end headers

/-! ## Where the place references of a launch lead (R281, R285) -/

section places
variable {s s' s'' : State} {l : Launch}

/-- What place references are checked against is as before. -/
structure SamePlaces (s s' : State) : Prop where
  groves : s'.groves = s.groves
  regions : ∀ c ctx, (posOf s' c ctx).regions = (posOf s c ctx).regions

theorem SamePlaces.trans (h : SamePlaces s s') (h' : SamePlaces s' s'') : SamePlaces s s'' :=
  ⟨h'.groves.trans h.groves, fun c ctx => (h'.regions c ctx).trans (h.regions c ctx)⟩

theorem posOf_congr {c : Nat} (h : (cellAt s' c).pos = (cellAt s c).pos) (ctx : Nat) : posOf s' c ctx = posOf s c ctx := by
  rw [posOf, posIdx, h, posOf, posIdx]

theorem samePlaces_applyWrite (s : State) (ks : List Nat) (bs : List Byte) : SamePlaces s (applyWrite s ks bs) :=
  ⟨rfl, fun c ctx => congrArg Position.regions
    (posOf_congr ((kept_applyWrite (part := Cell.pos) (dpart := fun _ => ()) (fun _ _ _ => rfl) ks bs).cell c) ctx)⟩

theorem SamePlaces.groveCheck (h : SamePlaces s s') (g ctx a n : Nat) (w : Bool) : groveCheck s' g ctx a n w = groveCheck s g ctx a n w := by
  rw [Machine.groveCheck, groveAt, h.groves, Machine.groveCheck, groveAt]

theorem SamePlaces.launchPlace (h : SamePlaces s s') (l : Launch) (d : Nat) (w : Word) (n : Nat) (wr : Bool) :
    launchPlace s' l d w n wr = launchPlace s l d w n wr := by
  simp only [Machine.launchPlace, h.groveCheck, localOk, h.regions]
  rfl

theorem SamePlaces.launchSpan (h : SamePlaces s s') (l : Launch) (d : Nat) (w : Word) (n : Nat) (wr : Bool) :
    launchSpan s' l d w n wr = launchSpan s l d w n wr := by
  simp only [Machine.launchSpan, h.launchPlace]

theorem SamePlaces.reelsOk (h : SamePlaces s s') (l : Launch) (d : Nat) : reelsOk s' l d = reelsOk s l d := by
  simp only [Machine.reelsOk, h.groveCheck, h.launchSpan]

theorem SamePlaces.doneSlotOk (h : SamePlaces s s') (k : Nat) (start : BitVec 32) :
    doneSlotOk s' l k start = (Machine.launchPlace s l (firstDie l.desc)
      (descDone l.desc + BitVec.ofNat 64 (reelSlot (word128At s' k) start)) 16 true == some (k + reelSlot (word128At s' k) start)) := by
  rw [Machine.doneSlotOk, h.launchPlace]

/-! ## The end of a launch (R264, R286) -/

theorem doneReel_some {k : Nat} (h : doneReel s l = some k) : reelOk (word128At s k) = true ∧
    launchPlace s l (firstDie l.desc) (descDone l.desc) 16 true = some k := by
  unfold doneReel at h
  split at h
  · cases h
  · obtain ⟨j, place, ok⟩ := Option.bind_eq_some_iff.mp h
    split at ok
    · rename_i good
      cases ok
      exact ⟨good, place⟩
    · cases ok

/-- Slots are whole 16-B parts of the reel. -/
theorem reelSlot_parts {h : BitVec 128} (ok : reelOk h = true) (start : BitVec 32) :
    ∃ i, i < (16 + 2 ^ (reelK h + reelZ h)) / 16 ∧ reelSlot h start = 16 * i := by
  have z : 4 ≤ reelZ h := by
    simp only [reelOk, Bool.and_eq_true, decide_eq_true_eq] at ok
    obtain ⟨⟨⟨⟨-, z⟩, -⟩, -⟩, -⟩ := ok
    exact z
  obtain ⟨z', hz⟩ := Nat.exists_eq_add_of_le z
  have slot : start.toNat % 2 ^ reelK h < 2 ^ reelK h := Nat.mod_lt _ (Nat.two_pow_pos _)
  have size : 2 ^ reelZ h = 16 * 2 ^ z' := by
    rw [hz, pow_add]
    rfl
  refine ⟨1 + start.toNat % 2 ^ reelK h * 2 ^ z', ?_, ?_⟩
  · have whole : 16 + 2 ^ (reelK h + reelZ h) = (1 + 2 ^ reelK h * 2 ^ z') * 16 := by
      rw [pow_add, size]
      ring
    rw [whole, Nat.mul_div_cancel _ (by decide), Nat.add_lt_add_iff_left]
    exact Nat.mul_lt_mul_of_pos_right slot (Nat.two_pow_pos _)
  · rw [reelSlot, size]
    ring

/-- Every slot of a done reel that is not bad can be written. -/
theorem doneSlot_writable {k : Nat} (h : doneReel s l = some k) (good : doneBad s l = false) (start : BitVec 32) :
    launchPlace s l (firstDie l.desc) (descDone l.desc + BitVec.ofNat 64 (reelSlot (word128At s k) start)) 16 true =
      some (k + reelSlot (word128At s k) start) := by
  obtain ⟨ok, place⟩ := doneReel_some h
  obtain ⟨i, inside, slot⟩ := reelSlot_parts ok start
  have named : (descDone l.desc != 0) = true := by
    unfold doneReel at h
    split at h
    · cases h
    · rename_i named
      simpa using named
  rw [doneBad, h, named, Bool.true_and, Bool.not_eq_false', launchSpan, place] at good
  dsimp only at good
  rw [List.all_eq_true] at good
  have part := good i (List.mem_range.mpr inside)
  rw [beq_iff_eq] at part
  rw [slot, part]

theorem reelWaiter_of_reelAhead {k n : Nat} (h : reelAhead s k n = true) : reelWaiter s k n := by
  rw [reelAhead] at h
  simp only [Bool.or_eq_true, List.any_eq_true, Bool.and_eq_true, beq_iff_eq, Option.isNone_iff_eq_none, Option.any_eq_true, decide_eq_true_eq] at h
  rcases h with ⟨e, listed, ⟨j, job, ⟨claim, w, waits, early⟩, reel⟩ | ⟨x, thread, ⟨w, waits, early⟩, reel⟩⟩ |
    ⟨l, launch, claim, ⟨w, k'⟩, waits, early, rfl⟩
  · exact .inl ⟨e, listed, j, job, claim, reel, w, waits, early⟩
  · exact .inr (.inl ⟨e, listed, x, thread, reel, w, waits, early⟩)
  · exact .inr (.inr ⟨l, launch, claim, w, waits, early⟩)

/-- A claim of the next slot, whose turn has come, is published at once. -/
theorem publishDone_claimed {k : Nat} (h : doneReel s l = some k) (good : doneBad s l = false) (turn : reelW (word128At s k) = reelC (word128At s k)) :
    publishDone (write128 s k (withC (word128At s k) (reelC (word128At s k) + 1))) l k (reelC (word128At s k)) = some (recorded s k l l.status) := by
  have slot := doneSlot_writable h good (reelC (word128At s k))
  have writable : doneSlotOk (write128 s k (withC (word128At s k) (reelC (word128At s k) + 1))) l k (reelC (word128At s k)) = true := by
    have same : SamePlaces s (write128 s k (withC (word128At s k) (reelC (word128At s k) + 1))) := samePlaces_applyWrite ..
    rw [same.doneSlotOk, word128At_write128, reelSlot_withC, slot, beq_self_eq_true]
  rw [publishDone, word128At_write128, reelW_withC, turn, slotKeys_withC]
  simp only [bne_self_eq_false, Bool.false_eq_true, if_false, writable, if_true]
  rfl

theorem endLaunch_ends (claim : l.claim = none) (can : canEnd s l) : endLaunch s l = some (endState s l l.status) := by
  rw [endLaunch, endState]
  cases reel : doneReel s l with
  | none => rfl
  | some k =>
    dsimp only
    rw [claim]
    dsimp only
    by_cases bad : doneBad s l = true
    · rw [if_pos bad, if_pos bad]
      rfl
    · obtain ⟨room, turn, first⟩ := can k reel (by simpa using bad)
      have ahead : reelAhead s k ((l.waits.map (·.1)).getD s.cyc.toNat) = false :=
        Bool.eq_false_iff.mpr (fun waits => first (reelWaiter_of_reelAhead waits))
      rw [if_neg bad, if_neg bad, room, ahead, publishDone_claimed reel (by simpa using bad) turn]
      rfl

/-! ### A refusal (R283, R285) -/

/-- The state with other launches. -/
def withLaunches (s : State) (ls : List Launch) : State := { s with launches := ls }

/-- Completion records are written without regard to the launches. -/
theorem flushRecords_withLaunches (ls : List Launch) (f : BitVec 4) (fuel : Nat) : ∀ s,
    flushRecords f fuel (withLaunches s ls) = withLaunches (flushRecords f fuel s) ls := by
  induction fuel with
  | zero => exact fun s => rfl
  | succ fuel ih =>
    intro s
    have parts : (withLaunches s ls).parts = s.parts := rfl
    rw [flushRecords, flushRecords, parts]
    cases (rget s.parts f).records with
    | nil => rfl
    | cons r rest =>
      obtain ⟨w0, w1, irq⟩ := r
      dsimp only
      split
      · rfl
      · rw [← ih]
        cases irq with
        | none => rfl
        | some v =>
          dsimp only
          split
          · rfl
          · rfl

theorem hostRecord_withLaunches (ls : List Launch) (tag status : Nat) :
    hostRecord (withLaunches s ls) l tag status = withLaunches (hostRecord s l tag status) ls := by
  unfold hostRecord
  split
  · rfl
  · exact flushRecords_withLaunches ls _ _ { s with parts := _ }

/-- The launch as it is refused. -/
def refused (l : Launch) (status : Nat) : Launch := { l with status := status, waiting := [], placed := [] }

/-- The launch's entries are left out at its end, so it is no matter what they hold. -/
theorem filter_refused (ls : List Launch) (status : Nat) :
    (ls.map (fun k => if k.id == l.id then refused l status else k)).filter (fun k => k.id != l.id) = ls.filter (fun k => k.id != l.id) := by
  induction ls with
  | nil => rfl
  | cons k ls ih =>
    rw [List.map_cons, List.filter_cons, List.filter_cons, ih]
    by_cases same : k.id = l.id
    · simp [same, refused]
    · simp [same]

theorem endState_withLaunches (ls : List Launch) (status : Nat) :
    endState (withLaunches s ls) l status = withLaunches (endState s l status) (ls.filter (fun k => k.id != l.id)) := by
  have reel : doneReel (withLaunches s ls) l = doneReel s l := rfl
  have bad : doneBad (withLaunches s ls) l = doneBad s l := rfl
  have closes : ∀ s1 : State, { hostRecord (withLaunches s1 ls) l (descTag l.desc) status with
      launches := (hostRecord (withLaunches s1 ls) l (descTag l.desc) status).launches.filter (fun k => k.id != l.id) } =
      withLaunches (hostRecord s1 l (descTag l.desc) status) (ls.filter (fun k => k.id != l.id)) := fun s1 => by
    rw [hostRecord_withLaunches]
    rfl
  rw [endState, endState, reel, bad]
  cases doneReel s l with
  | none => exact closes s
  | some k =>
    dsimp only
    split
    · exact closes s
    · exact closes (recorded s k l status)

theorem endState_refused (status : Nat) :
    endState (modLaunch s l.id (fun _ => refused l status)) (refused l status) status = endState s l status := by
  have ends := endState_withLaunches (s := s) (l := l)
    (s.launches.map (fun k => if k.id == l.id then refused l status else k)) status
  rw [filter_refused, ← endState_withLaunches] at ends
  exact ends

theorem canEnd_refused (status : Nat) (can : canEnd s l) : canEnd (modLaunch s l.id (fun _ => refused l status)) (refused l status) := by
  intro k reel good
  obtain ⟨room, turn, first⟩ := can k reel good
  refine ⟨room, turn, fun waiter => first ?_⟩
  rcases waiter with job | thread | ⟨x, listed, claim, w, waits, early⟩
  · exact .inl job
  · exact .inr (.inl thread)
  · obtain ⟨k', present, rfl⟩ := List.mem_map.mp listed
    split at waits
    · have self : l.waits = some (w, k) := waits
      change w < (l.waits.map (·.1)).getD s.cyc.toNat at early
      rw [self] at early
      exact absurd early (Nat.lt_irrefl w)
    · rename_i other
      rw [if_neg other] at claim
      exact .inr (.inr ⟨k', present, claim, w, waits, early⟩)

theorem refuseLaunch_ends (status : Nat) (claim : l.claim = none) (can : canEnd (l.placed.foldl (undoPlacement l) s) l) :
    refuseLaunch s l status = endState (l.placed.foldl (undoPlacement l) s) l status := by
  have ends := endLaunch_ends (l := refused l status) claim (canEnd_refused status can)
  exact (congrArg (fun r => Option.getD r _) ends).trans (endState_refused status)

end places
end Sys2Proof.Proofs
end

section

namespace Sys2Proof.Proofs

open Sys2Proof Sys2Proof.Machine Sys2Proof.Claims

/-! ## A position's registers after a change of another, or of itself -/

section positions
variable {s s' : State} {c c' ctx : Nat} {f : Position → Position}

theorem posOf_modPos_other (h : c ≠ c') (f : Position → Position) (ctx x : Nat) : posOf (modPos s c' ctx f) c x = posOf s c x :=
  posOf_congr (by rw [modPos, cellAt_modCell_ne _ _ _ _ h]) x

/-- What the change of a position leaves of it, it leaves of every position. -/
theorem posOf_modPos_kept {γ : Type} {g : Position → γ} (hf : ∀ p, (f p).ctx = p.ctx) (hg : ∀ p, g (f p) = g p) (x : Nat) :
    g (posOf (modPos s c ctx f) c' x) = g (posOf s c' x) := by
  by_cases here : c' = c
  · subst here
    rw [posOf, posIdx_modPos hf, posOf]
    cases posIdx (cellAt s c') x with
    | none => rfl
    | some q =>
      dsimp only
      rw [modPos, cellAt_modCell_same]
      split
      · dsimp only
        rw [rget_rset]
        split
        · rename_i same
          rw [hg, same]
        · rfl
      · rfl
  · rw [posOf_modPos_other here]

theorem resident_modPos (hf : ∀ p, (f p).ctx = p.ctx) (x : Nat) : resident (modPos s c ctx f) c' x = resident s c' x := by
  by_cases here : c' = c
  · subst here
    rw [resident, posIdx_modPos hf, resident]
  · rw [resident, modPos, cellAt_modCell_ne _ _ _ _ here, resident]

theorem samePlaces_modPos (hf : ∀ p, (f p).ctx = p.ctx) (hg : ∀ p, (f p).regions = p.regions) : SamePlaces s (modPos s c ctx f) :=
  ⟨rfl, fun _ x => posOf_modPos_kept hf hg x⟩

end positions

/-! ## The tiles of the first stage (R89) -/

section tiles
variable (d : List Byte)

theorem tilesBelow_succ (j : Nat) : tilesBelow d (j + 1) = tilesBelow d j * tilesOf d j := by
  rw [tilesBelow, List.range_succ, List.map_append, List.foldl_append]
  rfl

/-- Tile `i` counted in the mixed radix of the numbers of tiles. -/
theorem foldl_tiles (i n : Nat) : ((List.range n).map (tilesOf d)).foldl (fun (a : List Nat × Nat) t => (a.1 ++ [a.2 % t], a.2 / t)) ([], i) =
    ((List.range n).map (fun j => i / tilesBelow d j % tilesOf d j), i / tilesBelow d n) := by
  induction n with
  | zero => simp [tilesBelow]
  | succ n ih =>
    rw [List.range_succ, List.map_append, List.foldl_append, ih, List.map_append, tilesBelow_succ, ← Nat.div_div_eq_div_mul]
    rfl

/-- Values of the dimensions beside the dimensions. -/
theorem zip_map_self {α β : Type} (l : List α) (f : α → β) : (l.map f).zip l = l.map (fun a => (f a, a)) := by
  simpa using List.zip_map' (l := l) (f := f) (g := id)

/-- The values that identify a cell: origins, extents and slice. -/
theorem firstStageId_eq (n i : Nat) : firstStageId d n i =
    (if tilesBelow d (descDims d) ≤ i then [] else (List.range (descDims d)).map (originOf d i),
      if tilesBelow d (descDims d) ≤ i then [0, 0, 0, 0] else
        (List.range (descDims d)).map (extentOf d i) ++ List.replicate (4 - descDims d) 1,
      descN d * 2 ^ 32 + i * 2 ^ descN d / n * 2 ^ 16 + ((i + 1) * 2 ^ descN d / n - i * 2 ^ descN d / n)) := by
  have radix : ((List.range (descDims d)).map (fun j => (descSize d j + descTile d j - 1) / descTile d j)).foldl
      (fun (a : List Nat × Nat) t => (a.1 ++ [a.2 % t], a.2 / t)) ([], i) = _ := foldl_tiles d i (descDims d)
  have below : ((List.range (descDims d)).map (tilesOf d)).foldl (· * ·) 1 = tilesBelow d (descDims d) := rfl
  unfold firstStageId
  change (if ((List.range (descDims d)).map (tilesOf d)).foldl (· * ·) 1 ≤ i then _ else _) = _
  rw [below]
  by_cases beyond : tilesBelow d (descDims d) ≤ i
  · rw [if_pos beyond, if_pos beyond, if_pos beyond]
  · have org : ∀ j ∈ List.range (descDims d), originOf d i j = i / tilesBelow d j % tilesOf d j * descTile d j := fun j hj => by
      rw [originOf, if_neg beyond, if_pos (List.mem_range.mp hj)]
    have ext_ : ∀ j ∈ List.range (descDims d), extentOf d i j =
        min (descTile d j) (descSize d j - i / tilesBelow d j % tilesOf d j * descTile d j) := fun j hj => by
      rw [extentOf, if_neg beyond, if_pos (List.mem_range.mp hj), org j hj]
    rw [if_neg beyond, if_neg beyond, if_neg beyond, List.map_congr_left org, List.map_congr_left ext_, radix]
    simp only [zip_map_self, List.map_map, Function.comp_def, List.length_map, List.length_range]

theorem rget_regs4 (l : List Nat) (dflt : Nat) (j : BitVec 2) : rget (regs4 l dflt) j = BitVec.ofNat 64 (l.getD j.toNat dflt) := by
  simp [rget, regs4]

end tiles
end Sys2Proof.Proofs
end

section

namespace Sys2Proof.Proofs

open Sys2Proof Sys2Proof.Machine Sys2Proof.Claims

/-! ## Folds and lists -/

section folds
variable {σ β : Type} {f : σ → β → σ}

/-- A step-wise relation holds of the whole. -/
theorem foldl_related {R : σ → σ → Prop} (refl : ∀ s, R s s) (trans : ∀ {s s' s''}, R s s' → R s' s'' → R s s'')
    (h : ∀ s b, R s (f s b)) (l : List β) : ∀ s, R s (l.foldl f s) := by
  induction l with
  | nil => exact refl
  | cons b l ih => exact fun s => trans (h s b) (ih _)

theorem foldl_idle {l : List β} (idle : ∀ x ∈ l, ∀ s, f s x = s) (s : σ) : l.foldl f s = s := by
  induction l with
  | nil => rfl
  | cons a l ih => rw [List.foldl_cons, idle a List.mem_cons_self, ih (fun x hx => idle x (List.mem_cons_of_mem _ hx))]

/-- Where one element alone changes anything, it is as if it stood alone. -/
theorem foldl_once {l : List β} {b : β} {i : Nat} (here : l[i]? = some b)
    (others : ∀ j x, l[j]? = some x → j ≠ i → ∀ s, f s x = s) (s : σ) : l.foldl f s = f s b := by
  induction l generalizing i s with
  | nil => cases here
  | cons a l ih =>
    cases i with
    | zero =>
      cases here
      rw [List.foldl_cons]
      refine foldl_idle (fun x hx => ?_) _
      obtain ⟨j, at_⟩ := List.mem_iff_getElem?.mp hx
      exact others (j + 1) x at_ (Nat.succ_ne_zero j)
    | succ i =>
      rw [List.foldl_cons, others 0 a rfl (Nat.succ_ne_zero i).symm]
      exact ih here (fun j x at_ ne => others (j + 1) x at_ (fun same => ne (Nat.succ.inj same))) s

end folds

section lists
variable {α : Type} [DecidableEq α] {a : α}

theorem count_tail {b : α} {l : List α} (once : (b :: l).count a = 1) (mem : a ∈ l) : b ≠ a ∧ l.count a = 1 := by
  have some_ := List.count_pos_iff.mpr mem
  rw [List.count_cons] at once
  by_cases same : b = a
  · simp only [same, beq_self_eq_true, if_true] at once
    omega
  · simpa [same] using once

/-- An element that occurs once stands at one place. -/
theorem index_of_count_one {l : List α} {i j : Nat} (once : l.count a = 1) (hi : l[i]? = some a) (hj : l[j]? = some a) : j = i := by
  induction l generalizing i j with
  | nil => cases hi
  | cons b l ih =>
    cases i with
    | zero =>
      cases j with
      | zero => rfl
      | succ j => exact absurd (Option.some.inj hi) (count_tail once (List.mem_of_getElem? hj)).1
    | succ i =>
      obtain ⟨ne, tail⟩ := count_tail once (List.mem_of_getElem? hi)
      cases j with
      | zero => exact absurd (Option.some.inj hj) ne
      | succ j => exact congrArg Nat.succ (ih tail hi hj)

/-- An element that occurs once in the lots lies in one of them, once. -/
theorem lot_of_count_one {lots : List (List α)} {i j : Nat} {lot lot' : List α} (once : lots.flatten.count a = 1) (hi : lots[i]? = some lot)
    (mem : a ∈ lot) : lot.count a = 1 ∧ (lots[j]? = some lot' → a ∈ lot' → j = i) := by
  induction lots generalizing i j with
  | nil => cases hi
  | cons b lots ih =>
    have later : ∀ {n : Nat} {x : List α}, lots[n]? = some x → a ∈ x → 0 < lots.flatten.count a := fun at_ mem =>
      List.count_pos_iff.mpr (List.mem_flatten.mpr ⟨_, List.mem_of_getElem? at_, mem⟩)
    rw [List.flatten_cons, List.count_append] at once
    cases i with
    | zero =>
      cases hi
      have first := List.count_pos_iff.mpr mem
      refine ⟨by omega, fun hj mem' => ?_⟩
      cases j with
      | zero => rfl
      | succ j =>
        have := later hj mem'
        omega
    | succ i =>
      have second := later hi mem
      obtain ⟨own, only⟩ := ih (j := j - 1) (by omega) hi
      refine ⟨own, fun hj mem' => ?_⟩
      cases j with
      | zero =>
        cases hj
        have := List.count_pos_iff.mpr mem'
        omega
      | succ j => exact congrArg Nat.succ (only hj mem')

end lists

theorem mem_zip_range {α : Type} {l : List α} {n : Nat} {x : α × Nat} (h : x ∈ l.zip (List.range n)) : l[x.2]? = some x.1 := by
  obtain ⟨i, at_⟩ := List.mem_iff_getElem?.mp h
  obtain ⟨left, right⟩ := List.getElem?_zip_eq_some.mp at_
  obtain ⟨bound, index⟩ := List.getElem?_eq_some_iff.mp right
  rw [List.getElem_range] at index
  rw [← index, left]

/-! ## The identity registers of a cell (R89, R91) -/

/-- Origins, extents and slice of a cell: the `first.2`-th of the `first.1` cells of the first stage, or of a later stage. -/
def idValues (d : List Byte) (first : Option (Nat × Nat)) : List Nat × List Nat × Nat :=
  first.elim ([], (List.range (descDims d)).map (descSize d), descN d * 2 ^ 32) (fun n => firstStageId d n.1 n.2)

/-- The position with its identity registers written. -/
def identified (d : List Byte) (stage : Nat) (first : Option (Nat × Nat)) (p : Position) : Position :=
  { p with
    idorg := regs4 (idValues d first).1 0, idext := regs4 (idValues d first).2.1 1, idslice := BitVec.ofNat 64 (idValues d first).2.2
    idstage := BitVec.ofNat 64 (2 ^ 63 + stage), stage := some stage, stageReported := none
    moved := p.moved.map (fun m => { m with written := true }) }

/-- The position with the stage handles written. -/
def handled (die lid ctx : Nat) (es : List Nat) (c : Nat) (p : Position) : Position :=
  { p with hstore := (es.zip (List.range es.length)).foldl (fun t e => tput t (32 + e.2) (mkHandle 3 ctx (stageEid die lid e.1) c)) p.hstore }

theorem writeIds_eq (s : State) (c ctx : Nat) (d : List Byte) (stage : Nat) (first : Option (Nat × Nat)) :
    writeIds s c ctx d stage first = modPos s c ctx (identified d stage first) := by
  cases first <;> rfl

theorem foldl_tput_indexed {α β : Type} {l : List (α × Nat)} {v : α → β} {w dflt : β} {j : Nat} (only : ∀ x ∈ l, x.2 = j → v x.1 = w)
    (some_ : ∃ x ∈ l, x.2 = j) (t : Tab β) : tget (l.foldl (fun t e => tput t (32 + e.2) (v e.1)) t) (32 + j) dflt = w := by
  induction l using List.reverseRecOn with
  | nil =>
    obtain ⟨x, hx, -⟩ := some_
    cases hx
  | append_singleton l x ih =>
    rw [List.foldl_append, List.foldl_cons, List.foldl_nil, tget_tput]
    by_cases same : x.2 = j
    · rw [if_pos (by rw [same]), only x (by simp) same]
    · rw [if_neg (fun h => same (Nat.add_left_cancel h).symm)]
      refine ih (fun y hy => only y (by simp [hy])) ?_
      obtain ⟨y, hy, at_⟩ := some_
      rcases List.mem_append.mp hy with hy | hy
      · exact ⟨y, hy, at_⟩
      · rw [List.mem_singleton] at hy
        exact absurd (hy ▸ at_) same

theorem hstore_handled {die lid ctx c j e : Nat} {es : List Nat} (h : es[j]? = some e) (p : Position) :
    tget (handled die lid ctx es c p).hstore (32 + j) 0 = mkHandle 3 ctx (stageEid die lid e) c := by
  refine foldl_tput_indexed (v := fun e => mkHandle 3 ctx (stageEid die lid e) c) (fun x hx at_ => ?_) ⟨(e, j), ?_, rfl⟩ p.hstore
  · have here := mem_zip_range hx
    rw [at_, h] at here
    cases here
    rfl
  · obtain ⟨bound, -⟩ := List.getElem?_eq_some_iff.mp h
    exact List.mem_iff_getElem?.mpr ⟨j, List.getElem?_zip_eq_some.mpr ⟨h, List.getElem?_range bound⟩⟩

/-! ## The second step of a placement (R91, R284) -/

section second
variable {s s' s'' : State} {l : Launch} {p : Placement} {c : Nat}

/-- Nothing has changed but registers of positions: no position is gone or has come, and none has another memory. -/
structure PosOnly (s s' : State) : Prop where
  places : SamePlaces s s'
  resident : ∀ c ctx, resident s' c ctx = resident s c ctx
  rest : ∃ cells, s' = { s with cells := cells }

theorem PosOnly.refl (s : State) : PosOnly s s := ⟨⟨rfl, fun _ _ => rfl⟩, fun _ _ => rfl, s.cells, rfl⟩

theorem PosOnly.trans (h : PosOnly s s') (h' : PosOnly s' s'') : PosOnly s s'' := by
  obtain ⟨places, resident, cells, rfl⟩ := h
  obtain ⟨places', resident', cells', rfl⟩ := h'
  exact ⟨places.trans places', fun c ctx => (resident' c ctx).trans (resident c ctx), cells', rfl⟩

theorem PosOnly.mem (h : PosOnly s s') : s'.mem = s.mem := by
  obtain ⟨-, -, cells, rfl⟩ := h
  rfl

theorem PosOnly.launches (h : PosOnly s s') : s'.launches = s.launches := by
  obtain ⟨-, -, cells, rfl⟩ := h
  rfl

theorem PosOnly.dies (h : PosOnly s s') : s'.dies = s.dies := by
  obtain ⟨-, -, cells, rfl⟩ := h
  rfl

theorem posOnly_modPos {ctx : Nat} {f : Position → Position} (hf : ∀ p, (f p).ctx = p.ctx) (hg : ∀ p, (f p).regions = p.regions) :
    PosOnly s (modPos s c ctx f) := ⟨samePlaces_modPos hf hg, fun _ x => resident_modPos hf x, _, rfl⟩

theorem posOnly_writeIds (s : State) (c ctx : Nat) (d : List Byte) (stage : Nat) (first : Option (Nat × Nat)) :
    PosOnly s (writeIds s c ctx d stage first) := by
  rw [writeIds_eq]
  exact posOnly_modPos (fun _ => rfl) (fun _ => rfl)

theorem posOnly_foldl {β : Type} {f : State → β → State} (h : ∀ s b, PosOnly s (f s b)) (xs : List β) (s : State) : PosOnly s (xs.foldl f s) :=
  foldl_related PosOnly.refl PosOnly.trans h xs s

/-- The identity registers that the cells of one stage get. -/
def lotIds (l : Launch) (p : Placement) (c : Nat) (s : State) (e : (List Nat × Nat) × Nat) : State :=
  (e.1.1.zip (List.range e.1.1.length)).foldl (fun s x =>
    if x.1 = c then writeIds s c l.ctx l.desc e.1.2 (if e.2 = 0 then some (((lotsOf l p).headD []).length, x.2) else none) else s) s

/-- The identity registers that the cell gets. -/
def cellIds (l : Launch) (p : Placement) (s : State) (c : Nat) : State :=
  (((lotsOf l p).zip p.stages).zip (List.range (lotsOf l p).length)).foldl (lotIds l p c) s

theorem writeCell_eq (l : Launch) (p : Placement) (s : State) (c : Nat) :
    writeCell l p s c = modPos (cellIds l p s c) c l.ctx (handled p.die p.lid l.ctx p.stages c) := rfl

theorem posOnly_cellIds (l : Launch) (p : Placement) (s : State) (c : Nat) : PosOnly s (cellIds l p s c) := by
  refine posOnly_foldl (fun s e => posOnly_foldl (fun s x => ?_) _ s) _ s
  split
  · exact posOnly_writeIds ..
  · exact PosOnly.refl s

theorem posOnly_writeCell (l : Launch) (p : Placement) (s : State) (c : Nat) : PosOnly s (writeCell l p s c) := by
  rw [writeCell_eq]
  exact (posOnly_cellIds l p s c).trans (posOnly_modPos (fun _ => rfl) (fun _ => rfl))

/-- What is written at one cell leaves the others. -/
theorem posOf_writeCell_other {c' : Nat} (h : c ≠ c') (x : Nat) : posOf (writeCell l p s c') c x = posOf s c x := by
  have same : ∀ s, posOf (cellIds l p s c') c x = posOf s c x := by
    refine foldl_related (R := fun s s' => posOf s' c x = posOf s c x) (fun _ => rfl) (fun h h' => h'.trans h) (fun s e => ?_) _
    refine foldl_related (R := fun s s' => posOf s' c x = posOf s c x) (fun _ => rfl) (fun h h' => h'.trans h) (fun s y => ?_) _ s
    split
    · rw [writeIds_eq, posOf_modPos_other h]
    · rfl
  rw [writeCell_eq, posOf_modPos_other h, same]

theorem posOf_writeCell (here : resident s c l.ctx = true) :
    posOf (writeCell l p s c) c l.ctx = handled p.die p.lid l.ctx p.stages c (posOf (cellIds l p s c) c l.ctx) := by
  rw [writeCell_eq]
  exact posOf_modPos (((posOnly_cellIds l p s c).resident c l.ctx).trans here)

/-- A cell that is allotted once is written once. -/
theorem cellIds_once {i k e : Nat} {lot : List Nat} (stage : p.stages[i]? = some e) (deal : (lotsOf l p)[i]? = some lot) (at_ : lot[k]? = some c)
    (once : (lotsOf l p).flatten.count c = 1) :
    cellIds l p s c = writeIds s c l.ctx l.desc e (if i = 0 then some (((lotsOf l p).headD []).length, k) else none) := by
  have mem := List.mem_of_getElem? at_
  obtain ⟨own, -⟩ := lot_of_count_one (j := i) (lot' := lot) once deal mem
  have bound : i < (lotsOf l p).length := (List.getElem?_eq_some_iff.mp deal).1
  have entry : (((lotsOf l p).zip p.stages).zip (List.range (lotsOf l p).length))[i]? = some ((lot, e), i) :=
    List.getElem?_zip_eq_some.mpr ⟨List.getElem?_zip_eq_some.mpr ⟨deal, stage⟩, List.getElem?_range bound⟩
  have slot : (lot.zip (List.range lot.length))[k]? = some (c, k) :=
    List.getElem?_zip_eq_some.mpr ⟨at_, List.getElem?_range (List.getElem?_eq_some_iff.mp at_).1⟩
  have other : ∀ j x, (((lotsOf l p).zip p.stages).zip (List.range (lotsOf l p).length))[j]? = some x → j ≠ i →
      ∀ s, lotIds l p c s x = s := by
    intro j x at_ ne s
    obtain ⟨pair, -⟩ := List.getElem?_zip_eq_some.mp at_
    obtain ⟨lot', -⟩ := List.getElem?_zip_eq_some.mp pair
    refine foldl_idle (fun y hy s => if_neg (fun same => ne ?_)) s
    exact (lot_of_count_one once deal mem).2 lot' (List.mem_of_getElem? (same ▸ mem_zip_range hy))
  rw [cellIds, foldl_once entry other, lotIds, foldl_once slot ?_]
  · exact if_pos rfl
  · intro j x at' ne s
    have here := mem_zip_range (List.mem_of_getElem? at')
    obtain ⟨-, index⟩ := List.getElem?_zip_eq_some.mp at'
    refine if_neg (fun same => ne ?_)
    obtain ⟨bound, index⟩ := List.getElem?_eq_some_iff.mp index
    rw [List.getElem_range] at index
    rw [same, ← index] at here
    exact index_of_count_one own at_ here

/-- What every write at a cell brings about, writing at all the cells brings about. -/
theorem posOf_foldl_writeCell {ctx : Nat} {Q : Position → Prop} (written : ∀ s, resident s c ctx = true → Q (posOf (writeCell l p s c) c ctx))
    {now : List Nat} (mem : c ∈ now) (here : resident s c ctx = true) : Q (posOf (now.foldl (writeCell l p) s) c ctx) := by
  induction now using List.reverseRecOn with
  | nil => cases mem
  | append_singleton now x ih =>
    rw [List.foldl_append, List.foldl_cons, List.foldl_nil]
    by_cases same : c = x
    · subst same
      exact written _ (((posOnly_foldl (posOnly_writeCell l p) now s).resident c ctx).trans here)
    · rw [posOf_writeCell_other same]
      refine ih ?_
      rcases List.mem_append.mp mem with mem | mem
      · exact mem
      · exact absurd (List.mem_singleton.mp mem) same

end second
end Sys2Proof.Proofs
end

section

namespace Sys2Proof.Proofs

open Sys2Proof Sys2Proof.Machine Sys2Proof.Claims

section placement
variable {s s' : State} {d ctx : Nat} {l : Launch} {p : Placement}

/-! ## The launch unit's next step (R283, R285) -/

/-- The launch that a die's launch unit goes on with. -/
structure NextLaunch (s : State) (d ctx : Nat) (l : Launch) : Prop where
  found : s.launches.find? (fun l => l.ctx == ctx && l.waiting.contains d) = some l
  alive : ∀ k ∈ s.kills, k.ctx ≠ ctx

theorem NextLaunch.ctx_eq (h : NextLaunch s d ctx l) : l.ctx = ctx := by
  have here := List.find?_some h.found
  rw [Bool.and_eq_true, beq_iff_eq] at here
  exact here.1

theorem launchPlacement_killed (h : ∃ k ∈ s.kills, k.ctx = ctx) : launchPlacement s d ctx = none := by
  have killed : s.kills.any (fun k => k.ctx == ctx) = true := by simpa using h
  rw [launchPlacement, if_pos killed]

theorem launchPlacement_next (h : NextLaunch s d ctx l) : launchPlacement s d ctx =
    (placeNext s d l).or (s.launches.findSome? (fun l => if l.ctx == ctx && l.status != 0 then endLaunch s l else none)) := by
  have alive : s.kills.any (fun k => k.ctx == ctx) = false := by simpa using h.alive
  rw [launchPlacement, alive, h.found]
  rfl

theorem exec_placed (h : NextLaunch s d ctx l) (next : placeNext s d l = some s') : exec (.launchPlacement d ctx) s = .next s' :=
  (exec_launchPlacement ..).trans (event_some (by rw [launchPlacement_next h, next, Option.some_or]))

/-- With no record of the context's launches to be published, the launch unit waits. -/
theorem exec_waits (h : NextLaunch s d ctx l) (next : placeNext s d l = none) (settled : ∀ k ∈ s.launches, k.ctx = ctx → k.status = 0) :
    exec (.launchPlacement d ctx) s = .next s := by
  have records : s.launches.findSome? (fun l => if l.ctx == ctx && l.status != 0 then endLaunch s l else none) = none := by
    rw [List.findSome?_eq_none_iff]
    intro k listed
    refine if_neg (fun open_ => ?_)
    rw [Bool.and_eq_true, beq_iff_eq, bne_iff_ne] at open_
    exact open_.2 (settled k listed open_.1)
  exact (exec_launchPlacement ..).trans (event_none (by rw [launchPlacement_next h, next, records, Option.none_or]))

/-- A die that the launch names where it can never be placed. -/
def Never (s : State) (l : Launch) : Prop :=
  ∃ e ∈ l.waiting ++ l.placed.map (·.die), capBit s 56 e = true ∨ (dieCells s e l.ctx).length < cellsNeeded l

theorem neverPlaced_iff : neverPlaced s l = true ↔ Never s l := by
  simp only [neverPlaced, List.any_eq_true, Bool.or_eq_true, decide_eq_true_eq]
  rfl

/-- The die has no room for the launch now, or does not run. -/
def Busy (s : State) (d : Nat) (l : Launch) : Prop :=
  dieRuns s d = false ∨ (freeStages s d).length < descStages l.desc ∨ (freeCells s d l.ctx).length < cellsNeeded l

section unplaced
variable (share : l.placed.find? (fun p => p.die == d) = none)
include share

theorem placeNext_invalid (bad : descOk (isTake l.by_) l.desc = false) : placeNext s d l = some (refuseLaunch s l 1) := by
  simp only [placeNext, share, bad, Bool.not_false, if_true]

variable (ok : descOk (isTake l.by_) l.desc = true)
include ok

theorem placeNext_badReel (bad : doneBad s l = true) : placeNext s d l = some (refuseLaunch s l 4) := by
  simp only [placeNext, share, ok, Bool.not_true, Bool.false_eq_true, if_false, bad, if_true]

variable (good : doneBad s l = false)
include good

theorem placeNext_never (never : Never s l) : placeNext s d l = some (refuseLaunch s l 3) := by
  simp only [placeNext, share, ok, good, neverPlaced_iff.mpr never, Bool.not_true, Bool.false_eq_true, if_false, if_true]

variable (possible : ¬Never s l)
include possible

theorem placeNext_room : placeNext s d l = (if !dieRuns s d || decide ((freeStages s d).length < descStages l.desc) ||
    decide ((freeCells s d l.ctx).length < cellsNeeded l) then none else some (allot s l d)) := by
  have possible : neverPlaced s l = false := Bool.eq_false_iff.mpr (fun h => possible (neverPlaced_iff.mp h))
  simp only [placeNext, share, ok, good, possible, Bool.not_true, Bool.false_eq_true, if_false]
  rfl

theorem placeNext_busy (busy : Busy s d l) : placeNext s d l = none := by
  rw [placeNext_room share ok good possible]
  refine if_pos ?_
  simpa [Busy, or_assoc] using busy

theorem placeNext_free (free : ¬Busy s d l) : placeNext s d l = some (allot s l d) := by
  rw [placeNext_room share ok good possible]
  refine if_neg (fun h => free ?_)
  simpa [Busy, or_assoc] using h

end unplaced

/-! ## The first step: stage entries and cells are allotted (R283) -/

/-- Stage entries are written. -/
def putStages (d : Nat) (g : StageRec → Stage) (l : List (Nat × StageRec)) (s : State) : State :=
  l.foldl (fun s e => modStage s d e.1 (fun _ => g e.2)) s

theorem stageAt_modStage_const (s : State) (d i e : Nat) (g : Stage) (hi : i < 32) (he : e < 32) :
    stageAt (modStage s d i (fun _ => g)) d e = if e = i then g else stageAt s d e := by
  by_cases same : e = i
  · rw [if_pos same, same, stageAt_modStage]
  · have ne : BitVec.ofNat 5 e ≠ BitVec.ofNat 5 i := by
      rw [Ne, ← BitVec.toNat_inj, BitVec.toNat_ofNat, BitVec.toNat_ofNat, Nat.mod_eq_of_lt he, Nat.mod_eq_of_lt hi]
      exact same
    rw [if_neg same, stageAt, modStage, dieAt_modDie_same, rget_rset_ne _ ne, stageAt]

theorem stageAt_putStages {g : StageRec → Stage} {xs : List (Nat × StageRec)} {e : Nat} {r : StageRec} (small : ∀ x ∈ xs, x.1 < 32)
    (mem : (e, r) ∈ xs) (only : ∀ x ∈ xs, x.1 = e → x.2 = r) : stageAt (putStages d g xs s) d e = g r := by
  induction xs using List.reverseRecOn with
  | nil => cases mem
  | append_singleton xs x ih =>
    have within : ∀ y ∈ xs, y ∈ xs ++ [x] := fun y hy => List.mem_append_left _ hy
    rw [putStages, List.foldl_append, List.foldl_cons, List.foldl_nil, stageAt_modStage_const _ _ _ _ _ (small x (by simp)) (small _ mem)]
    by_cases same : e = x.1
    · rw [if_pos same, only x (by simp) same.symm]
    · rw [if_neg same]
      refine ih (fun y hy => small y (within y hy)) ?_ (fun y hy => only y (within y hy))
      rcases List.mem_append.mp mem with mem | mem
      · exact mem
      · exact absurd (congrArg Prod.fst (List.mem_singleton.mp mem)) same

/-- Nothing has changed but the dies. -/
def DiesOnly (s s' : State) : Prop := ∃ dies, s' = { s with dies := dies }

theorem DiesOnly.refl (s : State) : DiesOnly s s := ⟨s.dies, rfl⟩

theorem DiesOnly.trans {s'' : State} (h : DiesOnly s s') (h' : DiesOnly s' s'') : DiesOnly s s'' := by
  obtain ⟨dies, rfl⟩ := h
  obtain ⟨dies', rfl⟩ := h'
  exact ⟨dies', rfl⟩

theorem diesOnly_modDie (s : State) (d : Nat) (f : Die → Die) : DiesOnly s (modDie s d f) := ⟨_, rfl⟩

theorem diesOnly_putStages (g : StageRec → Stage) (xs : List (Nat × StageRec)) (s : State) : DiesOnly s (putStages d g xs s) :=
  foldl_related DiesOnly.refl DiesOnly.trans (fun s _ => diesOnly_modDie s d _) xs s

theorem modLaunch_launches (s : State) (id : Nat) (f : Launch → Launch) :
    (modLaunch s id f).launches = s.launches.map (fun k => if k.id = id then f k else k) := by
  simp only [modLaunch, beq_iff_eq]

/-- The share of a die as it is allotted. -/
def firstShare (s : State) (d : Nat) (l : Launch) : Placement :=
  ⟨d, (dieAt s d).nextLid.toNat, (freeStages s d).take (descStages l.desc), (freeCells s d l.ctx).take (cellsNeeded l), [], dieCells s d l.ctx⟩

/-- The state with the entries of the stages written. -/
def stagesPut (s : State) (l : Launch) (d : Nat) : State :=
  putStages d (stageOf l (dieAt s d).nextLid) (((freeStages s d).take (descStages l.desc)).zip (stageRecs l.desc))
    (modDie s d (fun x => { x with nextLid := x.nextLid + 1 }))

/-- The cells' stages are set. -/
def cellsPut (l : Launch) (p : Placement) (s : State) : State :=
  ((lotsOf l p).zip p.stages).foldl (fun s e => e.1.foldl (fun s c => modPos s c l.ctx (fun x => { x with stage := some e.2 })) s) s

theorem allot_eq (s : State) (l : Launch) (d : Nat) : allot s l d =
    modLaunch (cellsPut l (firstShare s d l) (stagesPut s l d)) l.id (fun l' => { l' with placed := l'.placed ++ [firstShare s d l] }) := by
  have len : (stageRecs l.desc).length = descStages l.desc := by rw [stageRecs, List.length_map, List.length_range]
  rw [allot, len]
  rfl

theorem posOnly_cellsPut (l : Launch) (p : Placement) (s : State) : PosOnly s (cellsPut l p s) := by
  refine posOnly_foldl (fun s e => posOnly_foldl (fun s c => ?_) _ s) _ s
  exact posOnly_modPos (fun _ => rfl) (fun _ => rfl)

theorem diesOnly_stagesPut (s : State) (l : Launch) (d : Nat) : DiesOnly s (stagesPut s l d) :=
  (diesOnly_modDie s d _).trans (diesOnly_putStages ..)

theorem nodup_freeStages (s : State) (d : Nat) : (freeStages s d).Nodup := List.nodup_range.filter _

theorem freeStages_lt {e : Nat} (h : e ∈ freeStages s d) : e < 32 := List.mem_range.mp (List.mem_filter.mp h).1

/-- The `i`-th free entry becomes the `i`-th stage of the launch. -/
theorem stageAt_stagesPut {i e : Nat} (hi : i < descStages l.desc) (free : (freeStages s d)[i]? = some e) :
    stageAt (stagesPut s l d) d e = stageOf l (dieAt s d).nextLid (stageRec l.desc i) := by
  have taken : ((freeStages s d).take (descStages l.desc))[i]? = some e := by rw [List.getElem?_take_of_lt hi, free]
  have rec_ : (stageRecs l.desc)[i]? = some (stageRec l.desc i) := by
    rw [stageRecs, List.getElem?_map, List.getElem?_range hi]
    rfl
  refine stageAt_putStages (fun x hx => ?_) (List.mem_iff_getElem?.mpr ⟨i, List.getElem?_zip_eq_some.mpr ⟨taken, rec_⟩⟩) (fun x hx same => ?_)
  · exact freeStages_lt (List.mem_of_mem_take (List.of_mem_zip hx).1)
  · obtain ⟨j, at_⟩ := List.mem_iff_getElem?.mp hx
    obtain ⟨left, right⟩ := List.getElem?_zip_eq_some.mp at_
    rw [same] at left
    have index : j = i := index_of_count_one
      (List.count_eq_one_of_mem ((nodup_freeStages s d).sublist (List.take_sublist ..)) (List.mem_of_getElem? taken)) taken left
    rw [index, rec_] at right
    exact (Option.some.inj right).symm

theorem allot_mem (s : State) (l : Launch) (d : Nat) : (allot s l d).mem = s.mem := by
  obtain ⟨dies, put⟩ := diesOnly_stagesPut s l d
  rw [allot_eq]
  refine (posOnly_cellsPut ..).mem.trans ?_
  rw [put]

theorem allot_launches (s : State) (l : Launch) (d : Nat) : (allot s l d).launches =
    s.launches.map (fun k => if k.id = l.id then { k with placed := k.placed ++ [firstShare s d l] } else k) := by
  obtain ⟨dies, put⟩ := diesOnly_stagesPut s l d
  have launches : (stagesPut s l d).launches = s.launches := by rw [put]
  rw [allot_eq, modLaunch_launches, (posOnly_cellsPut ..).launches, launches]

theorem stageAt_allot (s : State) (l : Launch) (d e : Nat) : stageAt (allot s l d) d e = stageAt (stagesPut s l d) d e := by
  have dies : (allot s l d).dies = (stagesPut s l d).dies := by
    rw [allot_eq]
    exact (posOnly_cellsPut ..).dies
  rw [stageAt, dieAt, dies, stageAt, dieAt]

/-! ## Groups, reels and seeds (R283, R292) -/

theorem diesOnly_putGroup (s : State) (d i : Nat) (e : BitVec 384) : DiesOnly s (putGroup s d i e) := ⟨_, rfl⟩

theorem diesOnly_writeGroups (recs : List (Nat × BitVec 256)) : ∀ old s, DiesOnly s (writeGroups d ctx recs old s).1 := by
  induction recs with
  | nil => exact fun _ s => DiesOnly.refl s
  | cons r recs ih =>
    intro old s
    rw [writeGroups]
    split
    · exact diesOnly_putGroup ..
    · exact (diesOnly_putGroup ..).trans (ih ..)

/-- Whether the group records are accepted depends on the groups alone. -/
theorem writeGroups_accepts (recs : List (Nat × BitVec 256)) : ∀ old s s', s'.dies = s.dies →
    (writeGroups d ctx recs old s').2.2 = (writeGroups d ctx recs old s).2.2 := by
  induction recs with
  | nil => exact fun _ _ _ _ => rfl
  | cons r recs ih =>
    intro old s s' dies
    have die : dieAt s' d = dieAt s d := by rw [dieAt, dies, dieAt]
    have group : groupAt s' d r.1 = groupAt s d r.1 := by rw [groupAt, die, groupAt]
    have fifth : fifthGroup s' d r.1 (groupEntry ctx r.2) = fifthGroup s d r.1 (groupEntry ctx r.2) := by
      have naming : groupsNaming s' d r.1 = groupsNaming s d r.1 := funext (fun n => by rw [groupsNaming, die, groupsNaming])
      rw [fifthGroup, naming, fifthGroup]
    rw [writeGroups, writeGroups, group, fifth]
    split
    · rfl
    · refine ih _ _ _ ?_
      rw [putGroup, modDie, putGroup, modDie, dies, die]

/-- What stands in the cells' positions, and the launches, are as before. -/
structure PosKept (s s' : State) : Prop where
  pos : ∀ c, (cellAt s' c).pos = (cellAt s c).pos
  launches : s'.launches = s.launches

theorem PosKept.refl (s : State) : PosKept s s := ⟨fun _ => rfl, rfl⟩

theorem PosKept.trans {s'' : State} (h : PosKept s s') (h' : PosKept s' s'') : PosKept s s'' :=
  ⟨fun c => (h'.pos c).trans (h.pos c), h'.launches.trans h.launches⟩

theorem DiesOnly.posKept (h : DiesOnly s s') : PosKept s s' := by
  obtain ⟨dies, rfl⟩ := h
  exact ⟨fun _ => rfl, rfl⟩

theorem DiesOnly.samePlaces (h : DiesOnly s s') : SamePlaces s s' := by
  obtain ⟨dies, rfl⟩ := h
  exact ⟨rfl, fun _ _ => rfl⟩

theorem posKept_applyWrite (s : State) (ks : List Nat) (bs : List Byte) : PosKept s (applyWrite s ks bs) :=
  ⟨(kept_applyWrite (part := Cell.pos) (dpart := fun _ => ()) (fun _ _ _ => rfl) ks bs).cell, rfl⟩

theorem posKept_seedAll (d ctx cls hdr : Nat) (ks : List Nat) : ∀ s, PosKept s (seedAll d ctx cls hdr ks s) := by
  induction ks with
  | nil => exact PosKept.refl
  | cons k ks ih =>
    intro s
    exact (posKept_applyWrite ..).trans ((posKept_applyWrite ..).trans ((diesOnly_modDie ..).posKept.trans (ih _)))

theorem posKept_writeReels (s : State) (l : Launch) (d : Nat) : PosKept s (writeReels s l d) :=
  (foldl_related PosKept.refl PosKept.trans (fun s _ => posKept_applyWrite s _ _) _ s).trans (posKept_seedAll ..)

/-- Groups, reels and seeds are written. -/
def reelsPut (s : State) (l : Launch) (p : Placement) : State :=
  p.stages.foldl (fun s i => modStage s p.die i (fun g => { g with seen := 0, tags := [] }))
    (writeReels (writeGroups p.die l.ctx (groupRecs l.desc) [] s).1 l p.die)

theorem posKept_reelsPut (s : State) (l : Launch) (p : Placement) : PosKept s (reelsPut s l p) :=
  ((diesOnly_writeGroups ..).posKept.trans (posKept_writeReels ..)).trans
    (foldl_related PosKept.refl PosKept.trans (fun s _ => (diesOnly_modDie s _ _).posKept) _ _)

/-- The launch once the die's share is complete. -/
def placedOn (l : Launch) (p : Placement) (groups : Tab (BitVec 384)) : Launch :=
  { l with
    placed := l.placed.map (fun q => if q.die == p.die then { p with groups := groups, todo := [] } else q)
    waiting := l.waiting.filter (· != p.die)
    armed := if descSeedCount l.desc = 0 then l.armed ++ [p.die] else l.armed }

theorem finishPlacement_completes (accepted : (writeGroups p.die l.ctx (groupRecs l.desc) [] s).2.2 = true) (reels : reelsOk s l p.die = true) :
    finishPlacement s l p =
      modLaunch (reelsPut s l p) l.id (fun _ => placedOn l p (writeGroups p.die l.ctx (groupRecs l.desc) [] s).2.1) := by
  have reels' : reelsOk (writeGroups p.die l.ctx (groupRecs l.desc) [] s).1 l p.die = true :=
    ((diesOnly_writeGroups ..).samePlaces.reelsOk l p.die).trans reels
  rw [finishPlacement]
  dsimp only
  rw [accepted, reels']
  rfl

/-! ## The second step, where no take of the context runs (R91, R284) -/

theorem placeNext_share (share : l.placed.find? (fun p => p.die == d) = some p) : placeNext s d l = writeReady s l p := by
  rw [placeNext, share]

/-- The cells still to be written. -/
def leftCells (s : State) (l : Launch) (p : Placement) : List Nat := p.todo.filter (fun c => takesRun s c l.ctx)

theorem filter_ready (s : State) (l : Launch) (p : Placement) :
    p.todo.filter (fun c => !(readyCells s l p).contains c) = leftCells s l p := by
  refine List.filter_congr (fun c hc => ?_)
  simp [readyCells, hc]

theorem writeReady_eq (s : State) (l : Launch) (p : Placement) : writeReady s l p =
    if (readyCells s l p).isEmpty && !p.todo.isEmpty then none
    else some (if (leftCells s l p).isEmpty then finishPlacement ((readyCells s l p).foldl (writeCell l p) s) l { p with todo := leftCells s l p }
      else modLaunch ((readyCells s l p).foldl (writeCell l p) s) l.id (fun l' =>
        { l' with placed := l'.placed.map (fun q => if q.die == p.die then { p with todo := leftCells s l p } else q) })) := by
  rw [writeReady]
  dsimp only
  rw [filter_ready]

/-- A cell is ready, or it is left. -/
theorem readyCells_eq_nil : readyCells s l p = [] ↔ leftCells s l p = p.todo := by
  simp [readyCells, leftCells, List.filter_eq_nil_iff]

theorem leftCells_eq_nil : leftCells s l p = [] ↔ readyCells s l p = p.todo := by
  simp [readyCells, leftCells, List.filter_eq_nil_iff]

theorem writeReady_waits (some_ : p.todo ≠ []) (all : leftCells s l p = p.todo) : writeReady s l p = none := by
  rw [writeReady_eq, readyCells_eq_nil.mpr all]
  exact if_pos (by simpa using some_)

theorem writeReady_part (some_ : leftCells s l p ≠ []) (part : leftCells s l p ≠ p.todo) : writeReady s l p =
    some (modLaunch ((readyCells s l p).foldl (writeCell l p) s) l.id (fun l' =>
      { l' with placed := l'.placed.map (fun q => if q.die == p.die then { p with todo := leftCells s l p } else q) })) := by
  have ready : readyCells s l p ≠ [] := fun none_ => part (readyCells_eq_nil.mp none_)
  rw [writeReady_eq, if_neg (by simp [ready]), if_neg (by simpa using some_)]

theorem writeReady_last (none_ : leftCells s l p = []) : writeReady s l p =
    some (finishPlacement (p.todo.foldl (writeCell l p) s) l { p with todo := [] }) := by
  rw [writeReady_eq, leftCells_eq_nil.mp none_, none_]
  cases p.todo <;> rfl

/-- With no cell left, groups, reels and seeds follow. -/
theorem placeNext_last (share : l.placed.find? (fun p => p.die == d) = some p) (none_ : leftCells s l p = [])
    (accepted : (writeGroups d l.ctx (groupRecs l.desc) [] s).2.2 = true) (reels : reelsOk s l d = true) :
    ∃ s' groups, placeNext s d l = some s' ∧ s'.launches = s.launches.map (fun k => if k.id = l.id then placedOn l p groups else k) ∧
      ∀ c x, posOf s' c x = posOf (p.todo.foldl (writeCell l p) s) c x := by
  have die : p.die = d := by simpa using List.find?_some share
  subst die
  have kept := posOnly_foldl (posOnly_writeCell l p) p.todo s
  have accepted' := (writeGroups_accepts (groupRecs l.desc) [] _ _ kept.dies).trans accepted
  have after := posKept_reelsPut (p.todo.foldl (writeCell l p) s) l { p with todo := [] }
  have completes := finishPlacement_completes (p := { p with todo := [] }) accepted' ((kept.places.reelsOk l p.die).trans reels)
  refine ⟨_, (writeGroups p.die l.ctx (groupRecs l.desc) [] (p.todo.foldl (writeCell l p) s)).2.1,
    (placeNext_share share).trans ((writeReady_last none_).trans (congrArg some completes)), ?_, fun c x => posOf_congr (after.pos c) x⟩
  rw [modLaunch_launches, after.launches, kept.launches]
  rfl

theorem placedOn_eq (die : p.die = d) (groups : Tab (BitVec 384)) : placedOn l p groups = { l with
    placed := l.placed.map (fun q => if q.die = d then { p with groups := groups, todo := [] } else q)
    waiting := l.waiting.filter (· != d)
    armed := if descSeedCount l.desc = 0 then l.armed ++ [d] else l.armed } := by
  simp only [placedOn, die, beq_iff_eq]

end placement
end Sys2Proof.Proofs
end

section

namespace Sys2Proof.Proofs

open Sys2Proof Sys2Proof.Machine Sys2Proof.Claims

/-! ## What a cell holds once the launch is placed (R89, R91, R284) -/

section identity
variable {r : Position} {d : List Byte} {e n k : Nat} {first : Option (Nat × Nat)}

/-- The position's identity registers are those of the stage, and of the cell's place in it. -/
structure Identified (d : List Byte) (e : Nat) (first : Option (Nat × Nat)) (r : Position) : Prop where
  stage : r.stage = some e
  idstage : r.idstage = BitVec.ofNat 64 (2 ^ 63 + e)
  idorg : r.idorg = regs4 (idValues d first).1 0
  idext : r.idext = regs4 (idValues d first).2.1 1
  idslice : r.idslice = BitVec.ofNat 64 (idValues d first).2.2

theorem identified_spec (p : Position) : Identified d e first (identified d e first p) := ⟨rfl, rfl, rfl, rfl, rfl⟩

theorem getD_map_range {f : Nat → Nat} {m j dflt : Nat} : ((List.range m).map f).getD j dflt = if j < m then f j else dflt := by
  split
  · rename_i h
    simp [List.getD, h]
  · rename_i h
    simp [List.getD, Nat.le_of_not_lt h]

theorem getD_replicate_self (m j v : Nat) : (List.replicate m v).getD j v = v := by
  rw [List.getD, List.getElem?_replicate]
  split <;> rfl

theorem originOf_getD (j : Nat) : (idValues d (some (n, k))).1.getD j 0 = originOf d k j := by
  rw [idValues, Option.elim_some, firstStageId_eq]
  dsimp only
  split
  · rename_i beyond
    rw [originOf, if_pos beyond]
    rfl
  · rename_i within
    rw [getD_map_range]
    split
    · rfl
    · rename_i far
      rw [originOf, if_neg within, if_neg far]

theorem extentOf_getD {j : Nat} (hj : j < 4) : (idValues d (some (n, k))).2.1.getD j 1 = extentOf d k j := by
  rw [idValues, Option.elim_some, firstStageId_eq]
  dsimp only
  split
  · rename_i beyond
    rw [extentOf, if_pos beyond]
    interval_cases j <;> rfl
  · rename_i within
    by_cases near : j < descDims d
    · rw [List.getD_append _ _ _ _ (by simpa using near), getD_map_range, if_pos near]
    · rw [List.getD_append_right _ _ _ _ (by simpa using near), getD_replicate_self, extentOf, if_neg within, if_neg near]

theorem laterExtent_getD (j : Nat) : (idValues d none).2.1.getD j 1 = if j < descDims d then descSize d j else 1 := getD_map_range

theorem idSlice_first : BitVec.ofNat 64 (idValues d (some (n, k))).2.2 = sliceWord d n k := by
  rw [idValues, Option.elim_some, firstStageId_eq, sliceWord]

/-! ### The registers at the end of the placement -/

variable {s : State} {c i : Nat} {l : Launch} {p : Placement}

theorem Identified.handled (h : Identified d e first r) (die lid ctx : Nat) (es : List Nat) : Identified d e first (handled die lid ctx es c r) := by
  obtain ⟨stage, idstage, idorg, idext, idslice⟩ := h
  exact ⟨stage, idstage, idorg, idext, idslice⟩

theorem hstore_writeCell {j : Nat} (stage : p.stages[j]? = some e) (here : resident s c l.ctx = true) :
    tget (posOf (writeCell l p s c) c l.ctx).hstore (32 + j) 0 = mkHandle 3 l.ctx (stageEid p.die p.lid e) c := by
  rw [posOf_writeCell here]
  exact hstore_handled stage _

theorem identified_writeCell {lot : List Nat} (stage : p.stages[i]? = some e) (deal : (lotsOf l p)[i]? = some lot) (at_ : lot[k]? = some c)
    (once : (lotsOf l p).flatten.count c = 1) (here : resident s c l.ctx = true) :
    Identified l.desc e (if i = 0 then some (((lotsOf l p).headD []).length, k) else none) (posOf (writeCell l p s c) c l.ctx) := by
  rw [posOf_writeCell here, cellIds_once stage deal at_ once, writeIds_eq, posOf_modPos here]
  exact (identified_spec _).handled ..

/-- The registers' values by stage and place (R89). -/
theorem Identified.values {lot : List Nat} (h : Identified l.desc e (if i = 0 then some (((lotsOf l p).headD []).length, k) else none) r)
    (deal : (lotsOf l p)[i]? = some lot) (j : BitVec 2) :
    rget r.idorg j = BitVec.ofNat 64 (if i = 0 then originOf l.desc k j.toNat else 0) ∧
    rget r.idext j = BitVec.ofNat 64 (if i = 0 then extentOf l.desc k j.toNat
      else if j.toNat < descDims l.desc then descSize l.desc j.toNat else 1) ∧
    r.idslice = (if i = 0 then sliceWord l.desc lot.length k else BitVec.ofNat 64 (descN l.desc * 2 ^ 32)) := by
  rw [h.idorg, h.idext, h.idslice, rget_regs4, rget_regs4]
  by_cases first : i = 0
  · subst first
    have head : (lotsOf l p).headD [] = lot := by rw [List.headD_eq_head?_getD, List.head?_eq_getElem?, deal, Option.getD_some]
    rw [if_pos rfl, if_pos rfl, if_pos rfl, if_pos rfl, originOf_getD, extentOf_getD j.isLt, idSlice_first, head]
    exact ⟨rfl, rfl, rfl⟩
  · rw [if_neg first, if_neg first, if_neg first, if_neg first, laterExtent_getD]
    exact ⟨rfl, rfl, rfl⟩

end identity

/-- Settles O53: each outcome of the launch unit's event is a lemma on `placeNext`; a refusal ends in `endState`, since its record's turn has come;
and what is written at a cell is found there at the end, since nothing that follows touches positions. -/
theorem launchIsPlaced : Obligations.LaunchIsPlaced := by
  unfold Obligations.LaunchIsPlaced
  refine ⟨fun s d ctx killed => (exec_launchPlacement ..).trans (event_none (launchPlacement_killed killed)), fun s d ctx l found alive => ?_⟩
  have next : NextLaunch s d ctx l := ⟨found, alive⟩
  have same := next.ctx_eq
  subst same
  refine ⟨fun share claim bad can => ?_, fun share claim ok bad bad' can => ?_, fun share claim ok good never can => ?_,
    fun share ok good possible busy settled => ?_, fun share ok good possible free => ?_, fun p share => ⟨fun some_ all settled => ?_,
    fun some_ part => ?_, fun none_ accepted reels => ?_⟩⟩
  · exact exec_placed next ((placeNext_invalid share bad).trans (congrArg some (refuseLaunch_ends 1 claim can)))
  · exact exec_placed next ((placeNext_badReel share ok bad).trans (congrArg some (refuseLaunch_ends 4 claim can)))
  · exact exec_placed next ((placeNext_never share ok good never).trans (congrArg some (refuseLaunch_ends 3 claim can)))
  · exact exec_waits next (placeNext_busy share ok good possible busy) settled
  · refine ⟨allot s l d, exec_placed next (placeNext_free share ok good possible free), allot_mem .., allot_launches .., fun i e hi at_ => ?_⟩
    rw [stageAt_allot, stageAt_stagesPut hi at_]
  · exact exec_waits next ((placeNext_share share).trans (writeReady_waits some_ all)) settled
  · have die : p.die = d := by simpa using List.find?_some share
    have kept := posOnly_foldl (posOnly_writeCell l p) (readyCells s l p) s
    refine ⟨_, exec_placed next ((placeNext_share share).trans (writeReady_part some_ part)), kept.mem, ?_⟩
    rw [modLaunch_launches, kept.launches, die]
    simp only [beq_iff_eq]
    rfl
  · obtain ⟨s', groups, placed, launches, positions⟩ := placeNext_last share none_ accepted reels
    have die : p.die = d := by simpa using List.find?_some share
    subst die
    refine ⟨s', groups, exec_placed next placed, launches.trans ?_, fun c mem here => ?_⟩
    · simp only [placedOn_eq rfl]
    · dsimp only
      rw [positions]
      refine ⟨fun j e stage => ?_, fun i e k lot stage deal at_ once => ?_⟩
      · exact posOf_foldl_writeCell (Q := fun r => tget r.hstore (32 + j) 0 = _) (fun _ => hstore_writeCell stage) mem here
      · have ids := posOf_foldl_writeCell (fun _ => identified_writeCell stage deal at_ once) mem here
        exact ⟨ids.stage, ids.idstage, ids.values deal⟩

end Sys2Proof.Proofs
end
